-- ==== Sys2Proof/Word.lean ====
section
/-! DEFINITION. The word types of the device (R7, R13): bytes, 32-bit registers and 64-bit words. -/

namespace Sys2Proof

/-- A byte of memory. -/
abbrev Byte := BitVec 8

/-- A 32-bit general register (R14). -/
abbrev Word := BitVec 32

/-- A 64-bit value: a register pair, an address, an instruction word (R18, R60). -/
abbrev DWord := BitVec 64

end Sys2Proof
end

