-- ==== Sys2Proof/Syntax.lean ====
section
/-! DEFINITION. The syntax of one step of the device: the 158 Lamen instructions with the fields of their
words (R60, R61), and the 114 events of the device's other agents, one constructor for each row of
spec/opcode_table.json. -/

namespace Sys2Proof

/-- The common fields of an instruction word (R60). -/
structure Head where
  stall : BitVec 3
  sp : Bool
  we : Bool
  wslot : BitVec 3
  gn : Bool
  gp : BitVec 3
  deriving DecidableEq, Repr

/-- Format RRR (R61): register arithmetic, compares, moves. -/
structure RRR where
  d : BitVec 8
  a : BitVec 8
  b : BitVec 8
  c : BitVec 8
  ty : BitVec 4
  mod : BitVec 7
  deriving DecidableEq, Repr

/-- Format RI (R61): 32-bit operations with a 27-bit immediate. -/
structure RI where
  d : BitVec 8
  a : BitVec 8
  imm : BitVec 27
  deriving DecidableEq, Repr

/-- Format K (R61): 32-bit constants. -/
structure KF where
  d : BitVec 8
  km : BitVec 3
  imm : BitVec 32
  deriving DecidableEq, Repr

/-- Format M (R61, R62): addressed loads, stores, prefetch, fence. -/
structure MF where
  t : BitVec 8
  a : BitVec 8
  b : BitVec 8
  off : BitVec 16
  cp : BitVec 3
  deriving DecidableEq, Repr

/-- Format X (R61): everything with a function field of its own. -/
structure XF where
  d : BitVec 8
  a : BitVec 8
  b : BitVec 8
  c : BitVec 8
  fn : BitVec 11
  deriving DecidableEq, Repr

/-- Format B (R61, R64): branches and calls. `z` is the field [34:32] that must be zero. -/
structure BF where
  l : BitVec 8
  z : BitVec 3
  off : BitVec 32
  deriving DecidableEq, Repr

/-- Who accesses a device register (R385): a PCIe function (0 is the physical function) or a Lamen
program of a context through its DEVICE mapping. -/
inductive Accessor where
  | func (f : Nat)
  | program (ctx : Nat)
  deriving DecidableEq, Repr

/-- A granule of a protected structure of R403 in which an error can be met: a register, a 32-byte sector, an accumulator
element, or an entry that parity guards. -/
inductive Site where
  | register (tid reg : Nat)
  | scratch (team sector : Nat)
  /-- A sector of a line in a core's L1. -/
  | level1 (col core sector : Nat)
  /-- A sector of a line in a column's L2. -/
  | cache (col sector : Nat)
  | texels (ctx index sector : Nat)
  | weights (col sector : Nat)
  | accumulator (team element : Nat)
  | memory (sector : Nat)
  | parity (col : Nat)
  deriving DecidableEq, Repr

/-- What an access from outside the package asks for (R388, R392): to read bytes, to write them, or to perform an operation of R136
on them. `answer` is a peer's answer to this package's oldest request at an address of an aperture, with what the peer's
memory held and whether it was marked. -/
inductive Request where
  | read (n : Nat)
  | write (bytes : List (BitVec 8))
  | atomic (aop aty : Nat) (b cmp : BitVec 64)
  | answer (bytes : List (BitVec 8)) (marked : Bool)
  deriving DecidableEq, Repr

/-- A column whose control logic failed, and the lines that its caches cannot write back (R407). -/
structure ColumnError where
  col : Nat
  stuck : List Nat
  deriving DecidableEq, Repr

/-- A flit that failed at a port, by its replay where `again` (R391). -/
structure FlitError where
  port : Nat
  again : Bool
  deriving DecidableEq, Repr

/-- A physical address as a peer package names it (R392, R393). -/
structure PeerAddr where
  peer : Nat
  addr : Nat
  deriving DecidableEq, Repr

/-- One step of the device. A Lamen instruction carries the fields of its word and acts for the thread
that issues it; an event carries the unit, thread, queue or value it concerns. -/
inductive Instr where
  /-- Adds two typed integer sources, wrapping or saturating, into the destination. (R82) -/
  | add (h : Head) (o : RRR)
  /-- Subtracts two typed integer sources, wrapping or saturating. (R82) -/
  | sub (h : Head) (o : RRR)
  /-- Adds two n32 sources and a carry-in predicate, writing the sum and a carry-out predicate. (R84) -/
  | addc (h : Head) (o : RRR)
  /-- Subtracts two n32 sources and a borrow-in predicate, writing the difference and a borrow-out predicate. (R84) -/
  | subb (h : Head) (o : RRR)
  /-- Multiplies two typed integer sources, keeping the low bits. (R82) -/
  | mul (h : Head) (o : RRR)
  /-- Writes the high w bits of the 2w-bit product of two integer sources. (R82) -/
  | mulhi (h : Head) (o : RRR)
  /-- Writes the 64-bit product of two 32-bit integer sources to a register pair. (R83) -/
  | mulw (h : Head) (o : RRR)
  /-- Computes a times b plus c on typed integers, wrapping. (R82) -/
  | mad (h : Head) (o : RRR)
  /-- Adds the 64-bit product of two 32-bit sources to a 64-bit pair, wrapping. (R83) -/
  | madw (h : Head) (o : RRR)
  /-- Adds three typed integer sources with one wrap or clamp. (R82) -/
  | add3 (h : Head) (o : RRR)
  /-- Writes the lesser of two typed integer sources. (R82) -/
  | min (h : Head) (o : RRR)
  /-- Writes the greater of two typed integer sources. (R82) -/
  | max (h : Head) (o : RRR)
  /-- Writes the absolute value of a signed integer source. (R82) -/
  | abs (h : Head) (o : RRR)
  /-- Writes the negation of an integer source, wrapping or saturating. (R82) -/
  | neg (h : Head) (o : RRR)
  /-- Writes the bitwise AND of two sources. (R85) -/
  | and (h : Head) (o : RRR)
  /-- Writes the bitwise OR of two sources. (R85) -/
  | or (h : Head) (o : RRR)
  /-- Writes the bitwise XOR of two sources. (R85) -/
  | xor (h : Head) (o : RRR)
  /-- Writes the bitwise complement of a source. (R85) -/
  | not (h : Head) (o : RRR)
  /-- Writes a AND NOT b. (R85) -/
  | andn (h : Head) (o : RRR)
  /-- Shifts a source left by a register count. (R86) -/
  | shl (h : Head) (o : RRR)
  /-- Shifts a source right logically by a register count. (R86) -/
  | shr (h : Head) (o : RRR)
  /-- Shifts a source right arithmetically by a register count. (R86) -/
  | sar (h : Head) (o : RRR)
  /-- Rotates a source left by a register count modulo its width. (R86) -/
  | rot (h : Head) (o : RRR)
  /-- Extracts a bit field, optionally sign-extended. (R87) -/
  | bfx (h : Head) (o : RRR)
  /-- Inserts a bit field of a into c. (R87) -/
  | bfi (h : Head) (o : RRR)
  /-- Writes the count of leading zero bits. (R88) -/
  | clz (h : Head) (o : RRR)
  /-- Writes the count of one bits. (R88) -/
  | popc (h : Head) (o : RRR)
  /-- Writes the source with its bits reversed. (R88) -/
  | brev (h : Head) (o : RRR)
  /-- Builds a word byte by byte from eight source bytes under a control word. (R89) -/
  | bpick (h : Head) (o : RRR)
  /-- Adds a shifted, extended index to a 64-bit base. (R90) -/
  | lea (h : Head) (o : RRR)
  /-- Adds the exact four-byte dot product of two words to an i32 accumulator. (R91) -/
  | dp4 (h : Head) (o : RRR)
  /-- Adds a sign-extended 27-bit immediate to a word. (R92) -/
  | addi (h : Head) (o : RI)
  /-- Multiplies a word by a sign-extended immediate. (R92) -/
  | muli (h : Head) (o : RI)
  /-- ANDs a word with a sign-extended immediate. (R92) -/
  | andi (h : Head) (o : RI)
  /-- ORs a word with a sign-extended immediate. (R92) -/
  | ori (h : Head) (o : RI)
  /-- XORs a word with a sign-extended immediate. (R92) -/
  | xori (h : Head) (o : RI)
  /-- Shifts a word left by an immediate count. (R92) -/
  | shli (h : Head) (o : RI)
  /-- Shifts a word right logically by an immediate count. (R92) -/
  | shri (h : Head) (o : RI)
  /-- Shifts a word right arithmetically by an immediate count. (R92) -/
  | sari (h : Head) (o : RI)
  /-- Compares a word with an immediate and writes a predicate. (R92) -/
  | cmpi (h : Head) (o : RI)
  /-- Adds two binary32 values with one rounding. (R95) -/
  | fadd (h : Head) (o : RRR)
  /-- Subtracts two binary32 values with one rounding. (R95) -/
  | fsub (h : Head) (o : RRR)
  /-- Multiplies two binary32 values with one rounding. (R95) -/
  | fmul (h : Head) (o : RRR)
  /-- Computes a times b plus c in binary32 with one rounding. (R95) -/
  | ffma (h : Head) (o : RRR)
  /-- Returns the lesser of two binary32 inputs under the NaN and zero rules. (R96) -/
  | fmin (h : Head) (o : RRR)
  /-- Returns the greater of two binary32 inputs under the NaN and zero rules. (R96) -/
  | fmax (h : Head) (o : RRR)
  /-- Issues a correctly rounded binary32 division with variable latency. (R95) -/
  | fdiv (h : Head) (o : RRR)
  /-- Issues a correctly rounded binary32 square root with variable latency. (R95) -/
  | fsqrt (h : Head) (o : RRR)
  /-- Issues a correctly rounded binary32 reciprocal with variable latency. (R95) -/
  | frcp (h : Head) (o : RRR)
  /-- Issues a correctly rounded binary32 reciprocal square root with variable latency. (R95) -/
  | frsq (h : Head) (o : RRR)
  /-- Issues a correctly rounded binary32 base-2 exponential. (R95) -/
  | fexp2 (h : Head) (o : RRR)
  /-- Issues a correctly rounded binary32 base-2 logarithm. (R95) -/
  | flog2 (h : Head) (o : RRR)
  /-- Issues a correctly rounded sin(pi x) in binary32. (R95) -/
  | fsinpi (h : Head) (o : RRR)
  /-- Issues a correctly rounded cos(pi x) in binary32. (R95) -/
  | fcospi (h : Head) (o : RRR)
  /-- Issues a correctly rounded tanh in binary32. (R95) -/
  | ftanh (h : Head) (o : RRR)
  /-- Rounds a binary32 value to an integral value in the selected mode. (R95) -/
  | frnd (h : Head) (o : RRR)
  /-- Scales a binary32 value by a power of two with one rounding. (R95) -/
  | fscl (h : Head) (o : RRR)
  /-- Compares two binary32 values and combines the result into a predicate. (R99) -/
  | fcmp (h : Head) (o : RRR)
  /-- Writes a one-hot class word for a floating value. (R100) -/
  | fclass (h : Head) (o : RRR)
  /-- Adds packed half-format pairs, each half rounded once. (R101) -/
  | hadd2 (h : Head) (o : RRR)
  /-- Multiplies packed half-format pairs. (R101) -/
  | hmul2 (h : Head) (o : RRR)
  /-- Fused multiply-add on packed half-format pairs. (R101) -/
  | hfma2 (h : Head) (o : RRR)
  /-- Per-half minimum of packed half-format pairs. (R101) -/
  | hmin2 (h : Head) (o : RRR)
  /-- Per-half maximum of packed half-format pairs. (R101) -/
  | hmax2 (h : Head) (o : RRR)
  /-- Computes a two-element half dot product plus an f32 addend with one rounding. (R102) -/
  | fdot2 (h : Head) (o : RRR)
  /-- Narrows an f32 word to a smaller floating format. (R104) -/
  | fcvt (h : Head) (o : RRR)
  /-- Converts an integer to f32. (R105) -/
  | i2f (h : Head) (o : RRR)
  /-- Converts an f32 value to a saturated integer. (R105) -/
  | f2i (h : Head) (o : RRR)
  /-- Converts two f32 values and packs them into a word. (R106) -/
  | fpk (h : Head) (o : RRR)
  /-- Widens one packed element to f32 exactly. (R107) -/
  | fupk (h : Head) (o : RRR)
  /-- Adds an f32 immediate to a register in place. (R98) -/
  | faddk (h : Head) (o : KF)
  /-- Multiplies a register in place by an f32 immediate. (R98) -/
  | fmulk (h : Head) (o : KF)
  /-- Copies a source to the destination unchanged. (R108) -/
  | mov (h : Head) (o : RRR)
  /-- Writes a 32-bit constant, extended or into the high half of a pair. (R109) -/
  | movk (h : Head) (o : KF)
  /-- Selects one of two sources by a predicate. (R94) -/
  | sel (h : Head) (o : RRR)
  /-- Compares two integer sources and combines the result into a predicate. (R93) -/
  | cmp (h : Head) (o : RRR)
  /-- ANDs two predicates. (R110) -/
  | pand (h : Head) (o : RRR)
  /-- ORs two predicates. (R110) -/
  | por (h : Head) (o : RRR)
  /-- XORs two predicates. (R110) -/
  | pxor (h : Head) (o : RRR)
  /-- Inverts a predicate. (R110) -/
  | pnot (h : Head) (o : RRR)
  /-- Reads all predicates into a register. (R111) -/
  | prd (h : Head) (o : RRR)
  /-- Writes masked predicates from a register. (R111) -/
  | pwr (h : Head) (o : RRR)
  /-- Reads a special register into a word destination. (R113) -/
  | rds (h : Head) (o : XF)
  /-- Writes the team item counter through a special register. (R113) -/
  | wrs (h : Head) (o : XF)
  /-- Computes the horizontal quad difference of a register. (R117) -/
  | ddx (h : Head) (o : RRR)
  /-- Computes the vertical quad difference of a register. (R117) -/
  | ddy (h : Head) (o : RRR)
  /-- Reads a register from another member of the pixel quad. (R118) -/
  | qswz (h : Head) (o : RRR)
  /-- Issues a load into leased destination registers. (R128) -/
  | ld (h : Head) (o : MF)
  /-- Issues a load without coherence tracking. (R130) -/
  | ldro (h : Head) (o : MF)
  /-- Issues a load that waits for an open ink region's watermark. (R132) -/
  | ldw (h : Head) (o : MF)
  /-- Writes register data to memory at the effective address. (R129) -/
  | st (h : Head) (o : MF)
  /-- Brings a line towards the core without changing architectural state. (R131) -/
  | pref (h : Head) (o : MF)
  /-- Blocks until the selected ordering holds at the page's scope. (R133) -/
  | fence (h : Head) (o : MF)
  /-- Writes back dirty bytes of MANAGED lines in a range. (R134) -/
  | wbr (h : Head) (o : XF)
  /-- Writes back and discards MANAGED lines in a range. (R134) -/
  | invr (h : Head) (o : XF)
  /-- Performs an atomic read-modify-write and returns the old value. (R136) -/
  | atom (h : Head) (o : XF)
  /-- Performs an atomic compare-and-swap and returns the old value. (R136) -/
  | cas (h : Head) (o : XF)
  /-- Performs an atomic reduction under the sector's reduction tag, returning nothing. (R137) -/
  | red (h : Head) (o : XF)
  /-- Adds an f32 value exactly into an exact-sum object. (R138) -/
  | xadd (h : Head) (o : XF)
  /-- Rounds out an exact-sum object, optionally clearing it. (R138) -/
  | xrd (h : Head) (o : XF)
  /-- Reserves space at an ink region's tail and writes words there. (R140) -/
  | append (h : Head) (o : XF)
  /-- Freezes an ink region's tail and seals it once the watermark reaches the tail. (R142) -/
  | seal (h : Head) (o : XF)
  /-- Retires replicas, zeroes and reopens an ink region. (R143) -/
  | inkfree (h : Head) (o : XF)
  /-- Reads an ink region's state, tail, watermark and limit. (R145) -/
  | inkstat (h : Head) (o : XF)
  /-- Commits or aborts an atomic group and writes a predicate. (R147) -/
  | tcom (h : Head) (o : XF)
  /-- Pushes an entry onto a team scratchpad queue, waiting for room. (R149) -/
  | qpush (h : Head) (o : XF)
  /-- Pops an entry from a team queue, waiting while it is empty. (R149) -/
  | qpop (h : Head) (o : XF)
  /-- Pushes or pops a queue entry without waiting and writes success to a predicate. (R149) -/
  | qtry (h : Head) (o : XF)
  /-- Arrives on a team barrier with a count. (R150) -/
  | barr (h : Head) (o : XF)
  /-- Waits on a team barrier for a target phase. (R150) -/
  | bwait (h : Head) (o : XF)
  /-- Arrives on a team barrier and waits for the next phase. (R150) -/
  | barrw (h : Head) (o : XF)
  /-- Configures a team barrier's expected count and resets it. (R150) -/
  | bcfg (h : Head) (o : XF)
  /-- Arrives on a barrier object in memory. (R151) -/
  | mbarr (h : Head) (o : XF)
  /-- Waits on a memory barrier object for a target phase. (R151) -/
  | mbwait (h : Head) (o : XF)
  /-- Arms a convergence register with an mma descriptor and a count. (R153) -/
  | cvarm (h : Head) (o : XF)
  /-- Signs a convergence register, issuing its mma at the final signature. (R154) -/
  | sign (h : Head) (o : XF)
  /-- Places a spawn request in the core's bin for an entry address. (R155) -/
  | spawn (h : Head) (o : XF)
  /-- Ends the thread after its slots clear, releasing its registers and slot. (R156) -/
  | exit (h : Head) (o : XF)
  /-- Takes the next item index from the team item counter. (R157) -/
  | refill (h : Head) (o : XF)
  /-- Requests extended register blocks from the lane's pool. (R158) -/
  | blkget (h : Head) (o : XF)
  /-- Returns extended register blocks to the lane's pool. (R159) -/
  | blkput (h : Head) (o : XF)
  /-- Marks the thread to yield at the next formation. (R160) -/
  | yield (h : Head) (o : XF)
  /-- Makes the thread not ready for a given number of cycles. (R160) -/
  | nap (h : Head) (o : XF)
  /-- Waits until the named scoreboard slots clear. (R160) -/
  | sbw (h : Head) (o : XF)
  /-- Loads a texel from its Vellum bank into leased registers. (R174) -/
  | sfld (h : Head) (o : XF)
  /-- Stores a texel at its Vellum bank. (R174) -/
  | sfst (h : Head) (o : XF)
  /-- Performs an atomic read-modify-write on a texel at its nib unit. (R174) -/
  | sfatom (h : Head) (o : XF)
  /-- Waits for earlier surface writes and discards texture cache lines. (R175) -/
  | sffence (h : Head) (o : XF)
  /-- Samples a surface with nearest or bilinear filtering. (R177) -/
  | tex (h : Head) (o : XF)
  /-- Gathers one channel of the four bilinear texels. (R177) -/
  | texg (h : Head) (o : XF)
  /-- Reads a surface table entry's size, format and state. (R178) -/
  | texq (h : Head) (o : XF)
  /-- Emits a primitive from a geometry thread to setup. (R180) -/
  | pemit (h : Head) (o : XF)
  /-- Queues a fragment's colour or depth value under its ticket. (R181) -/
  | pxout (h : Head) (o : XF)
  /-- Retires the fragment's ticket at once with no writes. (R182) -/
  | pxkill (h : Head) (o : XF)
  /-- Enters or leaves the pixel's ordered region. (R183) -/
  | pxord (h : Head) (o : XF)
  /-- Starts or continues a ray traversal from its record. (R186) -/
  | trace (h : Head) (o : XF)
  /-- Applies an any-hit decision to a pending record and continues traversal. (R187) -/
  | tcont (h : Head) (o : XF)
  /-- Sends a lane's network evaluation request to the gatherer. (R190) -/
  | neval (h : Head) (o : XF)
  /-- Dispatches every gatherer tile holding a request of the issuing team. (R192) -/
  | nflush (h : Head) (o : XF)
  /-- Reads the full bits of 32 result lines. (R202) -/
  | rstat (h : Head) (o : XF)
  /-- Issues a matrix multiply-accumulate described by a descriptor. (R193) -/
  | mma (h : Head) (o : XF)
  /-- Zeroes a range of accumulator tiles. (R195) -/
  | accz (h : Head) (o : XF)
  /-- Loads accumulator tiles from scratchpad. (R195) -/
  | accld (h : Head) (o : XF)
  /-- Writes accumulator tiles out with scale, bias, activation and conversion. (R197) -/
  | accst (h : Head) (o : XF)
  /-- Issues a copy engine operation described by a descriptor. (R198) -/
  | copy (h : Head) (o : XF)
  /-- Issues a gather-reduce command to the HBM reduce units. (R200) -/
  | gred (h : Head) (o : XF)
  /-- Branches to a clause relative to the current header. (R64) -/
  | bra (h : Head) (o : BF)
  /-- Branches to a register address plus offset. (R64) -/
  | brx (h : Head) (o : BF)
  /-- Pushes the return address, spilling if needed, and branches. (R25) -/
  | call (h : Head) (o : BF)
  /-- Pushes the return address and branches to a register address. (R25) -/
  | callx (h : Head) (o : BF)
  /-- Returns to the address popped or reloaded from the return stack. (R25) -/
  | ret (h : Head) (o : BF)
  /-- Takes a software trap with an address operand. (R163) -/
  | trap (h : Head) (o : XF)
  /-- Leaves the trap handler to the saved or given address. (R165) -/
  | tret (h : Head) (o : XF)
  /-- Takes a breakpoint trap with a code. (R163) -/
  | brk (h : Head) (o : XF)
  /-- Changes no state apart from its stall count. (R112) -/
  | nop (h : Head) (o : XF)
  /-- Reads a field of the thread's trap record. (R205) -/
  | tinfo (h : Head) (o : XF)
  /-- Reads the package time in nanoseconds. (R203) -/
  | rdtime (h : Head) (o : XF)
  /-- Reads a column counter into a register pair. (R204) -/
  | rdctr (h : Head) (o : XF)
  /-- A word whose OP value the opcode map does not list is issued and raises an illegal instruction fault. (R75) -/
  | unlistedOpcodeIssue (word : BitVec 64)
  /-- A pen forms a stroke from its oldest ready unit and units at the same program counter. (R209) -/
  | strokeFormation (col : Nat) (core : Nat) (pen : Nat)
  /-- A variable-latency result lands, ending its leases and clearing its slot share. (R24) -/
  | destinationWritten (op : Nat)
  /-- A blocking instruction completes and its detached thread returns to the pool. (R212) -/
  | blockingInstructionComplete (tid : Nat)
  /-- A deferred fault is found, ending the instruction's leases and leaving the fault pending. (R124) -/
  | deferredFaultFound (op : Nat)
  /-- A pending deferred fault is delivered at a clause boundary or at a consuming instruction. (R124) -/
  | deferredFaultDelivery (tid : Nat)
  /-- A trapping thread, once its slots clear, records its trap and enters the handler. (R164) -/
  | trapHandlerEntry (tid : Nat)
  /-- A nap count runs out and the thread becomes ready. (R160) -/
  | napExpiry (tid : Nat)
  /-- The head blkget request of a lane is served when the pool holds its blocks. (R220) -/
  | blkgetServed (col : Nat) (core : Nat) (lane : Nat)
  /-- A waiting push or pop is served once room or an entry appears. (R149) -/
  | queueWaiterServed (team : Nat) (q : Nat)
  /-- A spawn bin's timer expires and its requests are released. (R217) -/
  | binTimerExpiry (col : Nat) (core : Nat) (bin : Nat)
  /-- A team whose threads, bin requests and engine work are all done retires and its state is zeroed. (R156) -/
  | teamRetirement (team : Nat)
  /-- A matrix operation completes, releases its locks and arrives on its barrier. (R169) -/
  | mmaCompletion (eop : Nat)
  /-- An accumulator load completes and arrives on its barrier. (R195) -/
  | accldCompletion (eop : Nat)
  /-- An accumulator store completes and arrives on its barrier. (R197) -/
  | accstCompletion (eop : Nat)
  /-- An engine operation fails, sets the barrier error and records its failed items. (R169) -/
  | engineFailure (eop : Nat)
  /-- An open gatherer tile's window expires and the tile dispatches. (R279) -/
  | gatherWindowExpiry (tile : Nat)
  /-- A gatherer tile's results are scattered to each lane's destinations. (R280) -/
  | tileResultScatter (tile : Nat)
  /-- A traversal returns a status, writes its record and then its registers. (R186) -/
  | traversalCompletion (op : Nat) (drained : Bool)
  /-- A copy chunk is read whole and then written. (R310) -/
  | copyChunkComplete (eop : Nat) (chunk : Nat)
  /-- A copy completes, releases its locks and arrives on its barrier. (R311) -/
  | copyCompletion (eop : Nat)
  /-- A chunk fails and the engine writes a copy fault record and waits. (R313) -/
  | copyChunkFailure (eop : Nat) (chunk : Nat)
  /-- A copy-resume doorbell with disposition replay resumes the copy at its cursor. (R314) -/
  | copyReplay (col : Nat) (value : BitVec 64)
  /-- A copy-resume doorbell with disposition cancel releases locks and arrives with error. (R314) -/
  | copyCancel (col : Nat) (value : BitVec 64)
  /-- A gred command is accepted at its result row's home controller and its lines become empty. (R395) -/
  | gredCommandAccept (cmd : Nat)
  /-- A reduce unit takes a sub-command and forms exact partial sums. (R316) -/
  | reduceSubcommand (cmd : Nat) (unit : Nat)
  /-- A reduce unit's segment ends and it releases the banks it held. (R317) -/
  | reduceSegmentEnd (unit : Nat)
  /-- The home controller adds partials, rounds once, writes the row and fills the lines. (R318) -/
  | gredResultWrite (cmd : Nat)
  /-- A failed row read fails the command and fills its lines with poisoned data. (R201) -/
  | gredCommandFailure (cmd : Nat)
  /-- A load waiting on an empty result line for 110,000 cycles returns poisoned data. (R318) -/
  | emptyLineTimeout (op : Nat)
  /-- An ldw waits 110,000 cycles without the watermark passing and takes an ink read fault. (R132) -/
  | ldwTimeout (op : Nat)
  /-- A stroke's append requests reach the region home and receive offsets. (R140) -/
  | appendRequestAtHome (stamp : Nat)
  /-- A reservation's data is performed and the watermark advances. (R361) -/
  | appendDataPerformed (op : Nat)
  /-- A reservation fails to land and its bytes are written zero and poisoned. (R362) -/
  | appendDataLost (op : Nat)
  /-- A seal request reaches the home and freezes the tail. (R364) -/
  | sealRequestAtHome (tid : Nat)
  /-- A freeing region's home sends a retirement and each column discards its copies. (R368) -/
  | inkRetirement (ctx : Nat) (region : Nat)
  /-- A column's acknowledgement reaches the home; the last one zeroes and reopens the region. (R368) -/
  | retirementAcknowledgement (ctx : Nat) (region : Nat) (col : Nat)
  /-- A column requests a replica of a sealed page and copies it if granted. (R365) -/
  | replicaGrantRequest (col : Nat) (ctx : Nat) (region : Nat) (page : Nat)
  /-- A column drops its least recently used replica page. (R367) -/
  | replicaDrop (col : Nat)
  /-- A clear reaches the home and the column's replica mask bit is cleared. (R367) -/
  | replicaClear (col : Nat) (ctx : Nat) (region : Nat)
  /-- At each 1 ms window the measured power decides issue throttling. (R430) -/
  | powerWindow (milliwatts : Nat)
  /-- At each epoch end the migration unit considers moves and halves its counts. (R353) -/
  | migrationEpochEnd (col : Nat) (occupancy : Nat)
  /-- A write of VALID 0 retires and zeroes the region and then releases it. (R359) -/
  | inkRegionDestroy (ctx : Nat) (region : Nat)
  /-- A request that failed twice to gather tokens becomes persistent at the slice. (R227) -/
  | persistentRequest (col : Nat) (core : Nat) (line : Nat)
  /-- The home recalls an owned PACKAGE line, writing back older dirty lines of the owner. (R235) -/
  | recall (line : Nat)
  /-- A column evicts a line, writing back dirty data and returning ownership. (R234) -/
  | eviction (col : Nat) (line : Nat)
  /-- A page-fault record waiting for ring room is posted when room appears. (R349) -/
  | pageFaultRecordDelayed (token : Nat)
  /-- A resolved answer makes the column walk again and replay the page's logged accesses. (R350) -/
  | tfrespResolved (col : Nat) (ctx : Nat) (token : Nat)
  /-- An unresolvable answer gives each logged lane a deferred translation fault. (R350) -/
  | tfrespUnresolvable (col : Nat) (ctx : Nat) (token : Nat)
  /-- A TINVCTL write starts a translation invalidation command. (R348) -/
  | tinvctlCommand (value : BitVec 64)
  /-- An invalidation command finishes and BUSY clears. (R348) -/
  | tinvComplete
  /-- Writing a surface entry valid reserves Vellum space and zeroes or clears its texels. (R248) -/
  | surfaceEntryValid (ctx : Nat) (index : Nat) (entry : BitVec 512)
  /-- Writing VALID 0 releases the surface's tiles and spilled contents. (R248) -/
  | surfaceEntryInvalidate (ctx : Nat) (index : Nat)
  /-- The Blotter spills a victim tile to its spill slot. (R252) -/
  | blotterSpill (ctx : Nat) (index : Nat) (tile : Nat)
  /-- A spilled tile is refilled and waiting accesses proceed. (R253) -/
  | tileRefill (ctx : Nat) (index : Nat) (tile : Nat)
  /-- Setup accepts a primitive into its reorder buffer. (R256) -/
  | setupAccept (tid : Nat)
  /-- Setup forwards a primitive and frontier to every column its box touches. (R257) -/
  | primitiveForward (launch : Nat) (team : Nat)
  /-- A column's rasterizer takes the least primitive, issues tickets and starts pixel threads. (R260) -/
  | rasterize (col : Nat) (queue : Nat)
  /-- A nib unit tests, blends and writes a pixel's next retired ticket in order. (R264) -/
  | nibUnitAct (ticket : Nat)
  /-- A draw completes once all teams, primitives and tickets are done. (R268) -/
  | drawCompletion (launch : Nat)
  /-- Setting EN in a queue entry resets head, tail and draw sequence and starts dispatch. (R326) -/
  | queueEnable (q : Nat) (entry : BitVec 256)
  /-- Clearing EN stops dispatch and withdraws undispatched records. (R326) -/
  | queueDisable (q : Nat)
  /-- A tail register write publishes new records or is rejected. (R327) -/
  | tailWrite (who : Accessor) (q : Nat) (value : BitVec 64)
  /-- The device reads a queue's next record in ring order. (R328) -/
  | recordExamine (q : Nat)
  /-- A write at a counter's home meets a record's wait event. (R335) -/
  | waitEventMet (q : Nat) (second : Bool)
  /-- A ready record is dispatched or fails at dispatch. (R334) -/
  | launchDispatch (q : Nat)
  /-- The scheduler places a team on a core where it fits. (R337) -/
  | teamPlacement (launch : Nat) (col : Nat) (core : Nat) (pens : Nat)
  /-- A cohort whose reservations are complete starts all its teams in one cycle. (R339) -/
  | cohortPlacement (launch : Nat)
  /-- A higher-priority team that cannot fit causes victim teams to be marked for save. (R340) -/
  | preemption (launch : Nat)
  /-- A WEIGHTLOAD record copies its source into the weight-store region of masked columns. (R277) -/
  | weightload (launch : Nat)
  /-- At completion the device adds one to the completion counter, setting bit 63 on failure. (R336) -/
  | launchCompletionSignal (launch : Nat)
  /-- A matrix engine retires nothing for 1,100,000 cycles and is reset alone. (R408) -/
  | matrixEngineHang (col : Nat) (core : Nat)
  /-- Writing VALID 0 terminates the context's work and releases its state. (R373) -/
  | contextDestroy (idx : Nat)
  /-- A resume answer lets a held thread continue at its saved program counter. (R377) -/
  | hfrespResume (ctx : Nat) (token : Nat)
  /-- A marked thread parks at a safe point, blocking instruction or hold. (R378) -/
  | threadPark (tid : Nat)
  /-- DLINE cycles after marking, an unparked thread parks at its next clause boundary. (R378) -/
  | deadlineExpiry (team : Nat)
  /-- Once the drain ends, the team's image is written to the save area. (R380) -/
  | teamSave (team : Nat)
  /-- A saved team is placed back on the same resources and its threads made ready. (R381) -/
  | teamRestore (team : Nat)
  /-- A virtual function's time slice ends. (R383) -/
  | sliceEnd
  /-- A counter command finishes in every column and BUSY clears. (R419) -/
  | ctrCommandDone
  /-- A write to a device register that has no behaviour row of its own. (R386) -/
  | registerWrite (who : Accessor) (off : Nat) (value : BitVec 64)
  /-- A fault record held for ring room is posted when room appears. (R413) -/
  | faultRecordPostDelayed (col : Nat)
  /-- A second-tier request without completion for 1 ms is ended. (R390) -/
  | cxlTimeout (req : Nat)
  /-- A peer request without answer within 1 ms is ended. (R392) -/
  | peerTimeout (req : Nat)
  /-- An unreachable peer counts as having acknowledged a SYSTEM region's retirement once its routes have been down for 1,100,000 cycles. (R393) -/
  | peerRoutesDownTimeout (peer : Nat)
  /-- An escalation record that waited in the column for room in the host fault queue is posted when room appears. (R375) -/
  | escalationRecordDelayed (tid : Nat)
  /-- A terminate-thread answer ends the held thread as exit would, recording it failed. (R377) -/
  | hfrespTerminateThread (ctx : Nat) (token : Nat)
  /-- A terminate-launch answer ends every thread of the launch and fails it. (R377) -/
  | hfrespTerminateLaunch (ctx : Nat) (token : Nat)
  /-- A load command reads a function's counter entries into live counters. (R419) -/
  | ctrcmdLoad (value : BitVec 64)
  /-- A store command writes live counters into a function's entries. (R419) -/
  | ctrcmdStore (value : BitVec 64)
  /-- An uncorrectable error marks its granule poisoned or refetches a clean copy. (R403) -/
  | uncorrectableError (site : Site)
  /-- The patrol scrub reads and corrects a word, poisoning uncorrectable sectors. (R403) -/
  | patrolScrub (col : Nat) (site : Site) (bad : Bool)
  /-- A core control error resets the core and terminates its teams. (R407) -/
  | coreControlError (col : Nat) (core : Nat)
  /-- A column control error resets every core of the column and flushes its caches. (R407) -/
  | columnControlError (e : ColumnError)
  /-- A host core access is performed at the line's home slice. (R388) -/
  | hostAccess (func : Nat) (addr : Nat) (r : Request)
  /-- A flit fails its CRC and is replayed, the port going down after 16 failures. (R391) -/
  | flitCrcFail (e : FlitError)
  /-- An aperture access goes over the Link and is performed at the peer's home slice. (R392) -/
  | peerAccess (peer : Nat) (addr : Nat) (r : Request)
  /-- Module reset runs the boot ROM, which verifies and applies an image. (R425) -/
  | moduleReset
  /-- The baseboard controller writes a configuration image into a slot. (R426) -/
  | imageWrite (slot : Nat) (image : Option (List (BitVec 8)))
  /-- An attestation request is answered with a signed report. (R428) -/
  | attestationRequest (nonce : List (BitVec 8))
  /-- The baseboard controller reads an error log entry and the entry count. (R414) -/
  | errorLogRead (index : Nat)
  /-- The baseboard controller reads and clears a column's correction counts. (R404) -/
  | correctionCountRead (col : Nat)
  /-- The baseboard controller sets a power cap. (R430) -/
  | powerCap (milliwatts : Nat)
  /-- A junction sensor above 105 C throttles its column until below 100 C. (R431) -/
  | thermalThrottle (col : Nat) (celsius : Nat)
  /-- At 115 C the device stops issuing and tells the baseboard controller. (R431) -/
  | thermalShutdown (col : Nat) (celsius : Nat)
  /-- Power is removed, ending the power span. (R6) -/
  | powerRemoval
  /-- A retirement sent by a peer package's freeing home arrives over the Link, and this package discards the region's cached lines and aperture copies and then acknowledges. (R393) -/
  | peerRetirementRequest (p : PeerAddr) (len : Nat)
  /-- A write of EN 0 drops every replica and zeroes the pool. (R366) -/
  | inkpoolDisable (col : Nat) (value : BitVec 64)
  /-- A write of EN 1 to INKPOOL enables the replica pool. (R366) -/
  | inkpoolEnable (col : Nat) (value : BitVec 64)
  /-- A sub-array's injected test result is checked and its block sums retired or recomputed. (R288) -/
  | matrixSelfTest (col : Nat) (core : Nat) (sub : Nat) (pass : Bool)
  /-- Writing a context descriptor valid creates the context. (R372) -/
  | contextCreate (idx : Nat) (desc : BitVec 1024)
  /-- System software writes a valid ink descriptor, creating an OPEN or SEALED region. (R359) -/
  | inkRegionCreate (ctx : Nat) (region : Nat) (desc : BitVec 256)
  /-- A write to DLINE, CHKSB, SMREP or TRAPENT of a live context. (R373) -/
  | contextFieldWrite (idx : Nat) (desc : BitVec 1024)
  /-- Writing CLR 1 to a valid entry sets every texel to the clear value. (R248) -/
  | surfaceEntryClear (ctx : Nat) (index : Nat) (entry : BitVec 512)
  deriving DecidableEq, Repr

end Sys2Proof
end

