-- ==== Sys2Proof/Config.lean ====
section
/-! DEFINITION. What the spec leaves open and an implementation fixes: opaque constants with no value a
proof could see. Each has an entry in notes/assumptions. -/

namespace Sys2Proof.Config

/-- The settings of a configuration image (R424): populated root ports, the power cap's default and floor in milliwatts, the
package number, `INKPOOL` of the columns that the image names, the apertures (number, peer package and base in the peer's physical
memory), the routes (package and Link port), and the sub-arrays fenced from boot (column, core, sub-array). -/
structure Settings where
  ports : Nat
  cap : Nat
  floor : Nat
  package : Nat
  inkpools : List (Nat × DWord)
  apertures : List (Nat × Nat × Nat)
  routes : List (Nat × Nat)
  fenced : List (Nat × Nat × Nat)
  deriving DecidableEq, Repr, Inhabited

/-- A free 64-bit value, applied to the counter `fresh` of the state that the step advances: a value the spec leaves
open (notes/assumptions/3.md). -/
opaque freeValue : Nat → DWord

/-- The events that come from outside the device, or that the device may choose at any time, at a count of the state that the step
advances: which and when is free (notes/assumptions/4.md). -/
opaque arrivals : Nat → List Instr

/-- A result that could land in a cycle lands later: the time an access takes is free (notes/assumptions/4.md). The arguments are a
count of the state that the step advances and the number of the operation. -/
opaque late : Nat → Nat → Bool

/-- In the cycles that are multiples of this number plus one nothing lands late, so that every result lands in finite time (R214,
notes/assumptions/4.md). -/
opaque latePeriod : Nat

/-- The number of return points that a traversal passes before a drain reaches it, for the number of its operation: the time a
traversal takes is free (R305, notes/assumptions/4.md). -/
opaque drainPoint : Nat → Nat

/-- A line that a core's texture caches hold answers a read of it, or is read anew, for a count of the state that the step advances
and the number of the line: which is free (R175, notes/assumptions/64.md). -/
opaque textureHit : Nat → Nat → Bool

/-- The LMS public key in the boot ROM, against which images are verified (R423): its identifier I and its root T[1]
(notes/assumptions/13.md). -/
opaque romIdentifier : BitVec 128

/-- The root T[1] of the boot ROM's LMS public key (R423). -/
opaque romRoot : BitVec 256

/-- The device secret, which the boot ROM derives from the SRAM start-up pattern and the helper data (R427). -/
opaque deviceSecret : BitVec 256

/-- The identity's LMS private seed, which the boot ROM derives from the secret (R427). -/
opaque identitySeed : BitVec 256 → BitVec 256

/-- The identifier I of the identity's LMS key (R427). -/
opaque identityIdentifier : BitVec 256 → BitVec 128

/-- The settings that the bytes of an image's BODY encode (R424): the spec gives the settings and no encoding. None is a BODY that is
no list of them. -/
opaque bodySettings : List Byte → Option Settings

/-- The identity certificate that BODY carries (R424, R427). -/
opaque bodyCertificate : List Byte → List Byte

/-- The first byte offset beyond the host dies' memory (R388): documented with the host instruction set. -/
opaque hostMemoryEnd : Nat → Nat

end Sys2Proof.Config
end

