-- ==== Sys2Proof/WellFormed.lean ====
section
/-! DEFINITION. Which instructions are well formed: the values the spec defines for each field (item 1 of R70, cause
0x01) and the operand codes each position allows (item 2 of R70, cause 0x02). -/

namespace Sys2Proof

/-- Why a word is not a legal instruction: items 1 and 2 of R70. -/
inductive Illegal where
  | instruction
  | operand
  deriving DecidableEq, Repr

/-- The code is even. -/
def even (c : BitVec 8) : Bool := c.toNat % 2 = 0

/-- The code names a general register (R26). -/
def isReg (c : BitVec 8) : Bool := c.toNat < 0x80

/-- A code that R26 gives a meaning as a source. -/
def wordSrc (c : BitVec 8) : Bool := c.toNat < 0xD8 || (0xE0 ≤ c.toNat && c.toNat ≤ 0xF0)

/-- A word destination (R79). -/
def wordDst (c : BitVec 8) : Bool := isReg c || c = 0xF0

/-- A pair source (R79). -/
def pairSrc (c : BitVec 8) : Bool :=
  (c.toNat < 0xC0 && even c) || c = 0xD6 || (0xE0 ≤ c.toNat && c.toNat ≤ 0xF0)

/-- A pair of registers or nothing: a pair destination (R79), and the address of `tret` (R120, R165). -/
def pairDst (c : BitVec 8) : Bool := (isReg c && even c) || c = 0xF0

/-- The type codes whose operands are 64 bits wide (R65, R79). -/
def wide (ty : BitVec 4) : Bool := ty = 2 || ty = 3 || ty = 15

/-- A typed source: 64 bits wide when the type is, with the pair rules of R18 and R22; a read-only value may stand in a
64-bit position (R27). -/
def typedSrc (ty : BitVec 4) (c : BitVec 8) : Bool :=
  wordSrc c && (!wide ty || 0xC0 ≤ c.toNat || even c)

/-- A typed destination (R79). -/
def typedDst (ty : BitVec 4) (c : BitVec 8) : Bool := if wide ty then pairDst c else wordDst c

/-- A predicate position (R79). -/
def predCode (c : BitVec 8) : Bool := c.toNat < 8

/-- An unused position (R61, R79). -/
def unused (c : BitVec 8) : Bool := c = 0xF0

/-- An address position (R120, R166). -/
def addrCode (c : BitVec 8) : Bool := isReg c && even c

/-- A range of `n` registers that lies within v0 to v127 and starts at a multiple of `align` (R18, R166). -/
def rangeCode (c : BitVec 8) (n align : Nat) : Bool := c.toNat + n ≤ 0x80 && c.toNat % align = 0

/-- Only the bits of `m` are set. -/
def onlyBits (v m : BitVec 7) : Bool := v &&& ~~~m = 0

/-- Only the bits of `m` are set in a function field. -/
def onlyFn (v m : BitVec 11) : Bool := v &&& ~~~m = 0

/-- The bit types b32 and b64 (R65). -/
def isBits (ty : BitVec 4) : Bool := ty = 14 || ty = 15

/-- binary16 and bfloat16 (R65). -/
def isHalf (ty : BitVec 4) : Bool := ty = 9 || ty = 10

/-- The narrow floating formats, TY 9 to 13 (R65). -/
def isNarrow (ty : BitVec 4) : Bool := 9 ≤ ty.toNat && ty.toNat ≤ 13

/-- The greatest SEL of fpk (R106). -/
def packSelMax (ty : BitVec 4) : Nat := if isHalf ty then 0 else if ty = 13 then 3 else 1

/-- The greatest SEL of fupk (R107). -/
def unpackSelMax (ty : BitVec 4) : Nat := if isHalf ty then 1 else if ty = 13 then 7 else 3

/-- The index form of format M (R62). -/
def MF.indexed (o : MF) : Bool := !o.b.getLsbD 7

/-- The field ATTR of format M (R62). -/
def MF.attr (o : MF) : BitVec 7 := if o.indexed then o.off.extractLsb' 0 7 else o.b.extractLsb' 0 7

/-- WID of ATTR (R62). -/
def MF.wid (o : MF) : BitVec 3 := o.attr.extractLsb' 4 3

/-- ORD of ATTR (R62). -/
def MF.ord (o : MF) : BitVec 2 := o.attr.extractLsb' 2 2

/-- What every word of format M must hold: the zero bits of ATTR and of the index form (R62), and a CP of 0 to 3 (R63). -/
def memOk (o : MF) : Bool :=
  o.attr.extractLsb' 0 2 = 0 && (!o.indexed || o.off.extractLsb' 7 9 = 0) && o.cp.toNat ≤ 3

/-- The data position of a load or store: any register or none for a width up to 32 bits, an even register for b64, a
multiple of 4 for b128 (R62). -/
def memT (o : MF) : Bool :=
  if o.wid = 4 then isReg o.t && even o.t
  else if o.wid = 5 then rangeCode o.t 4 4
  else wordDst o.t

/-- AOP of an atomic's function field (R135). -/
def fnAop (fn : BitVec 11) : Nat := (fn.extractLsb' 7 4).toNat

/-- ATY of an atomic's function field (R135). -/
def fnAty (fn : BitVec 11) : Nat := (fn.extractLsb' 4 3).toNat

/-- ORD of an atomic's function field (R135, R138). -/
def fnOrd (fn : BitVec 11) : Nat := (fn.extractLsb' 2 2).toNat

/-- The atomic types of 64 bits (R135). -/
def atomWide (fn : BitVec 11) : Bool := fnAty fn = 2 || fnAty fn = 3

/-- The legal combinations of an atom's function field (R135). -/
def atomFnOk (fn : BitVec 11) : Bool :=
  fn.extractLsb' 0 2 = 0 && (fnAop fn ≤ 2 && fnAty fn ≤ 6 || 3 ≤ fnAop fn && fnAop fn ≤ 5 && fnAty fn ≤ 3 ||
    fnAop fn = 6 && fnAty fn ≤ 4)

/-- The legal combinations of a red's function field (R135): no exch, and ORD plain or release. -/
def redFnOk (fn : BitVec 11) : Bool :=
  fn.extractLsb' 0 2 = 0 && (fnAop fn ≤ 2 && fnAty fn ≤ 6 || 3 ≤ fnAop fn && fnAop fn ≤ 5 && fnAty fn ≤ 3) &&
    (fnOrd fn = 0 || fnOrd fn = 2)

/-- The legal combinations of a cas's function field (R135). -/
def casFnOk (fn : BitVec 11) : Bool := fn.extractLsb' 0 2 = 0 && fnAop fn = 0 && fnAty fn ≤ 3

/-- The entry source of a queue instruction: a pair or a register range whose form is checked against the ring at issue
(R148). -/
def entrySrc (c : BitVec 8) : Bool := isReg c || pairSrc c

/-- The entry destination of a queue instruction (R148). -/
def entryDst (c : BitVec 8) : Bool := isReg c || c = 0xF0

/-- The number of registers of a surface transfer, NCH + 1 (R170). -/
def nch (fn : BitVec 11) : Nat := (fn.extractLsb' 0 2).toNat + 1

/-- The number of registers of a texture sample (R176). -/
def texNch (fn : BitVec 11) : Nat := (fn.extractLsb' 5 2).toNat + 1

/-- The start rule of a range with no other rule: even for two registers (R166, R170). -/
def evenIfTwo (n : Nat) : Nat := if n = 2 then 2 else 1

/-- The start rule of a texture destination (R176). -/
def texAlign (n : Nat) : Nat := if n = 1 then 1 else if n = 2 then 2 else 4

/-- The number of outputs of neval (R189). -/
def nout (fn : BitVec 11) : Nat := (fn.extractLsb' 5 4).toNat + 1

/-- The number of inputs of neval (R189). -/
def nin (fn : BitVec 11) : Nat := (fn.extractLsb' 0 5).toNat + 1

/-- The class a word's opcode belongs to (R55, R74); a terminator stands in a clause of any class. -/
inductive OpClass where
  | alu | mem | sfc | net | ray | sync | agrp | terminator
  deriving DecidableEq, Repr

/-- How a register result is timed (R74): written after a fixed number of cycles, variable (leased), blocking, or
no register result. -/
inductive Timing where
  | fixed (cycles : Nat)
  | variable
  | blocking
  | none
  deriving DecidableEq, Repr

/-- The common fields of a Lamen instruction; an event has none. -/
def Instr.head? : Instr → Option Head
  | .add h _ => some h
  | .sub h _ => some h
  | .addc h _ => some h
  | .subb h _ => some h
  | .mul h _ => some h
  | .mulhi h _ => some h
  | .mulw h _ => some h
  | .mad h _ => some h
  | .madw h _ => some h
  | .add3 h _ => some h
  | .min h _ => some h
  | .max h _ => some h
  | .abs h _ => some h
  | .neg h _ => some h
  | .and h _ => some h
  | .or h _ => some h
  | .xor h _ => some h
  | .not h _ => some h
  | .andn h _ => some h
  | .shl h _ => some h
  | .shr h _ => some h
  | .sar h _ => some h
  | .rot h _ => some h
  | .bfx h _ => some h
  | .bfi h _ => some h
  | .clz h _ => some h
  | .popc h _ => some h
  | .brev h _ => some h
  | .bpick h _ => some h
  | .lea h _ => some h
  | .dp4 h _ => some h
  | .addi h _ => some h
  | .muli h _ => some h
  | .andi h _ => some h
  | .ori h _ => some h
  | .xori h _ => some h
  | .shli h _ => some h
  | .shri h _ => some h
  | .sari h _ => some h
  | .cmpi h _ => some h
  | .fadd h _ => some h
  | .fsub h _ => some h
  | .fmul h _ => some h
  | .ffma h _ => some h
  | .fmin h _ => some h
  | .fmax h _ => some h
  | .fdiv h _ => some h
  | .fsqrt h _ => some h
  | .frcp h _ => some h
  | .frsq h _ => some h
  | .fexp2 h _ => some h
  | .flog2 h _ => some h
  | .fsinpi h _ => some h
  | .fcospi h _ => some h
  | .ftanh h _ => some h
  | .frnd h _ => some h
  | .fscl h _ => some h
  | .fcmp h _ => some h
  | .fclass h _ => some h
  | .hadd2 h _ => some h
  | .hmul2 h _ => some h
  | .hfma2 h _ => some h
  | .hmin2 h _ => some h
  | .hmax2 h _ => some h
  | .fdot2 h _ => some h
  | .fcvt h _ => some h
  | .i2f h _ => some h
  | .f2i h _ => some h
  | .fpk h _ => some h
  | .fupk h _ => some h
  | .faddk h _ => some h
  | .fmulk h _ => some h
  | .mov h _ => some h
  | .movk h _ => some h
  | .sel h _ => some h
  | .cmp h _ => some h
  | .pand h _ => some h
  | .por h _ => some h
  | .pxor h _ => some h
  | .pnot h _ => some h
  | .prd h _ => some h
  | .pwr h _ => some h
  | .rds h _ => some h
  | .wrs h _ => some h
  | .ddx h _ => some h
  | .ddy h _ => some h
  | .qswz h _ => some h
  | .ld h _ => some h
  | .ldro h _ => some h
  | .ldw h _ => some h
  | .st h _ => some h
  | .pref h _ => some h
  | .fence h _ => some h
  | .wbr h _ => some h
  | .invr h _ => some h
  | .atom h _ => some h
  | .cas h _ => some h
  | .red h _ => some h
  | .xadd h _ => some h
  | .xrd h _ => some h
  | .append h _ => some h
  | .seal h _ => some h
  | .inkfree h _ => some h
  | .inkstat h _ => some h
  | .tcom h _ => some h
  | .qpush h _ => some h
  | .qpop h _ => some h
  | .qtry h _ => some h
  | .barr h _ => some h
  | .bwait h _ => some h
  | .barrw h _ => some h
  | .bcfg h _ => some h
  | .mbarr h _ => some h
  | .mbwait h _ => some h
  | .cvarm h _ => some h
  | .sign h _ => some h
  | .spawn h _ => some h
  | .exit h _ => some h
  | .refill h _ => some h
  | .blkget h _ => some h
  | .blkput h _ => some h
  | .yield h _ => some h
  | .nap h _ => some h
  | .sbw h _ => some h
  | .sfld h _ => some h
  | .sfst h _ => some h
  | .sfatom h _ => some h
  | .sffence h _ => some h
  | .tex h _ => some h
  | .texg h _ => some h
  | .texq h _ => some h
  | .pemit h _ => some h
  | .pxout h _ => some h
  | .pxkill h _ => some h
  | .pxord h _ => some h
  | .trace h _ => some h
  | .tcont h _ => some h
  | .neval h _ => some h
  | .nflush h _ => some h
  | .rstat h _ => some h
  | .mma h _ => some h
  | .accz h _ => some h
  | .accld h _ => some h
  | .accst h _ => some h
  | .copy h _ => some h
  | .gred h _ => some h
  | .bra h _ => some h
  | .brx h _ => some h
  | .call h _ => some h
  | .callx h _ => some h
  | .ret h _ => some h
  | .trap h _ => some h
  | .tret h _ => some h
  | .brk h _ => some h
  | .nop h _ => some h
  | .tinfo h _ => some h
  | .rdtime h _ => some h
  | .rdctr h _ => some h
  | .unlistedOpcodeIssue _ => none
  | .strokeFormation _ _ _ => none
  | .destinationWritten _ => none
  | .blockingInstructionComplete _ => none
  | .deferredFaultFound _ => none
  | .deferredFaultDelivery _ => none
  | .trapHandlerEntry _ => none
  | .napExpiry _ => none
  | .blkgetServed _ _ _ => none
  | .queueWaiterServed _ _ => none
  | .binTimerExpiry _ _ _ => none
  | .teamRetirement _ => none
  | .mmaCompletion _ => none
  | .accldCompletion _ => none
  | .accstCompletion _ => none
  | .engineFailure _ => none
  | .gatherWindowExpiry _ => none
  | .tileResultScatter _ => none
  | .traversalCompletion _ _ => none
  | .copyChunkComplete _ _ => none
  | .copyCompletion _ => none
  | .copyChunkFailure _ _ => none
  | .copyReplay _ _ => none
  | .copyCancel _ _ => none
  | .gredCommandAccept _ => none
  | .reduceSubcommand _ _ => none
  | .reduceSegmentEnd _ => none
  | .gredResultWrite _ => none
  | .gredCommandFailure _ => none
  | .emptyLineTimeout _ => none
  | .ldwTimeout _ => none
  | .appendRequestAtHome _ => none
  | .appendDataPerformed _ => none
  | .appendDataLost _ => none
  | .sealRequestAtHome _ => none
  | .inkRetirement _ _ => none
  | .retirementAcknowledgement _ _ _ => none
  | .replicaGrantRequest _ _ _ _ => none
  | .replicaDrop _ => none
  | .replicaClear _ _ _ => none
  | .inkRegionCreate _ _ _ => none
  | .inkRegionDestroy _ _ => none
  | .persistentRequest _ _ _ => none
  | .recall _ => none
  | .eviction _ _ => none
  | .pageFaultRecordDelayed _ => none
  | .tfrespResolved _ _ _ => none
  | .tfrespUnresolvable _ _ _ => none
  | .tinvctlCommand _ => none
  | .tinvComplete => none
  | .surfaceEntryValid _ _ _ => none
  | .surfaceEntryInvalidate _ _ => none
  | .blotterSpill _ _ _ => none
  | .tileRefill _ _ _ => none
  | .setupAccept _ => none
  | .primitiveForward _ _ => none
  | .rasterize _ _ => none
  | .nibUnitAct _ => none
  | .drawCompletion _ => none
  | .queueEnable _ _ => none
  | .queueDisable _ => none
  | .tailWrite _ _ _ => none
  | .recordExamine _ => none
  | .waitEventMet _ _ => none
  | .launchDispatch _ => none
  | .teamPlacement _ _ _ _ => none
  | .cohortPlacement _ => none
  | .preemption _ => none
  | .weightload _ => none
  | .launchCompletionSignal _ => none
  | .contextCreate _ _ => none
  | .contextDestroy _ => none
  | .hfrespResume _ _ => none
  | .threadPark _ => none
  | .deadlineExpiry _ => none
  | .teamSave _ => none
  | .teamRestore _ => none
  | .sliceEnd => none
  | .ctrCommandDone => none
  | .registerWrite _ _ _ => none
  | .faultRecordPostDelayed _ => none
  | .hostAccess _ _ _ => none
  | .moduleReset => none
  | .powerRemoval => none
  | .escalationRecordDelayed _ => none
  | .hfrespTerminateThread _ _ => none
  | .hfrespTerminateLaunch _ _ => none
  | .ctrcmdLoad _ => none
  | .ctrcmdStore _ => none
  | .uncorrectableError _ => none
  | .patrolScrub _ _ _ => none
  | .coreControlError _ _ => none
  | .columnControlError _ => none
  | .cxlTimeout _ => none
  | .flitCrcFail _ => none
  | .peerAccess _ _ _ => none
  | .peerTimeout _ => none
  | .imageWrite _ _ => none
  | .attestationRequest _ => none
  | .errorLogRead _ => none
  | .correctionCountRead _ => none
  | .powerCap _ => none
  | .powerWindow _ => none
  | .thermalThrottle _ _ => none
  | .thermalShutdown _ _ => none
  | .peerRoutesDownTimeout _ => none
  | .peerRetirementRequest _ _ => none
  | .inkpoolDisable _ _ => none
  | .inkpoolEnable _ _ => none
  | .matrixSelfTest _ _ _ _ => none
  | .matrixEngineHang _ _ => none
  | .migrationEpochEnd _ _ => none
  | .contextFieldWrite _ _ => none
  | .surfaceEntryClear _ _ _ => none

/-- The class of each opcode (R74). An unlisted word belongs to no class and is treated as ALU, so that its own fault is
found first (R70, R75). -/
def Instr.opClass : Instr → OpClass
  | .add _ _ => .alu
  | .sub _ _ => .alu
  | .addc _ _ => .alu
  | .subb _ _ => .alu
  | .mul _ _ => .alu
  | .mulhi _ _ => .alu
  | .mulw _ _ => .alu
  | .mad _ _ => .alu
  | .madw _ _ => .alu
  | .add3 _ _ => .alu
  | .min _ _ => .alu
  | .max _ _ => .alu
  | .abs _ _ => .alu
  | .neg _ _ => .alu
  | .and _ _ => .alu
  | .or _ _ => .alu
  | .xor _ _ => .alu
  | .not _ _ => .alu
  | .andn _ _ => .alu
  | .shl _ _ => .alu
  | .shr _ _ => .alu
  | .sar _ _ => .alu
  | .rot _ _ => .alu
  | .bfx _ _ => .alu
  | .bfi _ _ => .alu
  | .clz _ _ => .alu
  | .popc _ _ => .alu
  | .brev _ _ => .alu
  | .bpick _ _ => .alu
  | .lea _ _ => .alu
  | .dp4 _ _ => .alu
  | .addi _ _ => .alu
  | .muli _ _ => .alu
  | .andi _ _ => .alu
  | .ori _ _ => .alu
  | .xori _ _ => .alu
  | .shli _ _ => .alu
  | .shri _ _ => .alu
  | .sari _ _ => .alu
  | .cmpi _ _ => .alu
  | .fadd _ _ => .alu
  | .fsub _ _ => .alu
  | .fmul _ _ => .alu
  | .ffma _ _ => .alu
  | .fmin _ _ => .alu
  | .fmax _ _ => .alu
  | .fdiv _ _ => .alu
  | .fsqrt _ _ => .alu
  | .frcp _ _ => .alu
  | .frsq _ _ => .alu
  | .fexp2 _ _ => .alu
  | .flog2 _ _ => .alu
  | .fsinpi _ _ => .alu
  | .fcospi _ _ => .alu
  | .ftanh _ _ => .alu
  | .frnd _ _ => .alu
  | .fscl _ _ => .alu
  | .fcmp _ _ => .alu
  | .fclass _ _ => .alu
  | .hadd2 _ _ => .alu
  | .hmul2 _ _ => .alu
  | .hfma2 _ _ => .alu
  | .hmin2 _ _ => .alu
  | .hmax2 _ _ => .alu
  | .fdot2 _ _ => .alu
  | .fcvt _ _ => .alu
  | .i2f _ _ => .alu
  | .f2i _ _ => .alu
  | .fpk _ _ => .alu
  | .fupk _ _ => .alu
  | .faddk _ _ => .alu
  | .fmulk _ _ => .alu
  | .mov _ _ => .alu
  | .movk _ _ => .alu
  | .sel _ _ => .alu
  | .cmp _ _ => .alu
  | .pand _ _ => .alu
  | .por _ _ => .alu
  | .pxor _ _ => .alu
  | .pnot _ _ => .alu
  | .prd _ _ => .alu
  | .pwr _ _ => .alu
  | .rds _ _ => .alu
  | .wrs _ _ => .alu
  | .ddx _ _ => .alu
  | .ddy _ _ => .alu
  | .qswz _ _ => .alu
  | .ld _ _ => .mem
  | .ldro _ _ => .mem
  | .ldw _ _ => .mem
  | .st _ _ => .mem
  | .pref _ _ => .mem
  | .fence _ _ => .mem
  | .wbr _ _ => .mem
  | .invr _ _ => .mem
  | .atom _ _ => .mem
  | .cas _ _ => .mem
  | .red _ _ => .mem
  | .xadd _ _ => .mem
  | .xrd _ _ => .mem
  | .append _ _ => .mem
  | .seal _ _ => .mem
  | .inkfree _ _ => .mem
  | .inkstat _ _ => .mem
  | .tcom _ _ => .agrp
  | .qpush _ _ => .sync
  | .qpop _ _ => .sync
  | .qtry _ _ => .sync
  | .barr _ _ => .sync
  | .bwait _ _ => .sync
  | .barrw _ _ => .sync
  | .bcfg _ _ => .sync
  | .mbarr _ _ => .sync
  | .mbwait _ _ => .sync
  | .cvarm _ _ => .sync
  | .sign _ _ => .sync
  | .spawn _ _ => .sync
  | .exit _ _ => .terminator
  | .refill _ _ => .sync
  | .blkget _ _ => .sync
  | .blkput _ _ => .sync
  | .yield _ _ => .sync
  | .nap _ _ => .sync
  | .sbw _ _ => .sync
  | .sfld _ _ => .sfc
  | .sfst _ _ => .sfc
  | .sfatom _ _ => .sfc
  | .sffence _ _ => .sfc
  | .tex _ _ => .sfc
  | .texg _ _ => .sfc
  | .texq _ _ => .sfc
  | .pemit _ _ => .sfc
  | .pxout _ _ => .sfc
  | .pxkill _ _ => .sfc
  | .pxord _ _ => .sfc
  | .trace _ _ => .ray
  | .tcont _ _ => .ray
  | .neval _ _ => .net
  | .nflush _ _ => .net
  | .rstat _ _ => .net
  | .mma _ _ => .net
  | .accz _ _ => .net
  | .accld _ _ => .net
  | .accst _ _ => .net
  | .copy _ _ => .net
  | .gred _ _ => .net
  | .bra _ _ => .terminator
  | .brx _ _ => .terminator
  | .call _ _ => .terminator
  | .callx _ _ => .terminator
  | .ret _ _ => .terminator
  | .trap _ _ => .terminator
  | .tret _ _ => .terminator
  | .brk _ _ => .alu
  | .nop _ _ => .alu
  | .tinfo _ _ => .alu
  | .rdtime _ _ => .alu
  | .rdctr _ _ => .alu
  | .unlistedOpcodeIssue _ => .alu
  | .strokeFormation _ _ _ => .alu
  | .destinationWritten _ => .alu
  | .blockingInstructionComplete _ => .alu
  | .deferredFaultFound _ => .alu
  | .deferredFaultDelivery _ => .alu
  | .trapHandlerEntry _ => .alu
  | .napExpiry _ => .alu
  | .blkgetServed _ _ _ => .alu
  | .queueWaiterServed _ _ => .alu
  | .binTimerExpiry _ _ _ => .alu
  | .teamRetirement _ => .alu
  | .mmaCompletion _ => .alu
  | .accldCompletion _ => .alu
  | .accstCompletion _ => .alu
  | .engineFailure _ => .alu
  | .gatherWindowExpiry _ => .alu
  | .tileResultScatter _ => .alu
  | .traversalCompletion _ _ => .alu
  | .copyChunkComplete _ _ => .alu
  | .copyCompletion _ => .alu
  | .copyChunkFailure _ _ => .alu
  | .copyReplay _ _ => .alu
  | .copyCancel _ _ => .alu
  | .gredCommandAccept _ => .alu
  | .reduceSubcommand _ _ => .alu
  | .reduceSegmentEnd _ => .alu
  | .gredResultWrite _ => .alu
  | .gredCommandFailure _ => .alu
  | .emptyLineTimeout _ => .alu
  | .ldwTimeout _ => .alu
  | .appendRequestAtHome _ => .alu
  | .appendDataPerformed _ => .alu
  | .appendDataLost _ => .alu
  | .sealRequestAtHome _ => .alu
  | .inkRetirement _ _ => .alu
  | .retirementAcknowledgement _ _ _ => .alu
  | .replicaGrantRequest _ _ _ _ => .alu
  | .replicaDrop _ => .alu
  | .replicaClear _ _ _ => .alu
  | .inkRegionCreate _ _ _ => .alu
  | .inkRegionDestroy _ _ => .alu
  | .persistentRequest _ _ _ => .alu
  | .recall _ => .alu
  | .eviction _ _ => .alu
  | .pageFaultRecordDelayed _ => .alu
  | .tfrespResolved _ _ _ => .alu
  | .tfrespUnresolvable _ _ _ => .alu
  | .tinvctlCommand _ => .alu
  | .tinvComplete => .alu
  | .surfaceEntryValid _ _ _ => .alu
  | .surfaceEntryInvalidate _ _ => .alu
  | .blotterSpill _ _ _ => .alu
  | .tileRefill _ _ _ => .alu
  | .setupAccept _ => .alu
  | .primitiveForward _ _ => .alu
  | .rasterize _ _ => .alu
  | .nibUnitAct _ => .alu
  | .drawCompletion _ => .alu
  | .queueEnable _ _ => .alu
  | .queueDisable _ => .alu
  | .tailWrite _ _ _ => .alu
  | .recordExamine _ => .alu
  | .waitEventMet _ _ => .alu
  | .launchDispatch _ => .alu
  | .teamPlacement _ _ _ _ => .alu
  | .cohortPlacement _ => .alu
  | .preemption _ => .alu
  | .weightload _ => .alu
  | .launchCompletionSignal _ => .alu
  | .contextCreate _ _ => .alu
  | .contextDestroy _ => .alu
  | .hfrespResume _ _ => .alu
  | .threadPark _ => .alu
  | .deadlineExpiry _ => .alu
  | .teamSave _ => .alu
  | .teamRestore _ => .alu
  | .sliceEnd => .alu
  | .ctrCommandDone => .alu
  | .registerWrite _ _ _ => .alu
  | .faultRecordPostDelayed _ => .alu
  | .hostAccess _ _ _ => .alu
  | .moduleReset => .alu
  | .powerRemoval => .alu
  | .escalationRecordDelayed _ => .alu
  | .hfrespTerminateThread _ _ => .alu
  | .hfrespTerminateLaunch _ _ => .alu
  | .ctrcmdLoad _ => .alu
  | .ctrcmdStore _ => .alu
  | .uncorrectableError _ => .alu
  | .patrolScrub _ _ _ => .alu
  | .coreControlError _ _ => .alu
  | .columnControlError _ => .alu
  | .cxlTimeout _ => .alu
  | .flitCrcFail _ => .alu
  | .peerAccess _ _ _ => .alu
  | .peerTimeout _ => .alu
  | .imageWrite _ _ => .alu
  | .attestationRequest _ => .alu
  | .errorLogRead _ => .alu
  | .correctionCountRead _ => .alu
  | .powerCap _ => .alu
  | .powerWindow _ => .alu
  | .thermalThrottle _ _ => .alu
  | .thermalShutdown _ _ => .alu
  | .peerRoutesDownTimeout _ => .alu
  | .peerRetirementRequest _ _ => .alu
  | .inkpoolDisable _ _ => .alu
  | .inkpoolEnable _ _ => .alu
  | .matrixSelfTest _ _ _ _ => .alu
  | .matrixEngineHang _ _ => .alu
  | .migrationEpochEnd _ _ => .alu
  | .contextFieldWrite _ _ => .alu
  | .surfaceEntryClear _ _ _ => .alu

/-- The timing of each opcode's register result (R74). -/
def Instr.timing : Instr → Timing
  | .add _ _ => .fixed 4
  | .sub _ _ => .fixed 4
  | .addc _ _ => .fixed 4
  | .subb _ _ => .fixed 4
  | .mul _ _ => .fixed 4
  | .mulhi _ _ => .fixed 4
  | .mulw _ _ => .fixed 4
  | .mad _ _ => .fixed 4
  | .madw _ _ => .fixed 4
  | .add3 _ _ => .fixed 4
  | .min _ _ => .fixed 4
  | .max _ _ => .fixed 4
  | .abs _ _ => .fixed 4
  | .neg _ _ => .fixed 4
  | .and _ _ => .fixed 4
  | .or _ _ => .fixed 4
  | .xor _ _ => .fixed 4
  | .not _ _ => .fixed 4
  | .andn _ _ => .fixed 4
  | .shl _ _ => .fixed 4
  | .shr _ _ => .fixed 4
  | .sar _ _ => .fixed 4
  | .rot _ _ => .fixed 4
  | .bfx _ _ => .fixed 4
  | .bfi _ _ => .fixed 4
  | .clz _ _ => .fixed 4
  | .popc _ _ => .fixed 4
  | .brev _ _ => .fixed 4
  | .bpick _ _ => .fixed 4
  | .lea _ _ => .fixed 4
  | .dp4 _ _ => .fixed 4
  | .addi _ _ => .fixed 4
  | .muli _ _ => .fixed 4
  | .andi _ _ => .fixed 4
  | .ori _ _ => .fixed 4
  | .xori _ _ => .fixed 4
  | .shli _ _ => .fixed 4
  | .shri _ _ => .fixed 4
  | .sari _ _ => .fixed 4
  | .cmpi _ _ => .fixed 4
  | .fadd _ _ => .fixed 5
  | .fsub _ _ => .fixed 5
  | .fmul _ _ => .fixed 5
  | .ffma _ _ => .fixed 5
  | .fmin _ _ => .fixed 5
  | .fmax _ _ => .fixed 5
  | .fdiv _ _ => .variable
  | .fsqrt _ _ => .variable
  | .frcp _ _ => .variable
  | .frsq _ _ => .variable
  | .fexp2 _ _ => .variable
  | .flog2 _ _ => .variable
  | .fsinpi _ _ => .variable
  | .fcospi _ _ => .variable
  | .ftanh _ _ => .variable
  | .frnd _ _ => .fixed 5
  | .fscl _ _ => .fixed 5
  | .fcmp _ _ => .fixed 5
  | .fclass _ _ => .fixed 5
  | .hadd2 _ _ => .fixed 5
  | .hmul2 _ _ => .fixed 5
  | .hfma2 _ _ => .fixed 5
  | .hmin2 _ _ => .fixed 5
  | .hmax2 _ _ => .fixed 5
  | .fdot2 _ _ => .fixed 5
  | .fcvt _ _ => .fixed 5
  | .i2f _ _ => .fixed 5
  | .f2i _ _ => .fixed 5
  | .fpk _ _ => .fixed 5
  | .fupk _ _ => .fixed 5
  | .faddk _ _ => .fixed 5
  | .fmulk _ _ => .fixed 5
  | .mov _ _ => .fixed 4
  | .movk _ _ => .fixed 4
  | .sel _ _ => .fixed 4
  | .cmp _ _ => .fixed 4
  | .pand _ _ => .fixed 4
  | .por _ _ => .fixed 4
  | .pxor _ _ => .fixed 4
  | .pnot _ _ => .fixed 4
  | .prd _ _ => .fixed 4
  | .pwr _ _ => .fixed 4
  | .rds _ _ => .fixed 4
  | .wrs _ _ => .fixed 4
  | .ddx _ _ => .fixed 6
  | .ddy _ _ => .fixed 6
  | .qswz _ _ => .fixed 6
  | .ld _ _ => .variable
  | .ldro _ _ => .variable
  | .ldw _ _ => .variable
  | .st _ _ => .none
  | .pref _ _ => .none
  | .fence _ _ => .blocking
  | .wbr _ _ => .blocking
  | .invr _ _ => .blocking
  | .atom _ _ => .variable
  | .cas _ _ => .variable
  | .red _ _ => .none
  | .xadd _ _ => .none
  | .xrd _ _ => .variable
  | .append _ _ => .variable
  | .seal _ _ => .blocking
  | .inkfree _ _ => .blocking
  | .inkstat _ _ => .variable
  | .tcom _ _ => .blocking
  | .qpush _ _ => .blocking
  | .qpop _ _ => .blocking
  | .qtry _ _ => .blocking
  | .barr _ _ => .none
  | .bwait _ _ => .blocking
  | .barrw _ _ => .blocking
  | .bcfg _ _ => .none
  | .mbarr _ _ => .none
  | .mbwait _ _ => .blocking
  | .cvarm _ _ => .none
  | .sign _ _ => .none
  | .spawn _ _ => .none
  | .exit _ _ => .none
  | .refill _ _ => .blocking
  | .blkget _ _ => .blocking
  | .blkput _ _ => .none
  | .yield _ _ => .none
  | .nap _ _ => .blocking
  | .sbw _ _ => .blocking
  | .sfld _ _ => .variable
  | .sfst _ _ => .none
  | .sfatom _ _ => .variable
  | .sffence _ _ => .blocking
  | .tex _ _ => .variable
  | .texg _ _ => .variable
  | .texq _ _ => .variable
  | .pemit _ _ => .none
  | .pxout _ _ => .none
  | .pxkill _ _ => .none
  | .pxord _ _ => .blocking
  | .trace _ _ => .variable
  | .tcont _ _ => .variable
  | .neval _ _ => .variable
  | .nflush _ _ => .none
  | .rstat _ _ => .variable
  | .mma _ _ => .none
  | .accz _ _ => .none
  | .accld _ _ => .none
  | .accst _ _ => .none
  | .copy _ _ => .none
  | .gred _ _ => .none
  | .bra _ _ => .none
  | .brx _ _ => .none
  | .call _ _ => .none
  | .callx _ _ => .none
  | .ret _ _ => .none
  | .trap _ _ => .none
  | .tret _ _ => .none
  | .brk _ _ => .none
  | .nop _ _ => .none
  | .tinfo _ _ => .fixed 4
  | .rdtime _ _ => .fixed 4
  | .rdctr _ _ => .variable
  | .unlistedOpcodeIssue _ => .none
  | .strokeFormation _ _ _ => .none
  | .destinationWritten _ => .none
  | .blockingInstructionComplete _ => .none
  | .deferredFaultFound _ => .none
  | .deferredFaultDelivery _ => .none
  | .trapHandlerEntry _ => .none
  | .napExpiry _ => .none
  | .blkgetServed _ _ _ => .none
  | .queueWaiterServed _ _ => .none
  | .binTimerExpiry _ _ _ => .none
  | .teamRetirement _ => .none
  | .mmaCompletion _ => .none
  | .accldCompletion _ => .none
  | .accstCompletion _ => .none
  | .engineFailure _ => .none
  | .gatherWindowExpiry _ => .none
  | .tileResultScatter _ => .none
  | .traversalCompletion _ _ => .none
  | .copyChunkComplete _ _ => .none
  | .copyCompletion _ => .none
  | .copyChunkFailure _ _ => .none
  | .copyReplay _ _ => .none
  | .copyCancel _ _ => .none
  | .gredCommandAccept _ => .none
  | .reduceSubcommand _ _ => .none
  | .reduceSegmentEnd _ => .none
  | .gredResultWrite _ => .none
  | .gredCommandFailure _ => .none
  | .emptyLineTimeout _ => .none
  | .ldwTimeout _ => .none
  | .appendRequestAtHome _ => .none
  | .appendDataPerformed _ => .none
  | .appendDataLost _ => .none
  | .sealRequestAtHome _ => .none
  | .inkRetirement _ _ => .none
  | .retirementAcknowledgement _ _ _ => .none
  | .replicaGrantRequest _ _ _ _ => .none
  | .replicaDrop _ => .none
  | .replicaClear _ _ _ => .none
  | .inkRegionCreate _ _ _ => .none
  | .inkRegionDestroy _ _ => .none
  | .persistentRequest _ _ _ => .none
  | .recall _ => .none
  | .eviction _ _ => .none
  | .pageFaultRecordDelayed _ => .none
  | .tfrespResolved _ _ _ => .none
  | .tfrespUnresolvable _ _ _ => .none
  | .tinvctlCommand _ => .none
  | .tinvComplete => .none
  | .surfaceEntryValid _ _ _ => .none
  | .surfaceEntryInvalidate _ _ => .none
  | .blotterSpill _ _ _ => .none
  | .tileRefill _ _ _ => .none
  | .setupAccept _ => .none
  | .primitiveForward _ _ => .none
  | .rasterize _ _ => .none
  | .nibUnitAct _ => .none
  | .drawCompletion _ => .none
  | .queueEnable _ _ => .none
  | .queueDisable _ => .none
  | .tailWrite _ _ _ => .none
  | .recordExamine _ => .none
  | .waitEventMet _ _ => .none
  | .launchDispatch _ => .none
  | .teamPlacement _ _ _ _ => .none
  | .cohortPlacement _ => .none
  | .preemption _ => .none
  | .weightload _ => .none
  | .launchCompletionSignal _ => .none
  | .contextCreate _ _ => .none
  | .contextDestroy _ => .none
  | .hfrespResume _ _ => .none
  | .threadPark _ => .none
  | .deadlineExpiry _ => .none
  | .teamSave _ => .none
  | .teamRestore _ => .none
  | .sliceEnd => .none
  | .ctrCommandDone => .none
  | .registerWrite _ _ _ => .none
  | .faultRecordPostDelayed _ => .none
  | .hostAccess _ _ _ => .none
  | .moduleReset => .none
  | .powerRemoval => .none
  | .escalationRecordDelayed _ => .none
  | .hfrespTerminateThread _ _ => .none
  | .hfrespTerminateLaunch _ _ => .none
  | .ctrcmdLoad _ => .none
  | .ctrcmdStore _ => .none
  | .uncorrectableError _ => .none
  | .patrolScrub _ _ _ => .none
  | .coreControlError _ _ => .none
  | .columnControlError _ => .none
  | .cxlTimeout _ => .none
  | .flitCrcFail _ => .none
  | .peerAccess _ _ _ => .none
  | .peerTimeout _ => .none
  | .imageWrite _ _ => .none
  | .attestationRequest _ => .none
  | .errorLogRead _ => .none
  | .correctionCountRead _ => .none
  | .powerCap _ => .none
  | .powerWindow _ => .none
  | .thermalThrottle _ _ => .none
  | .thermalShutdown _ _ => .none
  | .peerRoutesDownTimeout _ => .none
  | .peerRetirementRequest _ _ => .none
  | .inkpoolDisable _ _ => .none
  | .inkpoolEnable _ _ => .none
  | .matrixSelfTest _ _ _ _ => .none
  | .matrixEngineHang _ _ => .none
  | .migrationEpochEnd _ _ => .none
  | .contextFieldWrite _ _ => .none
  | .surfaceEntryClear _ _ _ => .none

/-- Whether a destination position of the word names a register (R68). -/
def Instr.namesDst : Instr → Bool
  | .add _ _ => false
  | .sub _ _ => false
  | .addc _ _ => false
  | .subb _ _ => false
  | .mul _ _ => false
  | .mulhi _ _ => false
  | .mulw _ _ => false
  | .mad _ _ => false
  | .madw _ _ => false
  | .add3 _ _ => false
  | .min _ _ => false
  | .max _ _ => false
  | .abs _ _ => false
  | .neg _ _ => false
  | .and _ _ => false
  | .or _ _ => false
  | .xor _ _ => false
  | .not _ _ => false
  | .andn _ _ => false
  | .shl _ _ => false
  | .shr _ _ => false
  | .sar _ _ => false
  | .rot _ _ => false
  | .bfx _ _ => false
  | .bfi _ _ => false
  | .clz _ _ => false
  | .popc _ _ => false
  | .brev _ _ => false
  | .bpick _ _ => false
  | .lea _ _ => false
  | .dp4 _ _ => false
  | .addi _ _ => false
  | .muli _ _ => false
  | .andi _ _ => false
  | .ori _ _ => false
  | .xori _ _ => false
  | .shli _ _ => false
  | .shri _ _ => false
  | .sari _ _ => false
  | .cmpi _ _ => false
  | .fadd _ _ => false
  | .fsub _ _ => false
  | .fmul _ _ => false
  | .ffma _ _ => false
  | .fmin _ _ => false
  | .fmax _ _ => false
  | .fdiv _ o => isReg o.d
  | .fsqrt _ o => isReg o.d
  | .frcp _ o => isReg o.d
  | .frsq _ o => isReg o.d
  | .fexp2 _ o => isReg o.d
  | .flog2 _ o => isReg o.d
  | .fsinpi _ o => isReg o.d
  | .fcospi _ o => isReg o.d
  | .ftanh _ o => isReg o.d
  | .frnd _ _ => false
  | .fscl _ _ => false
  | .fcmp _ _ => false
  | .fclass _ _ => false
  | .hadd2 _ _ => false
  | .hmul2 _ _ => false
  | .hfma2 _ _ => false
  | .hmin2 _ _ => false
  | .hmax2 _ _ => false
  | .fdot2 _ _ => false
  | .fcvt _ _ => false
  | .i2f _ _ => false
  | .f2i _ _ => false
  | .fpk _ _ => false
  | .fupk _ _ => false
  | .faddk _ _ => false
  | .fmulk _ _ => false
  | .mov _ _ => false
  | .movk _ _ => false
  | .sel _ _ => false
  | .cmp _ _ => false
  | .pand _ _ => false
  | .por _ _ => false
  | .pxor _ _ => false
  | .pnot _ _ => false
  | .prd _ _ => false
  | .pwr _ _ => false
  | .rds _ _ => false
  | .wrs _ _ => false
  | .ddx _ _ => false
  | .ddy _ _ => false
  | .qswz _ _ => false
  | .ld _ o => isReg o.t
  | .ldro _ o => isReg o.t
  | .ldw _ o => isReg o.t
  | .st _ _ => false
  | .pref _ _ => false
  | .fence _ _ => false
  | .wbr _ _ => false
  | .invr _ _ => false
  | .atom _ o => isReg o.d
  | .cas _ o => isReg o.d
  | .red _ _ => false
  | .xadd _ _ => false
  | .xrd _ o => isReg o.d
  | .append _ o => isReg o.d
  | .seal _ _ => false
  | .inkfree _ _ => false
  | .inkstat _ o => isReg o.d
  | .tcom _ _ => false
  | .qpush _ _ => false
  | .qpop _ _ => false
  | .qtry _ _ => false
  | .barr _ _ => false
  | .bwait _ _ => false
  | .barrw _ _ => false
  | .bcfg _ _ => false
  | .mbarr _ _ => false
  | .mbwait _ _ => false
  | .cvarm _ _ => false
  | .sign _ _ => false
  | .spawn _ _ => false
  | .exit _ _ => false
  | .refill _ _ => false
  | .blkget _ _ => false
  | .blkput _ _ => false
  | .yield _ _ => false
  | .nap _ _ => false
  | .sbw _ _ => false
  | .sfld _ o => isReg o.d
  | .sfst _ _ => false
  | .sfatom _ o => isReg o.d
  | .sffence _ _ => false
  | .tex _ o => isReg o.d
  | .texg _ o => isReg o.d
  | .texq _ o => isReg o.d
  | .pemit _ _ => false
  | .pxout _ _ => false
  | .pxkill _ _ => false
  | .pxord _ _ => false
  | .trace _ o => isReg o.d
  | .tcont _ o => isReg o.d
  | .neval _ o => isReg o.d || isReg o.c
  | .nflush _ _ => false
  | .rstat _ o => isReg o.d
  | .mma _ _ => false
  | .accz _ _ => false
  | .accld _ _ => false
  | .accst _ _ => false
  | .copy _ _ => false
  | .gred _ _ => false
  | .bra _ _ => false
  | .brx _ _ => false
  | .call _ _ => false
  | .callx _ _ => false
  | .ret _ _ => false
  | .trap _ _ => false
  | .tret _ _ => false
  | .brk _ _ => false
  | .nop _ _ => false
  | .tinfo _ _ => false
  | .rdtime _ _ => false
  | .rdctr _ o => isReg o.d
  | .unlistedOpcodeIssue _ => false
  | .strokeFormation _ _ _ => false
  | .destinationWritten _ => false
  | .blockingInstructionComplete _ => false
  | .deferredFaultFound _ => false
  | .deferredFaultDelivery _ => false
  | .trapHandlerEntry _ => false
  | .napExpiry _ => false
  | .blkgetServed _ _ _ => false
  | .queueWaiterServed _ _ => false
  | .binTimerExpiry _ _ _ => false
  | .teamRetirement _ => false
  | .mmaCompletion _ => false
  | .accldCompletion _ => false
  | .accstCompletion _ => false
  | .engineFailure _ => false
  | .gatherWindowExpiry _ => false
  | .tileResultScatter _ => false
  | .traversalCompletion _ _ => false
  | .copyChunkComplete _ _ => false
  | .copyCompletion _ => false
  | .copyChunkFailure _ _ => false
  | .copyReplay _ _ => false
  | .copyCancel _ _ => false
  | .gredCommandAccept _ => false
  | .reduceSubcommand _ _ => false
  | .reduceSegmentEnd _ => false
  | .gredResultWrite _ => false
  | .gredCommandFailure _ => false
  | .emptyLineTimeout _ => false
  | .ldwTimeout _ => false
  | .appendRequestAtHome _ => false
  | .appendDataPerformed _ => false
  | .appendDataLost _ => false
  | .sealRequestAtHome _ => false
  | .inkRetirement _ _ => false
  | .retirementAcknowledgement _ _ _ => false
  | .replicaGrantRequest _ _ _ _ => false
  | .replicaDrop _ => false
  | .replicaClear _ _ _ => false
  | .inkRegionCreate _ _ _ => false
  | .inkRegionDestroy _ _ => false
  | .persistentRequest _ _ _ => false
  | .recall _ => false
  | .eviction _ _ => false
  | .pageFaultRecordDelayed _ => false
  | .tfrespResolved _ _ _ => false
  | .tfrespUnresolvable _ _ _ => false
  | .tinvctlCommand _ => false
  | .tinvComplete => false
  | .surfaceEntryValid _ _ _ => false
  | .surfaceEntryInvalidate _ _ => false
  | .blotterSpill _ _ _ => false
  | .tileRefill _ _ _ => false
  | .setupAccept _ => false
  | .primitiveForward _ _ => false
  | .rasterize _ _ => false
  | .nibUnitAct _ => false
  | .drawCompletion _ => false
  | .queueEnable _ _ => false
  | .queueDisable _ => false
  | .tailWrite _ _ _ => false
  | .recordExamine _ => false
  | .waitEventMet _ _ => false
  | .launchDispatch _ => false
  | .teamPlacement _ _ _ _ => false
  | .cohortPlacement _ => false
  | .preemption _ => false
  | .weightload _ => false
  | .launchCompletionSignal _ => false
  | .contextCreate _ _ => false
  | .contextDestroy _ => false
  | .hfrespResume _ _ => false
  | .threadPark _ => false
  | .deadlineExpiry _ => false
  | .teamSave _ => false
  | .teamRestore _ => false
  | .sliceEnd => false
  | .ctrCommandDone => false
  | .registerWrite _ _ _ => false
  | .faultRecordPostDelayed _ => false
  | .hostAccess _ _ _ => false
  | .moduleReset => false
  | .powerRemoval => false
  | .escalationRecordDelayed _ => false
  | .hfrespTerminateThread _ _ => false
  | .hfrespTerminateLaunch _ _ => false
  | .ctrcmdLoad _ => false
  | .ctrcmdStore _ => false
  | .uncorrectableError _ => false
  | .patrolScrub _ _ _ => false
  | .coreControlError _ _ => false
  | .columnControlError _ => false
  | .cxlTimeout _ => false
  | .flitCrcFail _ => false
  | .peerAccess _ _ _ => false
  | .peerTimeout _ => false
  | .imageWrite _ _ => false
  | .attestationRequest _ => false
  | .errorLogRead _ => false
  | .correctionCountRead _ => false
  | .powerCap _ => false
  | .powerWindow _ => false
  | .thermalThrottle _ _ => false
  | .thermalShutdown _ _ => false
  | .peerRoutesDownTimeout _ => false
  | .peerRetirementRequest _ _ => false
  | .inkpoolDisable _ _ => false
  | .inkpoolEnable _ _ => false
  | .matrixSelfTest _ _ _ _ => false
  | .matrixEngineHang _ _ => false
  | .migrationEpochEnd _ _ => false
  | .contextFieldWrite _ _ => false
  | .surfaceEntryClear _ _ _ => false

/-- The fields of the word hold defined values only: item 1 of R70, apart from the common fields, the class and the clause. -/
def Instr.fieldsOk : Instr → Bool
  | .add _ o => o.ty ≤ 7 && onlyBits o.mod 0x10
  | .sub _ o => o.ty ≤ 7 && onlyBits o.mod 0x10
  | .addc _ o => o.ty = 1
  | .subb _ o => o.ty = 1
  | .mul _ o => o.ty ≤ 7 && o.mod = 0
  | .mulhi _ o => o.ty ≤ 3 && o.mod = 0
  | .mulw _ o => o.ty ≤ 1 && o.mod = 0
  | .mad _ o => o.ty ≤ 3 && o.mod = 0
  | .madw _ o => o.ty ≤ 1 && o.mod = 0
  | .add3 _ o => o.ty ≤ 3 && onlyBits o.mod 0x10
  | .min _ o => o.ty ≤ 7 && o.mod = 0
  | .max _ o => o.ty ≤ 7 && o.mod = 0
  | .abs _ o => (o.ty = 0 || o.ty = 2 || o.ty = 4 || o.ty = 6) && onlyBits o.mod 0x10
  | .neg _ o => o.ty ≤ 7 && onlyBits o.mod 0x10
  | .and _ o => isBits o.ty && o.mod = 0
  | .or _ o => isBits o.ty && o.mod = 0
  | .xor _ o => isBits o.ty && o.mod = 0
  | .not _ o => isBits o.ty && o.mod = 0
  | .andn _ o => isBits o.ty && o.mod = 0
  | .shl _ o => isBits o.ty && o.mod = 0
  | .shr _ o => isBits o.ty && o.mod = 0
  | .sar _ o => isBits o.ty && o.mod = 0
  | .rot _ o => isBits o.ty && o.mod = 0
  | .bfx _ o => isBits o.ty && onlyBits o.mod 0x01
  | .bfi _ o => isBits o.ty && o.mod = 0
  | .clz _ o => isBits o.ty && o.mod = 0
  | .popc _ o => isBits o.ty && o.mod = 0
  | .brev _ o => isBits o.ty && o.mod = 0
  | .bpick _ o => o.ty = 14 && o.mod = 0
  | .lea _ o => o.ty = 15 && onlyBits o.mod 0x0F
  | .dp4 _ o => (o.ty = 6 || o.ty = 7) && onlyBits o.mod 0x10
  | .addi _ _ => true
  | .muli _ _ => true
  | .andi _ _ => true
  | .ori _ _ => true
  | .xori _ _ => true
  | .shli _ o => o.imm.toNat < 32
  | .shri _ o => o.imm.toNat < 32
  | .sari _ o => o.imm.toNat < 32
  | .cmpi _ o => (o.imm.extractLsb' 23 3).toNat ≤ 5
  | .fadd _ o => o.ty = 8
  | .fsub _ o => o.ty = 8
  | .fmul _ o => o.ty = 8
  | .ffma _ o => o.ty = 8 && onlyBits o.mod 0x7E
  | .fmin _ o => o.ty = 8
  | .fmax _ o => o.ty = 8
  | .fdiv _ o => o.ty = 8
  | .fsqrt _ o => o.ty = 8 && onlyBits o.mod 0x7A
  | .frcp _ o => o.ty = 8 && onlyBits o.mod 0x7A
  | .frsq _ o => o.ty = 8 && onlyBits o.mod 0x7A
  | .fexp2 _ o => o.ty = 8 && onlyBits o.mod 0x7A
  | .flog2 _ o => o.ty = 8 && onlyBits o.mod 0x7A
  | .fsinpi _ o => o.ty = 8 && onlyBits o.mod 0x7A
  | .fcospi _ o => o.ty = 8 && onlyBits o.mod 0x7A
  | .ftanh _ o => o.ty = 8 && onlyBits o.mod 0x7A
  | .frnd _ o => o.ty = 8 && onlyBits o.mod 0x7A
  | .fscl _ o => o.ty = 8 && onlyBits o.mod 0x7A
  | .fcmp _ o => o.ty = 8 && o.mod.getLsbD 4 = false && (o.mod.extractLsb' 0 4).toNat ≤ 12 && (o.mod.extractLsb' 5 2).toNat ≠ 3
  | .fclass _ o => (o.ty = 8 || isHalf o.ty) && o.mod = 0
  | .hadd2 _ o => isHalf o.ty
  | .hmul2 _ o => isHalf o.ty
  | .hfma2 _ o => isHalf o.ty && onlyBits o.mod 0x7E
  | .hmin2 _ o => isHalf o.ty
  | .hmax2 _ o => isHalf o.ty
  | .fdot2 _ o => isHalf o.ty && onlyBits o.mod 0x7E
  | .fcvt _ o => isNarrow o.ty && onlyBits o.mod 0x70
  | .i2f _ o => o.ty ≤ 7 && onlyBits o.mod 0x60
  | .f2i _ o => o.ty ≤ 7 && onlyBits o.mod 0x60
  | .fpk _ o => isNarrow o.ty && o.mod.getLsbD 3 = false && (o.mod.extractLsb' 0 3).toNat ≤ packSelMax o.ty
  | .fupk _ o => isNarrow o.ty && onlyBits o.mod 0x07 && (o.mod.extractLsb' 0 3).toNat ≤ unpackSelMax o.ty
  | .faddk _ _ => true
  | .fmulk _ _ => true
  | .mov _ o => isBits o.ty && o.mod = 0
  | .movk _ o => o.km ≤ 3
  | .sel _ o => isBits o.ty && onlyBits o.mod 0x01
  | .cmp _ o => (o.ty ≤ 7 || isBits o.ty) && o.mod.getLsbD 4 = false && (o.mod.extractLsb' 0 4).toNat ≤ 5 && (o.mod.extractLsb' 5 2).toNat ≠ 3
  | .pand _ o => o.ty = 0 && onlyBits o.mod 0x0C
  | .por _ o => o.ty = 0 && onlyBits o.mod 0x0C
  | .pxor _ o => o.ty = 0 && onlyBits o.mod 0x0C
  | .pnot _ o => o.ty = 0 && o.mod = 0
  | .prd _ o => o.ty = 14 && o.mod = 0
  | .pwr _ o => o.ty = 14 && o.mod = 0
  | .rds _ o => o.fn ≤ 0x00E
  | .wrs _ o => o.fn = 6 || o.fn = 7
  | .ddx _ o => o.ty = 8 && onlyBits o.mod 0x7B
  | .ddy _ o => o.ty = 8 && onlyBits o.mod 0x7B
  | .qswz _ o => o.ty = 14 && onlyBits o.mod 0x0F && ((o.mod.extractLsb' 0 2).toNat = 3 || o.mod.extractLsb' 2 2 = 0)
  | .ld _ o => memOk o && o.wid ≠ 6 && o.ord ≤ 1
  | .ldro _ o => memOk o && o.wid ≠ 6 && o.ord = 0
  | .ldw _ o => memOk o && (o.wid = 4 || o.wid = 5 || o.wid = 7) && o.ord ≤ 1
  | .st _ o => memOk o && o.wid ≠ 6 && (o.ord = 0 || o.ord = 2)
  | .pref _ o => memOk o && o.wid = 7 && o.ord = 0
  | .fence _ o => memOk o && o.wid = 7 && o.ord ≠ 0 && o.cp = 0
  | .wbr _ o => o.fn = 0
  | .invr _ o => o.fn = 0
  | .atom _ o => atomFnOk o.fn
  | .cas _ o => casFnOk o.fn
  | .red _ o => redFnOk o.fn
  | .xadd _ o => onlyFn o.fn 0x008
  | .xrd _ o => onlyFn o.fn 0x07C
  | .append _ o => o.fn ≠ 0 && o.fn ≤ 16
  | .seal _ o => o.fn = 0
  | .inkfree _ o => o.fn = 0
  | .inkstat _ o => o.fn = 0
  | .tcom _ o => o.fn = 0
  | .qpush _ o => o.fn.toNat < 16
  | .qpop _ o => o.fn.toNat < 16
  | .qtry _ o => o.fn.toNat < 32
  | .barr _ o => o.fn.toNat < 16
  | .bwait _ o => o.fn.toNat < 16
  | .barrw _ o => o.fn.toNat < 16
  | .bcfg _ o => o.fn.toNat < 16
  | .mbarr _ o => o.fn = 0
  | .mbwait _ o => o.fn = 0
  | .cvarm _ o => o.fn.toNat < 8
  | .sign _ o => o.fn.toNat < 8
  | .spawn _ o => o.fn = 0
  | .exit _ o => o.fn = 0
  | .refill _ o => o.fn = 0
  | .blkget _ o => o.fn ≠ 0 && o.fn.toNat < 8
  | .blkput _ o => o.fn ≠ 0 && o.fn.toNat < 8
  | .yield _ o => o.fn = 0
  | .nap _ o => o.fn = 0
  | .sbw _ o => o.fn.toNat < 256
  | .sfld _ o => o.fn.toNat < 8
  | .sfst _ o => o.fn.toNat < 16
  | .sfatom _ o => o.fn.extractLsb' 0 7 = 0 && (o.fn.extractLsb' 7 4).toNat ≤ 7
  | .sffence _ o => o.fn = 0
  | .tex _ o => o.fn.toNat < 128
  | .texg _ o => o.fn.toNat < 128 && o.fn.getLsbD 0 = false
  | .texq _ o => o.fn = 0
  | .pemit _ o => o.fn.toNat < 64 && (o.fn.extractLsb' 0 4).toNat ≤ 12 && (o.fn.extractLsb' 4 2).toNat ≠ 3
  | .pxout _ o => o.fn.toNat < 16 && (!o.fn.getLsbD 3 || o.fn.extractLsb' 0 3 = 0)
  | .pxkill _ o => o.fn = 0
  | .pxord _ o => o.fn.toNat < 2
  | .trace _ o => o.fn.toNat < 2
  | .tcont _ o => o.fn.toNat < 8 && (o.fn.extractLsb' 0 2).toNat ≠ 3
  | .neval _ o => o.fn.toNat < 1024
  | .nflush _ o => o.fn = 0
  | .rstat _ o => o.fn = 0
  | .mma _ o => o.fn = 0
  | .accz _ o => o.fn = 0
  | .accld _ o => o.fn.toNat < 32
  | .accst _ o => o.fn.toNat < 64
  | .copy _ o => o.fn = 0
  | .gred _ _ => true
  | .bra _ o => o.z = 0
  | .brx _ o => o.z = 0
  | .call _ o => o.z = 0
  | .callx _ o => o.z = 0
  | .ret _ o => o.z = 0 && o.off = 0
  | .trap _ o => o.fn = 0
  | .tret _ o => o.fn = 0
  | .brk _ _ => true
  | .nop _ o => o.fn = 0
  | .tinfo _ o => o.fn ≤ 2
  | .rdtime _ o => o.fn = 0
  | .rdctr _ o => o.fn.toNat < 64
  | .unlistedOpcodeIssue _ => true
  | .strokeFormation _ _ _ => true
  | .destinationWritten _ => true
  | .blockingInstructionComplete _ => true
  | .deferredFaultFound _ => true
  | .deferredFaultDelivery _ => true
  | .trapHandlerEntry _ => true
  | .napExpiry _ => true
  | .blkgetServed _ _ _ => true
  | .queueWaiterServed _ _ => true
  | .binTimerExpiry _ _ _ => true
  | .teamRetirement _ => true
  | .mmaCompletion _ => true
  | .accldCompletion _ => true
  | .accstCompletion _ => true
  | .engineFailure _ => true
  | .gatherWindowExpiry _ => true
  | .tileResultScatter _ => true
  | .traversalCompletion _ _ => true
  | .copyChunkComplete _ _ => true
  | .copyCompletion _ => true
  | .copyChunkFailure _ _ => true
  | .copyReplay _ _ => true
  | .copyCancel _ _ => true
  | .gredCommandAccept _ => true
  | .reduceSubcommand _ _ => true
  | .reduceSegmentEnd _ => true
  | .gredResultWrite _ => true
  | .gredCommandFailure _ => true
  | .emptyLineTimeout _ => true
  | .ldwTimeout _ => true
  | .appendRequestAtHome _ => true
  | .appendDataPerformed _ => true
  | .appendDataLost _ => true
  | .sealRequestAtHome _ => true
  | .inkRetirement _ _ => true
  | .retirementAcknowledgement _ _ _ => true
  | .replicaGrantRequest _ _ _ _ => true
  | .replicaDrop _ => true
  | .replicaClear _ _ _ => true
  | .inkRegionCreate _ _ _ => true
  | .inkRegionDestroy _ _ => true
  | .persistentRequest _ _ _ => true
  | .recall _ => true
  | .eviction _ _ => true
  | .pageFaultRecordDelayed _ => true
  | .tfrespResolved _ _ _ => true
  | .tfrespUnresolvable _ _ _ => true
  | .tinvctlCommand _ => true
  | .tinvComplete => true
  | .surfaceEntryValid _ _ _ => true
  | .surfaceEntryInvalidate _ _ => true
  | .blotterSpill _ _ _ => true
  | .tileRefill _ _ _ => true
  | .setupAccept _ => true
  | .primitiveForward _ _ => true
  | .rasterize _ _ => true
  | .nibUnitAct _ => true
  | .drawCompletion _ => true
  | .queueEnable _ _ => true
  | .queueDisable _ => true
  | .tailWrite _ _ _ => true
  | .recordExamine _ => true
  | .waitEventMet _ _ => true
  | .launchDispatch _ => true
  | .teamPlacement _ _ _ _ => true
  | .cohortPlacement _ => true
  | .preemption _ => true
  | .weightload _ => true
  | .launchCompletionSignal _ => true
  | .contextCreate _ _ => true
  | .contextDestroy _ => true
  | .hfrespResume _ _ => true
  | .threadPark _ => true
  | .deadlineExpiry _ => true
  | .teamSave _ => true
  | .teamRestore _ => true
  | .sliceEnd => true
  | .ctrCommandDone => true
  | .registerWrite _ _ _ => true
  | .faultRecordPostDelayed _ => true
  | .hostAccess _ _ _ => true
  | .moduleReset => true
  | .powerRemoval => true
  | .escalationRecordDelayed _ => true
  | .hfrespTerminateThread _ _ => true
  | .hfrespTerminateLaunch _ _ => true
  | .ctrcmdLoad _ => true
  | .ctrcmdStore _ => true
  | .uncorrectableError _ => true
  | .patrolScrub _ _ _ => true
  | .coreControlError _ _ => true
  | .columnControlError _ => true
  | .cxlTimeout _ => true
  | .flitCrcFail _ => true
  | .peerAccess _ _ _ => true
  | .peerTimeout _ => true
  | .imageWrite _ _ => true
  | .attestationRequest _ => true
  | .errorLogRead _ => true
  | .correctionCountRead _ => true
  | .powerCap _ => true
  | .powerWindow _ => true
  | .thermalThrottle _ _ => true
  | .thermalShutdown _ _ => true
  | .peerRoutesDownTimeout _ => true
  | .peerRetirementRequest _ _ => true
  | .inkpoolDisable _ _ => true
  | .inkpoolEnable _ _ => true
  | .matrixSelfTest _ _ _ _ => true
  | .matrixEngineHang _ _ => true
  | .migrationEpochEnd _ _ => true
  | .contextFieldWrite _ _ => true
  | .surfaceEntryClear _ _ _ => true

/-- Every operand position holds a code its kind allows (R26, R79, R166): item 2 of R70. -/
def Instr.operandsOk : Instr → Bool
  | .add _ o => typedDst o.ty o.d && typedSrc o.ty o.a && typedSrc o.ty o.b && unused o.c
  | .sub _ o => typedDst o.ty o.d && typedSrc o.ty o.a && typedSrc o.ty o.b && unused o.c
  | .addc _ o => typedDst o.ty o.d && typedSrc o.ty o.a && typedSrc o.ty o.b && unused o.c
  | .subb _ o => typedDst o.ty o.d && typedSrc o.ty o.a && typedSrc o.ty o.b && unused o.c
  | .mul _ o => typedDst o.ty o.d && typedSrc o.ty o.a && typedSrc o.ty o.b && unused o.c
  | .mulhi _ o => typedDst o.ty o.d && typedSrc o.ty o.a && typedSrc o.ty o.b && unused o.c
  | .mulw _ o => pairDst o.d && wordSrc o.a && wordSrc o.b && unused o.c
  | .mad _ o => typedDst o.ty o.d && typedSrc o.ty o.a && typedSrc o.ty o.b && typedSrc o.ty o.c
  | .madw _ o => pairDst o.d && wordSrc o.a && wordSrc o.b && pairSrc o.c
  | .add3 _ o => typedDst o.ty o.d && typedSrc o.ty o.a && typedSrc o.ty o.b && typedSrc o.ty o.c
  | .min _ o => typedDst o.ty o.d && typedSrc o.ty o.a && typedSrc o.ty o.b && unused o.c
  | .max _ o => typedDst o.ty o.d && typedSrc o.ty o.a && typedSrc o.ty o.b && unused o.c
  | .abs _ o => typedDst o.ty o.d && typedSrc o.ty o.a && unused o.b && unused o.c
  | .neg _ o => typedDst o.ty o.d && typedSrc o.ty o.a && unused o.b && unused o.c
  | .and _ o => typedDst o.ty o.d && typedSrc o.ty o.a && typedSrc o.ty o.b && unused o.c
  | .or _ o => typedDst o.ty o.d && typedSrc o.ty o.a && typedSrc o.ty o.b && unused o.c
  | .xor _ o => typedDst o.ty o.d && typedSrc o.ty o.a && typedSrc o.ty o.b && unused o.c
  | .not _ o => typedDst o.ty o.d && typedSrc o.ty o.a && unused o.b && unused o.c
  | .andn _ o => typedDst o.ty o.d && typedSrc o.ty o.a && typedSrc o.ty o.b && unused o.c
  | .shl _ o => typedDst o.ty o.d && typedSrc o.ty o.a && wordSrc o.b && unused o.c
  | .shr _ o => typedDst o.ty o.d && typedSrc o.ty o.a && wordSrc o.b && unused o.c
  | .sar _ o => typedDst o.ty o.d && typedSrc o.ty o.a && wordSrc o.b && unused o.c
  | .rot _ o => typedDst o.ty o.d && typedSrc o.ty o.a && wordSrc o.b && unused o.c
  | .bfx _ o => typedDst o.ty o.d && typedSrc o.ty o.a && wordSrc o.b && unused o.c
  | .bfi _ o => typedDst o.ty o.d && typedSrc o.ty o.a && wordSrc o.b && typedSrc o.ty o.c
  | .clz _ o => wordDst o.d && typedSrc o.ty o.a && unused o.b && unused o.c
  | .popc _ o => wordDst o.d && typedSrc o.ty o.a && unused o.b && unused o.c
  | .brev _ o => typedDst o.ty o.d && typedSrc o.ty o.a && unused o.b && unused o.c
  | .bpick _ o => wordDst o.d && wordSrc o.a && wordSrc o.b && wordSrc o.c
  | .lea _ o => pairDst o.d && pairSrc o.a && wordSrc o.b && unused o.c
  | .dp4 _ o => wordDst o.d && wordSrc o.a && wordSrc o.b && wordSrc o.c
  | .addi _ o => wordDst o.d && wordSrc o.a
  | .muli _ o => wordDst o.d && wordSrc o.a
  | .andi _ o => wordDst o.d && wordSrc o.a
  | .ori _ o => wordDst o.d && wordSrc o.a
  | .xori _ o => wordDst o.d && wordSrc o.a
  | .shli _ o => wordDst o.d && wordSrc o.a
  | .shri _ o => wordDst o.d && wordSrc o.a
  | .sari _ o => wordDst o.d && wordSrc o.a
  | .cmpi _ o => predCode o.d && wordSrc o.a
  | .fadd _ o => wordDst o.d && wordSrc o.a && wordSrc o.b && unused o.c
  | .fsub _ o => wordDst o.d && wordSrc o.a && wordSrc o.b && unused o.c
  | .fmul _ o => wordDst o.d && wordSrc o.a && wordSrc o.b && unused o.c
  | .ffma _ o => wordDst o.d && wordSrc o.a && wordSrc o.b && wordSrc o.c
  | .fmin _ o => wordDst o.d && wordSrc o.a && wordSrc o.b && unused o.c
  | .fmax _ o => wordDst o.d && wordSrc o.a && wordSrc o.b && unused o.c
  | .fdiv _ o => wordDst o.d && wordSrc o.a && wordSrc o.b && unused o.c
  | .fsqrt _ o => wordDst o.d && wordSrc o.a && unused o.b && unused o.c
  | .frcp _ o => wordDst o.d && wordSrc o.a && unused o.b && unused o.c
  | .frsq _ o => wordDst o.d && wordSrc o.a && unused o.b && unused o.c
  | .fexp2 _ o => wordDst o.d && wordSrc o.a && unused o.b && unused o.c
  | .flog2 _ o => wordDst o.d && wordSrc o.a && unused o.b && unused o.c
  | .fsinpi _ o => wordDst o.d && wordSrc o.a && unused o.b && unused o.c
  | .fcospi _ o => wordDst o.d && wordSrc o.a && unused o.b && unused o.c
  | .ftanh _ o => wordDst o.d && wordSrc o.a && unused o.b && unused o.c
  | .frnd _ o => wordDst o.d && wordSrc o.a && unused o.b && unused o.c
  | .fscl _ o => wordDst o.d && wordSrc o.a && wordSrc o.b && unused o.c
  | .fcmp _ o => predCode o.d && wordSrc o.a && wordSrc o.b && predCode o.c
  | .fclass _ o => wordDst o.d && wordSrc o.a && unused o.b && unused o.c
  | .hadd2 _ o => wordDst o.d && wordSrc o.a && wordSrc o.b && unused o.c
  | .hmul2 _ o => wordDst o.d && wordSrc o.a && wordSrc o.b && unused o.c
  | .hfma2 _ o => wordDst o.d && wordSrc o.a && wordSrc o.b && wordSrc o.c
  | .hmin2 _ o => wordDst o.d && wordSrc o.a && wordSrc o.b && unused o.c
  | .hmax2 _ o => wordDst o.d && wordSrc o.a && wordSrc o.b && unused o.c
  | .fdot2 _ o => wordDst o.d && wordSrc o.a && wordSrc o.b && wordSrc o.c
  | .fcvt _ o => wordDst o.d && wordSrc o.a && unused o.b && unused o.c
  | .i2f _ o => wordDst o.d && typedSrc o.ty o.a && unused o.b && unused o.c
  | .f2i _ o => typedDst o.ty o.d && wordSrc o.a && unused o.b && unused o.c
  | .fpk _ o => wordDst o.d && wordSrc o.a && wordSrc o.b && (if isHalf o.ty then unused o.c else wordSrc o.c)
  | .fupk _ o => wordDst o.d && wordSrc o.a && unused o.b && unused o.c
  | .faddk _ o => isReg o.d
  | .fmulk _ o => isReg o.d
  | .mov _ o => typedDst o.ty o.d && typedSrc o.ty o.a && unused o.b && unused o.c
  | .movk _ o => if o.km = 0 then wordDst o.d else pairDst o.d
  | .sel _ o => typedDst o.ty o.d && typedSrc o.ty o.a && typedSrc o.ty o.b && predCode o.c
  | .cmp _ o => predCode o.d && typedSrc o.ty o.a && typedSrc o.ty o.b && predCode o.c
  | .pand _ o => predCode o.d && predCode o.a && predCode o.b && unused o.c
  | .por _ o => predCode o.d && predCode o.a && predCode o.b && unused o.c
  | .pxor _ o => predCode o.d && predCode o.a && predCode o.b && unused o.c
  | .pnot _ o => predCode o.d && predCode o.a && unused o.b && unused o.c
  | .prd _ o => wordDst o.d && unused o.a && unused o.b && unused o.c
  | .pwr _ o => unused o.d && wordSrc o.a && wordSrc o.b && unused o.c
  | .rds _ o => wordDst o.d && unused o.a && unused o.b && unused o.c
  | .wrs _ o => unused o.d && wordSrc o.a && unused o.b && unused o.c
  | .ddx _ o => wordDst o.d && wordSrc o.a && unused o.b && unused o.c
  | .ddy _ o => wordDst o.d && wordSrc o.a && unused o.b && unused o.c
  | .qswz _ o => wordDst o.d && wordSrc o.a && unused o.b && unused o.c
  | .ld _ o => addrCode o.a && memT o
  | .ldro _ o => addrCode o.a && memT o
  | .ldw _ o => addrCode o.a && memT o
  | .st _ o => addrCode o.a && memT o
  | .pref _ o => addrCode o.a && unused o.t
  | .fence _ o => addrCode o.a && unused o.t
  | .wbr _ o => unused o.d && addrCode o.a && wordSrc o.b && unused o.c
  | .invr _ o => unused o.d && addrCode o.a && wordSrc o.b && unused o.c
  | .atom _ o => (if atomWide o.fn then pairDst o.d else wordDst o.d) && addrCode o.a && (if atomWide o.fn then pairSrc o.b else wordSrc o.b) && unused o.c
  | .cas _ o => (if atomWide o.fn then pairDst o.d else wordDst o.d) && addrCode o.a && (if atomWide o.fn then pairSrc o.b else wordSrc o.b) && (if atomWide o.fn then pairSrc o.c else wordSrc o.c)
  | .red _ o => unused o.d && addrCode o.a && (if atomWide o.fn then pairSrc o.b else wordSrc o.b) && unused o.c
  | .xadd _ o => unused o.d && addrCode o.a && wordSrc o.b && unused o.c
  | .xrd _ o => wordDst o.d && addrCode o.a && unused o.b && unused o.c
  | .append _ o => wordDst o.d && addrCode o.a && rangeCode o.b o.fn.toNat 1 && unused o.c
  | .seal _ o => unused o.d && addrCode o.a && unused o.b && unused o.c
  | .inkfree _ o => unused o.d && addrCode o.a && unused o.b && unused o.c
  | .inkstat _ o => rangeCode o.d 4 4 && addrCode o.a && unused o.b && unused o.c
  | .tcom _ o => predCode o.d && unused o.a && unused o.b && unused o.c
  | .qpush _ o => unused o.d && entrySrc o.a && unused o.b && unused o.c
  | .qpop _ o => entryDst o.d && unused o.a && unused o.b && unused o.c
  | .qtry _ o => (if o.fn.getLsbD 4 then entryDst o.d && unused o.a else unused o.d && entrySrc o.a) && unused o.b && predCode o.c
  | .barr _ o => unused o.d && unused o.a && wordSrc o.b && unused o.c
  | .bwait _ o => predCode o.d && wordSrc o.a && unused o.b && unused o.c
  | .barrw _ o => predCode o.d && unused o.a && unused o.b && unused o.c
  | .bcfg _ o => unused o.d && wordSrc o.a && unused o.b && unused o.c
  | .mbarr _ o => unused o.d && addrCode o.a && wordSrc o.b && unused o.c
  | .mbwait _ o => unused o.d && addrCode o.a && wordSrc o.b && unused o.c
  | .cvarm _ o => unused o.d && addrCode o.a && wordSrc o.b && unused o.c
  | .sign _ o => unused o.d && unused o.a && unused o.b && unused o.c
  | .spawn _ o => unused o.d && addrCode o.a && (o.b = 0xF0 || rangeCode o.b 4 4) && unused o.c
  | .exit _ o => unused o.d && unused o.a && unused o.b && unused o.c
  | .refill _ o => predCode o.d && unused o.a && unused o.b && unused o.c
  | .blkget _ o => unused o.d && unused o.a && unused o.b && unused o.c
  | .blkput _ o => unused o.d && unused o.a && unused o.b && unused o.c
  | .yield _ o => unused o.d && unused o.a && unused o.b && unused o.c
  | .nap _ o => unused o.d && wordSrc o.a && unused o.b && unused o.c
  | .sbw _ o => unused o.d && unused o.a && unused o.b && unused o.c
  | .sfld _ o => rangeCode o.d (nch o.fn) (evenIfTwo (nch o.fn)) && wordSrc o.a && rangeCode o.b 4 4 && unused o.c
  | .sfst _ o => unused o.d && wordSrc o.a && rangeCode o.b 4 4 && rangeCode o.c (nch o.fn) (evenIfTwo (nch o.fn))
  | .sfatom _ o => wordDst o.d && wordSrc o.a && rangeCode o.b 4 4 && (if (o.fn.extractLsb' 7 4).toNat = 7 then rangeCode o.c 2 2 else wordSrc o.c)
  | .sffence _ o => unused o.d && unused o.a && unused o.b && unused o.c
  | .tex _ o => rangeCode o.d (texNch o.fn) (texAlign (texNch o.fn)) && wordSrc o.a && rangeCode o.b 4 4 && unused o.c
  | .texg _ o => rangeCode o.d 4 4 && wordSrc o.a && rangeCode o.b 4 4 && unused o.c
  | .texq _ o => rangeCode o.d 4 4 && wordSrc o.a && unused o.b && unused o.c
  | .pemit _ o => unused o.d && rangeCode o.a (3 * (4 + (o.fn.extractLsb' 0 4).toNat)) 1 && unused o.b && wordSrc o.c
  | .pxout _ o => unused o.d && (if o.fn.getLsbD 3 then wordSrc o.a else rangeCode o.a 4 4) && unused o.b && unused o.c
  | .pxkill _ o => unused o.d && unused o.a && unused o.b && unused o.c
  | .pxord _ o => unused o.d && unused o.a && unused o.b && unused o.c
  | .trace _ o => rangeCode o.d 5 1 && addrCode o.a && unused o.b && unused o.c
  | .tcont _ o => rangeCode o.d 5 1 && addrCode o.a && rangeCode o.b 5 1 && unused o.c
  | .neval _ o => rangeCode o.d (nout o.fn) (evenIfTwo (nout o.fn)) && rangeCode o.a (nin o.fn) (evenIfTwo (nin o.fn)) && wordSrc o.b && (if o.fn.getLsbD 9 then wordDst o.c else unused o.c)
  | .nflush _ o => unused o.d && unused o.a && unused o.b && unused o.c
  | .rstat _ o => wordDst o.d && addrCode o.a && unused o.b && unused o.c
  | .mma _ o => unused o.d && addrCode o.a && unused o.b && unused o.c
  | .accz _ o => unused o.d && wordSrc o.a && unused o.b && unused o.c
  | .accld _ o => unused o.d && addrCode o.a && wordSrc o.b && unused o.c
  | .accst _ o => unused o.d && addrCode o.a && wordSrc o.b && pairSrc o.c
  | .copy _ o => unused o.d && addrCode o.a && unused o.b && unused o.c
  | .gred _ o => unused o.d && addrCode o.a && wordSrc o.b && pairSrc o.c
  | .bra _ o => unused o.l
  | .brx _ o => isReg o.l && even o.l
  | .call _ o => unused o.l
  | .callx _ o => isReg o.l && even o.l
  | .ret _ o => unused o.l
  | .trap _ o => unused o.d && wordSrc o.a && unused o.b && unused o.c
  | .tret _ o => unused o.d && pairDst o.a && unused o.b && unused o.c
  | .brk _ o => unused o.d && unused o.a && unused o.b && unused o.c
  | .nop _ o => unused o.d && unused o.a && unused o.b && unused o.c
  | .tinfo _ o => (if o.fn = 1 then wordDst o.d else pairDst o.d) && unused o.a && unused o.b && unused o.c
  | .rdtime _ o => pairDst o.d && unused o.a && unused o.b && unused o.c
  | .rdctr _ o => pairDst o.d && unused o.a && unused o.b && unused o.c
  | .unlistedOpcodeIssue _ => true
  | .strokeFormation _ _ _ => true
  | .destinationWritten _ => true
  | .blockingInstructionComplete _ => true
  | .deferredFaultFound _ => true
  | .deferredFaultDelivery _ => true
  | .trapHandlerEntry _ => true
  | .napExpiry _ => true
  | .blkgetServed _ _ _ => true
  | .queueWaiterServed _ _ => true
  | .binTimerExpiry _ _ _ => true
  | .teamRetirement _ => true
  | .mmaCompletion _ => true
  | .accldCompletion _ => true
  | .accstCompletion _ => true
  | .engineFailure _ => true
  | .gatherWindowExpiry _ => true
  | .tileResultScatter _ => true
  | .traversalCompletion _ _ => true
  | .copyChunkComplete _ _ => true
  | .copyCompletion _ => true
  | .copyChunkFailure _ _ => true
  | .copyReplay _ _ => true
  | .copyCancel _ _ => true
  | .gredCommandAccept _ => true
  | .reduceSubcommand _ _ => true
  | .reduceSegmentEnd _ => true
  | .gredResultWrite _ => true
  | .gredCommandFailure _ => true
  | .emptyLineTimeout _ => true
  | .ldwTimeout _ => true
  | .appendRequestAtHome _ => true
  | .appendDataPerformed _ => true
  | .appendDataLost _ => true
  | .sealRequestAtHome _ => true
  | .inkRetirement _ _ => true
  | .retirementAcknowledgement _ _ _ => true
  | .replicaGrantRequest _ _ _ _ => true
  | .replicaDrop _ => true
  | .replicaClear _ _ _ => true
  | .inkRegionCreate _ _ _ => true
  | .inkRegionDestroy _ _ => true
  | .persistentRequest _ _ _ => true
  | .recall _ => true
  | .eviction _ _ => true
  | .pageFaultRecordDelayed _ => true
  | .tfrespResolved _ _ _ => true
  | .tfrespUnresolvable _ _ _ => true
  | .tinvctlCommand _ => true
  | .tinvComplete => true
  | .surfaceEntryValid _ _ _ => true
  | .surfaceEntryInvalidate _ _ => true
  | .blotterSpill _ _ _ => true
  | .tileRefill _ _ _ => true
  | .setupAccept _ => true
  | .primitiveForward _ _ => true
  | .rasterize _ _ => true
  | .nibUnitAct _ => true
  | .drawCompletion _ => true
  | .queueEnable _ _ => true
  | .queueDisable _ => true
  | .tailWrite _ _ _ => true
  | .recordExamine _ => true
  | .waitEventMet _ _ => true
  | .launchDispatch _ => true
  | .teamPlacement _ _ _ _ => true
  | .cohortPlacement _ => true
  | .preemption _ => true
  | .weightload _ => true
  | .launchCompletionSignal _ => true
  | .contextCreate _ _ => true
  | .contextDestroy _ => true
  | .hfrespResume _ _ => true
  | .threadPark _ => true
  | .deadlineExpiry _ => true
  | .teamSave _ => true
  | .teamRestore _ => true
  | .sliceEnd => true
  | .ctrCommandDone => true
  | .registerWrite _ _ _ => true
  | .faultRecordPostDelayed _ => true
  | .hostAccess _ _ _ => true
  | .moduleReset => true
  | .powerRemoval => true
  | .escalationRecordDelayed _ => true
  | .hfrespTerminateThread _ _ => true
  | .hfrespTerminateLaunch _ _ => true
  | .ctrcmdLoad _ => true
  | .ctrcmdStore _ => true
  | .uncorrectableError _ => true
  | .patrolScrub _ _ _ => true
  | .coreControlError _ _ => true
  | .columnControlError _ => true
  | .cxlTimeout _ => true
  | .flitCrcFail _ => true
  | .peerAccess _ _ _ => true
  | .peerTimeout _ => true
  | .imageWrite _ _ => true
  | .attestationRequest _ => true
  | .errorLogRead _ => true
  | .correctionCountRead _ => true
  | .powerCap _ => true
  | .powerWindow _ => true
  | .thermalThrottle _ _ => true
  | .thermalShutdown _ _ => true
  | .peerRoutesDownTimeout _ => true
  | .peerRetirementRequest _ _ => true
  | .inkpoolDisable _ _ => true
  | .inkpoolEnable _ _ => true
  | .matrixSelfTest _ _ _ _ => true
  | .matrixEngineHang _ _ => true
  | .migrationEpochEnd _ _ => true
  | .contextFieldWrite _ _ => true
  | .surfaceEntryClear _ _ _ => true

/-- The common fields hold defined values: WSLOT is 0 without WE (R60), WE stands only on a variable instruction, and a
variable instruction that names a destination register carries it (R68). -/
def Instr.headOk (i : Instr) : Bool :=
  match i.head? with
  | none => true
  | some h =>
    (h.we || h.wslot = 0) &&
      (match i.timing with
       | .variable => h.we || !i.namesDst
       | _ => !h.we)

/-- Items 1 and 2 of R70 for the word by itself; the class and the placement in the clause are checked with the clause. -/
def Instr.illegal (i : Instr) : Option Illegal :=
  if !(i.headOk && i.fieldsOk) then some .instruction
  else if !i.operandsOk then some .operand
  else none

/-- A well-formed instruction: no fault of items 1 and 2 of R70 in the word by itself. -/
def Instr.WellFormed (i : Instr) : Prop := i.illegal = none

end Sys2Proof
end

