-- ==== Sys2Proof/Decode.lean ====
section
/-! DEFINITION. Decoding and encoding of 64-bit instruction words, clause headers and mask words (R54, R60, R61, R72,
R74). Decoding is total: a word with an unlisted opcode is the step UNLISTED_OPCODE_ISSUE (R75), and a word that items 1
or 2 of R70 refuse is rejected by that item's name. -/

namespace Sys2Proof

/-- The common fields of a word (R60). -/
def headOf (w : DWord) : Head where
  stall := w.extractLsb' 52 3
  sp := w.getLsbD 51
  we := w.getLsbD 50
  wslot := w.extractLsb' 47 3
  gn := w.getLsbD 46
  gp := w.extractLsb' 43 3

/-- Format RRR (R61). -/
def rrrOf (w : DWord) : RRR where
  d := w.extractLsb' 35 8
  a := w.extractLsb' 27 8
  b := w.extractLsb' 19 8
  c := w.extractLsb' 11 8
  ty := w.extractLsb' 7 4
  mod := w.extractLsb' 0 7

/-- Format RI (R61). -/
def riOf (w : DWord) : RI where
  d := w.extractLsb' 35 8
  a := w.extractLsb' 27 8
  imm := w.extractLsb' 0 27

/-- Format K (R61). -/
def kOf (w : DWord) : KF where
  d := w.extractLsb' 35 8
  km := w.extractLsb' 32 3
  imm := w.extractLsb' 0 32

/-- Format M (R61, R62). -/
def mOf (w : DWord) : MF where
  t := w.extractLsb' 35 8
  a := w.extractLsb' 27 8
  b := w.extractLsb' 19 8
  off := w.extractLsb' 3 16
  cp := w.extractLsb' 0 3

/-- Format X (R61). -/
def xOf (w : DWord) : XF where
  d := w.extractLsb' 35 8
  a := w.extractLsb' 27 8
  b := w.extractLsb' 19 8
  c := w.extractLsb' 11 8
  fn := w.extractLsb' 0 11

/-- Format B (R61, R64). -/
def bOf (w : DWord) : BF where
  l := w.extractLsb' 35 8
  z := w.extractLsb' 32 3
  off := w.extractLsb' 0 32

/-- The opcode field (R60). -/
def opOf (w : DWord) : BitVec 9 := w.extractLsb' 55 9

/-- The instruction whose fields the word holds, legal or not (R60, R61, R74, R75). -/
def decodeFields (w : DWord) : Instr :=
  match (opOf w).toNat with
  | 0x000 => .add (headOf w) (rrrOf w)
  | 0x001 => .sub (headOf w) (rrrOf w)
  | 0x002 => .addc (headOf w) (rrrOf w)
  | 0x003 => .subb (headOf w) (rrrOf w)
  | 0x004 => .mul (headOf w) (rrrOf w)
  | 0x005 => .mulhi (headOf w) (rrrOf w)
  | 0x006 => .mulw (headOf w) (rrrOf w)
  | 0x007 => .mad (headOf w) (rrrOf w)
  | 0x008 => .madw (headOf w) (rrrOf w)
  | 0x009 => .add3 (headOf w) (rrrOf w)
  | 0x00A => .min (headOf w) (rrrOf w)
  | 0x00B => .max (headOf w) (rrrOf w)
  | 0x00C => .abs (headOf w) (rrrOf w)
  | 0x00D => .neg (headOf w) (rrrOf w)
  | 0x010 => .and (headOf w) (rrrOf w)
  | 0x011 => .or (headOf w) (rrrOf w)
  | 0x012 => .xor (headOf w) (rrrOf w)
  | 0x013 => .not (headOf w) (rrrOf w)
  | 0x014 => .andn (headOf w) (rrrOf w)
  | 0x018 => .shl (headOf w) (rrrOf w)
  | 0x019 => .shr (headOf w) (rrrOf w)
  | 0x01A => .sar (headOf w) (rrrOf w)
  | 0x01B => .rot (headOf w) (rrrOf w)
  | 0x01C => .bfx (headOf w) (rrrOf w)
  | 0x01D => .bfi (headOf w) (rrrOf w)
  | 0x01E => .clz (headOf w) (rrrOf w)
  | 0x01F => .popc (headOf w) (rrrOf w)
  | 0x020 => .brev (headOf w) (rrrOf w)
  | 0x021 => .bpick (headOf w) (rrrOf w)
  | 0x022 => .lea (headOf w) (rrrOf w)
  | 0x023 => .dp4 (headOf w) (rrrOf w)
  | 0x028 => .addi (headOf w) (riOf w)
  | 0x029 => .muli (headOf w) (riOf w)
  | 0x02A => .andi (headOf w) (riOf w)
  | 0x02B => .ori (headOf w) (riOf w)
  | 0x02C => .xori (headOf w) (riOf w)
  | 0x02D => .shli (headOf w) (riOf w)
  | 0x02E => .shri (headOf w) (riOf w)
  | 0x02F => .sari (headOf w) (riOf w)
  | 0x030 => .cmpi (headOf w) (riOf w)
  | 0x040 => .fadd (headOf w) (rrrOf w)
  | 0x041 => .fsub (headOf w) (rrrOf w)
  | 0x042 => .fmul (headOf w) (rrrOf w)
  | 0x043 => .ffma (headOf w) (rrrOf w)
  | 0x044 => .fmin (headOf w) (rrrOf w)
  | 0x045 => .fmax (headOf w) (rrrOf w)
  | 0x046 => .fdiv (headOf w) (rrrOf w)
  | 0x047 => .fsqrt (headOf w) (rrrOf w)
  | 0x048 => .frcp (headOf w) (rrrOf w)
  | 0x049 => .frsq (headOf w) (rrrOf w)
  | 0x04A => .fexp2 (headOf w) (rrrOf w)
  | 0x04B => .flog2 (headOf w) (rrrOf w)
  | 0x04C => .fsinpi (headOf w) (rrrOf w)
  | 0x04D => .fcospi (headOf w) (rrrOf w)
  | 0x04E => .ftanh (headOf w) (rrrOf w)
  | 0x04F => .frnd (headOf w) (rrrOf w)
  | 0x050 => .fscl (headOf w) (rrrOf w)
  | 0x051 => .fcmp (headOf w) (rrrOf w)
  | 0x052 => .fclass (headOf w) (rrrOf w)
  | 0x058 => .hadd2 (headOf w) (rrrOf w)
  | 0x059 => .hmul2 (headOf w) (rrrOf w)
  | 0x05A => .hfma2 (headOf w) (rrrOf w)
  | 0x05B => .hmin2 (headOf w) (rrrOf w)
  | 0x05C => .hmax2 (headOf w) (rrrOf w)
  | 0x05D => .fdot2 (headOf w) (rrrOf w)
  | 0x060 => .fcvt (headOf w) (rrrOf w)
  | 0x061 => .i2f (headOf w) (rrrOf w)
  | 0x062 => .f2i (headOf w) (rrrOf w)
  | 0x063 => .fpk (headOf w) (rrrOf w)
  | 0x064 => .fupk (headOf w) (rrrOf w)
  | 0x068 => .faddk (headOf w) (kOf w)
  | 0x069 => .fmulk (headOf w) (kOf w)
  | 0x080 => .mov (headOf w) (rrrOf w)
  | 0x081 => .movk (headOf w) (kOf w)
  | 0x082 => .sel (headOf w) (rrrOf w)
  | 0x083 => .cmp (headOf w) (rrrOf w)
  | 0x088 => .pand (headOf w) (rrrOf w)
  | 0x089 => .por (headOf w) (rrrOf w)
  | 0x08A => .pxor (headOf w) (rrrOf w)
  | 0x08B => .pnot (headOf w) (rrrOf w)
  | 0x08C => .prd (headOf w) (rrrOf w)
  | 0x08D => .pwr (headOf w) (rrrOf w)
  | 0x090 => .rds (headOf w) (xOf w)
  | 0x091 => .wrs (headOf w) (xOf w)
  | 0x098 => .ddx (headOf w) (rrrOf w)
  | 0x099 => .ddy (headOf w) (rrrOf w)
  | 0x09A => .qswz (headOf w) (rrrOf w)
  | 0x0C0 => .ld (headOf w) (mOf w)
  | 0x0C1 => .st (headOf w) (mOf w)
  | 0x0C2 => .ldro (headOf w) (mOf w)
  | 0x0C3 => .pref (headOf w) (mOf w)
  | 0x0C4 => .ldw (headOf w) (mOf w)
  | 0x0C8 => .atom (headOf w) (xOf w)
  | 0x0C9 => .cas (headOf w) (xOf w)
  | 0x0CA => .red (headOf w) (xOf w)
  | 0x0CB => .xadd (headOf w) (xOf w)
  | 0x0CC => .xrd (headOf w) (xOf w)
  | 0x0D0 => .fence (headOf w) (mOf w)
  | 0x0D1 => .wbr (headOf w) (xOf w)
  | 0x0D2 => .invr (headOf w) (xOf w)
  | 0x0E0 => .append (headOf w) (xOf w)
  | 0x0E1 => .seal (headOf w) (xOf w)
  | 0x0E2 => .inkfree (headOf w) (xOf w)
  | 0x0E3 => .inkstat (headOf w) (xOf w)
  | 0x0E8 => .tcom (headOf w) (xOf w)
  | 0x100 => .qpush (headOf w) (xOf w)
  | 0x101 => .qpop (headOf w) (xOf w)
  | 0x102 => .qtry (headOf w) (xOf w)
  | 0x108 => .barr (headOf w) (xOf w)
  | 0x109 => .bwait (headOf w) (xOf w)
  | 0x10A => .barrw (headOf w) (xOf w)
  | 0x10B => .bcfg (headOf w) (xOf w)
  | 0x10C => .mbarr (headOf w) (xOf w)
  | 0x10D => .mbwait (headOf w) (xOf w)
  | 0x110 => .cvarm (headOf w) (xOf w)
  | 0x111 => .sign (headOf w) (xOf w)
  | 0x118 => .spawn (headOf w) (xOf w)
  | 0x119 => .exit (headOf w) (xOf w)
  | 0x11A => .refill (headOf w) (xOf w)
  | 0x120 => .blkget (headOf w) (xOf w)
  | 0x121 => .blkput (headOf w) (xOf w)
  | 0x128 => .yield (headOf w) (xOf w)
  | 0x129 => .nap (headOf w) (xOf w)
  | 0x12A => .sbw (headOf w) (xOf w)
  | 0x180 => .sfld (headOf w) (xOf w)
  | 0x181 => .sfst (headOf w) (xOf w)
  | 0x182 => .sfatom (headOf w) (xOf w)
  | 0x183 => .sffence (headOf w) (xOf w)
  | 0x188 => .tex (headOf w) (xOf w)
  | 0x189 => .texg (headOf w) (xOf w)
  | 0x18A => .texq (headOf w) (xOf w)
  | 0x190 => .pemit (headOf w) (xOf w)
  | 0x191 => .pxout (headOf w) (xOf w)
  | 0x192 => .pxkill (headOf w) (xOf w)
  | 0x193 => .pxord (headOf w) (xOf w)
  | 0x1A0 => .trace (headOf w) (xOf w)
  | 0x1A1 => .tcont (headOf w) (xOf w)
  | 0x1A8 => .neval (headOf w) (xOf w)
  | 0x1A9 => .nflush (headOf w) (xOf w)
  | 0x1B0 => .mma (headOf w) (xOf w)
  | 0x1B1 => .accz (headOf w) (xOf w)
  | 0x1B2 => .accst (headOf w) (xOf w)
  | 0x1B3 => .accld (headOf w) (xOf w)
  | 0x1B8 => .copy (headOf w) (xOf w)
  | 0x1BC => .gred (headOf w) (xOf w)
  | 0x1BD => .rstat (headOf w) (xOf w)
  | 0x1C0 => .bra (headOf w) (bOf w)
  | 0x1C1 => .brx (headOf w) (bOf w)
  | 0x1C2 => .call (headOf w) (bOf w)
  | 0x1C3 => .callx (headOf w) (bOf w)
  | 0x1C4 => .ret (headOf w) (bOf w)
  | 0x1C8 => .trap (headOf w) (xOf w)
  | 0x1C9 => .brk (headOf w) (xOf w)
  | 0x1CA => .tret (headOf w) (xOf w)
  | 0x1CB => .tinfo (headOf w) (xOf w)
  | 0x1D0 => .nop (headOf w) (xOf w)
  | 0x1D8 => .rdtime (headOf w) (xOf w)
  | 0x1D9 => .rdctr (headOf w) (xOf w)
  | _ => .unlistedOpcodeIssue w

/-- Decoding of a word (R70 items 1 and 2): the well-formed instruction, or the item that refuses the word. -/
def decode (w : DWord) : Except Illegal Instr :=
  match (decodeFields w).illegal with
  | none => .ok (decodeFields w)
  | some e => .error e

/-- Bits [63:43] of a word with the given opcode and common fields (R60). -/
def headBits (op : BitVec 9) (h : Head) : BitVec 21 :=
  (op ++ h.stall ++ BitVec.ofBool h.sp ++ BitVec.ofBool h.we ++ h.wslot ++ BitVec.ofBool h.gn ++ h.gp).cast rfl

/-- A word of format RRR (R61). -/
def encRRR (op : BitVec 9) (h : Head) (o : RRR) : DWord :=
  (headBits op h ++ o.d ++ o.a ++ o.b ++ o.c ++ o.ty ++ o.mod).cast rfl

/-- A word of format RI (R61). -/
def encRI (op : BitVec 9) (h : Head) (o : RI) : DWord := (headBits op h ++ o.d ++ o.a ++ o.imm).cast rfl

/-- A word of format K (R61). -/
def encK (op : BitVec 9) (h : Head) (o : KF) : DWord := (headBits op h ++ o.d ++ o.km ++ o.imm).cast rfl

/-- A word of format M (R61). -/
def encM (op : BitVec 9) (h : Head) (o : MF) : DWord := (headBits op h ++ o.t ++ o.a ++ o.b ++ o.off ++ o.cp).cast rfl

/-- A word of format X (R61). -/
def encX (op : BitVec 9) (h : Head) (o : XF) : DWord := (headBits op h ++ o.d ++ o.a ++ o.b ++ o.c ++ o.fn).cast rfl

/-- A word of format B (R61). -/
def encB (op : BitVec 9) (h : Head) (o : BF) : DWord := (headBits op h ++ o.l ++ o.z ++ o.off).cast rfl

/-- The word of a Lamen instruction (R60, R61, R74); an event has no word. -/
def encode : Instr → Option DWord
  | .add h o => some (encRRR 0x000 h o)
  | .sub h o => some (encRRR 0x001 h o)
  | .addc h o => some (encRRR 0x002 h o)
  | .subb h o => some (encRRR 0x003 h o)
  | .mul h o => some (encRRR 0x004 h o)
  | .mulhi h o => some (encRRR 0x005 h o)
  | .mulw h o => some (encRRR 0x006 h o)
  | .mad h o => some (encRRR 0x007 h o)
  | .madw h o => some (encRRR 0x008 h o)
  | .add3 h o => some (encRRR 0x009 h o)
  | .min h o => some (encRRR 0x00A h o)
  | .max h o => some (encRRR 0x00B h o)
  | .abs h o => some (encRRR 0x00C h o)
  | .neg h o => some (encRRR 0x00D h o)
  | .and h o => some (encRRR 0x010 h o)
  | .or h o => some (encRRR 0x011 h o)
  | .xor h o => some (encRRR 0x012 h o)
  | .not h o => some (encRRR 0x013 h o)
  | .andn h o => some (encRRR 0x014 h o)
  | .shl h o => some (encRRR 0x018 h o)
  | .shr h o => some (encRRR 0x019 h o)
  | .sar h o => some (encRRR 0x01A h o)
  | .rot h o => some (encRRR 0x01B h o)
  | .bfx h o => some (encRRR 0x01C h o)
  | .bfi h o => some (encRRR 0x01D h o)
  | .clz h o => some (encRRR 0x01E h o)
  | .popc h o => some (encRRR 0x01F h o)
  | .brev h o => some (encRRR 0x020 h o)
  | .bpick h o => some (encRRR 0x021 h o)
  | .lea h o => some (encRRR 0x022 h o)
  | .dp4 h o => some (encRRR 0x023 h o)
  | .addi h o => some (encRI 0x028 h o)
  | .muli h o => some (encRI 0x029 h o)
  | .andi h o => some (encRI 0x02A h o)
  | .ori h o => some (encRI 0x02B h o)
  | .xori h o => some (encRI 0x02C h o)
  | .shli h o => some (encRI 0x02D h o)
  | .shri h o => some (encRI 0x02E h o)
  | .sari h o => some (encRI 0x02F h o)
  | .cmpi h o => some (encRI 0x030 h o)
  | .fadd h o => some (encRRR 0x040 h o)
  | .fsub h o => some (encRRR 0x041 h o)
  | .fmul h o => some (encRRR 0x042 h o)
  | .ffma h o => some (encRRR 0x043 h o)
  | .fmin h o => some (encRRR 0x044 h o)
  | .fmax h o => some (encRRR 0x045 h o)
  | .fdiv h o => some (encRRR 0x046 h o)
  | .fsqrt h o => some (encRRR 0x047 h o)
  | .frcp h o => some (encRRR 0x048 h o)
  | .frsq h o => some (encRRR 0x049 h o)
  | .fexp2 h o => some (encRRR 0x04A h o)
  | .flog2 h o => some (encRRR 0x04B h o)
  | .fsinpi h o => some (encRRR 0x04C h o)
  | .fcospi h o => some (encRRR 0x04D h o)
  | .ftanh h o => some (encRRR 0x04E h o)
  | .frnd h o => some (encRRR 0x04F h o)
  | .fscl h o => some (encRRR 0x050 h o)
  | .fcmp h o => some (encRRR 0x051 h o)
  | .fclass h o => some (encRRR 0x052 h o)
  | .hadd2 h o => some (encRRR 0x058 h o)
  | .hmul2 h o => some (encRRR 0x059 h o)
  | .hfma2 h o => some (encRRR 0x05A h o)
  | .hmin2 h o => some (encRRR 0x05B h o)
  | .hmax2 h o => some (encRRR 0x05C h o)
  | .fdot2 h o => some (encRRR 0x05D h o)
  | .fcvt h o => some (encRRR 0x060 h o)
  | .i2f h o => some (encRRR 0x061 h o)
  | .f2i h o => some (encRRR 0x062 h o)
  | .fpk h o => some (encRRR 0x063 h o)
  | .fupk h o => some (encRRR 0x064 h o)
  | .faddk h o => some (encK 0x068 h o)
  | .fmulk h o => some (encK 0x069 h o)
  | .mov h o => some (encRRR 0x080 h o)
  | .movk h o => some (encK 0x081 h o)
  | .sel h o => some (encRRR 0x082 h o)
  | .cmp h o => some (encRRR 0x083 h o)
  | .pand h o => some (encRRR 0x088 h o)
  | .por h o => some (encRRR 0x089 h o)
  | .pxor h o => some (encRRR 0x08A h o)
  | .pnot h o => some (encRRR 0x08B h o)
  | .prd h o => some (encRRR 0x08C h o)
  | .pwr h o => some (encRRR 0x08D h o)
  | .rds h o => some (encX 0x090 h o)
  | .wrs h o => some (encX 0x091 h o)
  | .ddx h o => some (encRRR 0x098 h o)
  | .ddy h o => some (encRRR 0x099 h o)
  | .qswz h o => some (encRRR 0x09A h o)
  | .ld h o => some (encM 0x0C0 h o)
  | .ldro h o => some (encM 0x0C2 h o)
  | .ldw h o => some (encM 0x0C4 h o)
  | .st h o => some (encM 0x0C1 h o)
  | .pref h o => some (encM 0x0C3 h o)
  | .fence h o => some (encM 0x0D0 h o)
  | .wbr h o => some (encX 0x0D1 h o)
  | .invr h o => some (encX 0x0D2 h o)
  | .atom h o => some (encX 0x0C8 h o)
  | .cas h o => some (encX 0x0C9 h o)
  | .red h o => some (encX 0x0CA h o)
  | .xadd h o => some (encX 0x0CB h o)
  | .xrd h o => some (encX 0x0CC h o)
  | .append h o => some (encX 0x0E0 h o)
  | .seal h o => some (encX 0x0E1 h o)
  | .inkfree h o => some (encX 0x0E2 h o)
  | .inkstat h o => some (encX 0x0E3 h o)
  | .tcom h o => some (encX 0x0E8 h o)
  | .qpush h o => some (encX 0x100 h o)
  | .qpop h o => some (encX 0x101 h o)
  | .qtry h o => some (encX 0x102 h o)
  | .barr h o => some (encX 0x108 h o)
  | .bwait h o => some (encX 0x109 h o)
  | .barrw h o => some (encX 0x10A h o)
  | .bcfg h o => some (encX 0x10B h o)
  | .mbarr h o => some (encX 0x10C h o)
  | .mbwait h o => some (encX 0x10D h o)
  | .cvarm h o => some (encX 0x110 h o)
  | .sign h o => some (encX 0x111 h o)
  | .spawn h o => some (encX 0x118 h o)
  | .exit h o => some (encX 0x119 h o)
  | .refill h o => some (encX 0x11A h o)
  | .blkget h o => some (encX 0x120 h o)
  | .blkput h o => some (encX 0x121 h o)
  | .yield h o => some (encX 0x128 h o)
  | .nap h o => some (encX 0x129 h o)
  | .sbw h o => some (encX 0x12A h o)
  | .sfld h o => some (encX 0x180 h o)
  | .sfst h o => some (encX 0x181 h o)
  | .sfatom h o => some (encX 0x182 h o)
  | .sffence h o => some (encX 0x183 h o)
  | .tex h o => some (encX 0x188 h o)
  | .texg h o => some (encX 0x189 h o)
  | .texq h o => some (encX 0x18A h o)
  | .pemit h o => some (encX 0x190 h o)
  | .pxout h o => some (encX 0x191 h o)
  | .pxkill h o => some (encX 0x192 h o)
  | .pxord h o => some (encX 0x193 h o)
  | .trace h o => some (encX 0x1A0 h o)
  | .tcont h o => some (encX 0x1A1 h o)
  | .neval h o => some (encX 0x1A8 h o)
  | .nflush h o => some (encX 0x1A9 h o)
  | .rstat h o => some (encX 0x1BD h o)
  | .mma h o => some (encX 0x1B0 h o)
  | .accz h o => some (encX 0x1B1 h o)
  | .accld h o => some (encX 0x1B3 h o)
  | .accst h o => some (encX 0x1B2 h o)
  | .copy h o => some (encX 0x1B8 h o)
  | .gred h o => some (encX 0x1BC h o)
  | .bra h o => some (encB 0x1C0 h o)
  | .brx h o => some (encB 0x1C1 h o)
  | .call h o => some (encB 0x1C2 h o)
  | .callx h o => some (encB 0x1C3 h o)
  | .ret h o => some (encB 0x1C4 h o)
  | .trap h o => some (encX 0x1C8 h o)
  | .tret h o => some (encX 0x1CA h o)
  | .brk h o => some (encX 0x1C9 h o)
  | .nop h o => some (encX 0x1D0 h o)
  | .tinfo h o => some (encX 0x1CB h o)
  | .rdtime h o => some (encX 0x1D8 h o)
  | .rdctr h o => some (encX 0x1D9 h o)
  | .unlistedOpcodeIssue w => some w
  | .strokeFormation _ _ _ => none
  | .destinationWritten _ => none
  | .blockingInstructionComplete _ => none
  | .deferredFaultFound _ => none
  | .deferredFaultDelivery _ => none
  | .trapHandlerEntry _ => none
  | .napExpiry _ => none
  | .blkgetServed _ _ _ => none
  | .queueWaiterServed _ _ => none
  | .binTimerExpiry _ _ _ => none
  | .teamRetirement _ => none
  | .mmaCompletion _ => none
  | .accldCompletion _ => none
  | .accstCompletion _ => none
  | .engineFailure _ => none
  | .gatherWindowExpiry _ => none
  | .tileResultScatter _ => none
  | .traversalCompletion _ _ => none
  | .copyChunkComplete _ _ => none
  | .copyCompletion _ => none
  | .copyChunkFailure _ _ => none
  | .copyReplay _ _ => none
  | .copyCancel _ _ => none
  | .gredCommandAccept _ => none
  | .reduceSubcommand _ _ => none
  | .reduceSegmentEnd _ => none
  | .gredResultWrite _ => none
  | .gredCommandFailure _ => none
  | .emptyLineTimeout _ => none
  | .ldwTimeout _ => none
  | .appendRequestAtHome _ => none
  | .appendDataPerformed _ => none
  | .appendDataLost _ => none
  | .sealRequestAtHome _ => none
  | .inkRetirement _ _ => none
  | .retirementAcknowledgement _ _ _ => none
  | .replicaGrantRequest _ _ _ _ => none
  | .replicaDrop _ => none
  | .replicaClear _ _ _ => none
  | .inkRegionCreate _ _ _ => none
  | .inkRegionDestroy _ _ => none
  | .persistentRequest _ _ _ => none
  | .recall _ => none
  | .eviction _ _ => none
  | .pageFaultRecordDelayed _ => none
  | .tfrespResolved _ _ _ => none
  | .tfrespUnresolvable _ _ _ => none
  | .tinvctlCommand _ => none
  | .tinvComplete => none
  | .surfaceEntryValid _ _ _ => none
  | .surfaceEntryInvalidate _ _ => none
  | .blotterSpill _ _ _ => none
  | .tileRefill _ _ _ => none
  | .setupAccept _ => none
  | .primitiveForward _ _ => none
  | .rasterize _ _ => none
  | .nibUnitAct _ => none
  | .drawCompletion _ => none
  | .queueEnable _ _ => none
  | .queueDisable _ => none
  | .tailWrite _ _ _ => none
  | .recordExamine _ => none
  | .waitEventMet _ _ => none
  | .launchDispatch _ => none
  | .teamPlacement _ _ _ _ => none
  | .cohortPlacement _ => none
  | .preemption _ => none
  | .weightload _ => none
  | .launchCompletionSignal _ => none
  | .contextCreate _ _ => none
  | .contextDestroy _ => none
  | .hfrespResume _ _ => none
  | .threadPark _ => none
  | .deadlineExpiry _ => none
  | .teamSave _ => none
  | .teamRestore _ => none
  | .sliceEnd => none
  | .ctrCommandDone => none
  | .registerWrite _ _ _ => none
  | .faultRecordPostDelayed _ => none
  | .hostAccess _ _ _ => none
  | .moduleReset => none
  | .powerRemoval => none
  | .escalationRecordDelayed _ => none
  | .hfrespTerminateThread _ _ => none
  | .hfrespTerminateLaunch _ _ => none
  | .ctrcmdLoad _ => none
  | .ctrcmdStore _ => none
  | .uncorrectableError _ => none
  | .patrolScrub _ _ _ => none
  | .coreControlError _ _ => none
  | .columnControlError _ => none
  | .cxlTimeout _ => none
  | .flitCrcFail _ => none
  | .peerAccess _ _ _ => none
  | .peerTimeout _ => none
  | .imageWrite _ _ => none
  | .attestationRequest _ => none
  | .errorLogRead _ => none
  | .correctionCountRead _ => none
  | .powerCap _ => none
  | .powerWindow _ => none
  | .thermalThrottle _ _ => none
  | .thermalShutdown _ _ => none
  | .peerRoutesDownTimeout _ => none
  | .peerRetirementRequest _ _ => none
  | .inkpoolDisable _ _ => none
  | .inkpoolEnable _ _ => none
  | .matrixSelfTest _ _ _ _ => none
  | .matrixEngineHang _ _ => none
  | .migrationEpochEnd _ _ => none
  | .contextFieldWrite _ _ => none
  | .surfaceEntryClear _ _ _ => none

/-- A clause header (R54). -/
structure ClauseHeader where
  count : BitVec 4
  cls : BitVec 3
  wait : BitVec 8
  yld : Bool
  term : Bool
  deriving DecidableEq, Repr

/-- The word is a header: TAG is 0xA (R54, R58). -/
def isHeader (w : DWord) : Bool := w.extractLsb' 60 4 = 0xA#4

/-- The fields of a header (R54). -/
def headerOf (w : DWord) : ClauseHeader where
  count := w.extractLsb' 56 4
  cls := w.extractLsb' 53 3
  wait := w.extractLsb' 45 8
  yld := w.getLsbD 44
  term := w.getLsbD 43

/-- The header holds defined values only: CLASS is not 7 and the reserved bits are zero (R54). -/
def headerOk (w : DWord) : Bool := isHeader w && w.extractLsb' 53 3 ≠ 7#3 && w.extractLsb' 0 43 = 0#43

/-- A mask word (R72). -/
structure MaskWord where
  blk : BitVec 8
  prd : BitVec 7
  csd : BitVec 4
  deriving DecidableEq, Repr

/-- The word is a mask word: TAG is 0xB (R72). -/
def isMask (w : DWord) : Bool := w.extractLsb' 60 4 = 0xB#4

/-- The fields of a mask word (R72). -/
def maskOf (w : DWord) : MaskWord where
  blk := w.extractLsb' 52 8
  prd := w.extractLsb' 45 7
  csd := w.extractLsb' 41 4

/-- The mask word holds defined values only: CSD is at most 8 and the reserved bits are zero (R72). -/
def maskOk (w : DWord) : Bool := isMask w && (w.extractLsb' 41 4).toNat ≤ 8 && w.extractLsb' 0 41 = 0#41

/-- Reading one bit field of a descriptor or record as a number, bits [lo + width − 1 : lo] (R7). -/
def field {n : Nat} (v : BitVec n) (lo width : Nat) : Nat := (v.extractLsb' lo width).toNat

/-- The little-endian number of a list of bytes (R7). -/
def leNat : List Byte → Nat
  | [] => 0
  | b :: bs => b.toNat + 256 * leNat bs

/-- The `n` little-endian bytes of a number (R7). -/
def leBytes : Nat → Nat → List Byte
  | 0, _ => []
  | n + 1, v => BitVec.ofNat 8 v :: leBytes n (v / 256)

/-- The host's question: the instruction the decoder reads from the bits of the first word, numbered as
spec/opcode_table.json numbers them. The table gives no row any bits; a Lamen instruction is one 64-bit word. -/
def decodeTableWord (nbits w : Nat) : Option Instr :=
  match decode (BitVec.ofNat 64 (w % 2 ^ (max nbits 64))) with
  | .ok i => some i
  | .error _ => none

end Sys2Proof
end

