-- ==== Sys2Proof/Machine/Num.lean ====
section
/-! DEFINITION. Number formats and exact arithmetic (R31 to R52): every operation computes an exact value, and one
function rounds it. -/

namespace Sys2Proof.Machine

/-! ## Integers (R31) -/

/-- The width in bits of an integer or bit type code (R31, R65). -/
def tyWidth (ty : BitVec 4) : Nat :=
  if wide ty then 64 else if ty = 4 || ty = 5 then 16 else if ty = 6 || ty = 7 then 8 else 32

/-- The signed integer types i32, i64, i16 and i8 (R31). -/
def tySigned (ty : BitVec 4) : Bool := ty = 0 || ty = 2 || ty = 4 || ty = 6

/-- The integer that the low bits of a value hold under a type (R31). -/
def tyRead (ty : BitVec 4) (v : DWord) : Int :=
  let w := tyWidth ty
  let n := v.toNat % 2 ^ w
  if tySigned ty && 2 ^ (w - 1) ≤ n then (n : Int) - 2 ^ w else n

/-- The least value of an integer type. -/
def tyMin (ty : BitVec 4) : Int := if tySigned ty then -(2 ^ (tyWidth ty - 1)) else 0

/-- The greatest value of an integer type. -/
def tyMax (ty : BitVec 4) : Int := if tySigned ty then 2 ^ (tyWidth ty - 1) - 1 else 2 ^ tyWidth ty - 1

/-- Clamping to a range. -/
def clampInt (lo hi x : Int) : Int := if x < lo then lo else if hi < x then hi else x

/-- The register value of an integer result: wrapped to the type, then sign- or zero-extended to the register (R31). -/
def tyWrite (ty : BitVec 4) (x : Int) : DWord :=
  BitVec.ofInt 64 (tyRead ty (BitVec.ofInt 64 x))

/-- The sign-extended value of the low `w` bits. -/
def sextNat (w n : Nat) : Int := if 2 ^ (w - 1) ≤ n % 2 ^ w then (n % 2 ^ w : Int) - 2 ^ w else (n % 2 ^ w : Nat)

/-! ## Floating formats (R32) -/

/-- The floating formats. -/
inductive Fmt where
  | f32 | f16 | bf16 | e4m3 | e5m2 | e2m1
  deriving DecidableEq, Repr

/-- The format of a type code (R65). -/
def fmtOf (ty : Nat) : Fmt :=
  if ty = 9 then .f16 else if ty = 10 then .bf16 else if ty = 11 then .e4m3 else if ty = 12 then .e5m2
  else if ty = 13 then .e2m1 else .f32

/-- Bits in all. -/
def Fmt.bits : Fmt → Nat
  | .f32 => 32 | .f16 => 16 | .bf16 => 16 | .e4m3 => 8 | .e5m2 => 8 | .e2m1 => 4

/-- Fraction bits. -/
def Fmt.frac : Fmt → Nat
  | .f32 => 23 | .f16 => 10 | .bf16 => 7 | .e4m3 => 3 | .e5m2 => 2 | .e2m1 => 1

/-- Exponent bias. -/
def Fmt.bias : Fmt → Nat
  | .f32 => 127 | .f16 => 15 | .bf16 => 127 | .e4m3 => 7 | .e5m2 => 15 | .e2m1 => 1

/-- The code of the largest finite magnitude. -/
def Fmt.maxCode : Fmt → Nat
  | .f32 => 0x7F7FFFFF | .f16 => 0x7BFF | .bf16 => 0x7F7F | .e4m3 => 0x7E | .e5m2 => 0x7B | .e2m1 => 0x7

/-- The code of +Inf, in a format that has one. -/
def Fmt.infCode? : Fmt → Option Nat
  | .f32 => some 0x7F800000 | .f16 => some 0x7C00 | .bf16 => some 0x7F80 | .e5m2 => some 0x7C | .e4m3 => none
  | .e2m1 => none

/-- The canonical NaN; e2m1 has none and its conversions of NaN give zero (R42). -/
def Fmt.nanCode : Fmt → Nat
  | .f32 => 0x7FC00000 | .f16 => 0x7E00 | .bf16 => 0x7FC0 | .e4m3 => 0x7F | .e5m2 => 0x7E | .e2m1 => 0

/-- The sign bit. -/
def Fmt.signBit (f : Fmt) : Nat := 2 ^ (f.bits - 1)

/-- A floating value: ± m × 2^e with zero as m = 0, an infinity, or NaN. -/
inductive Val where
  | nan
  | inf (neg : Bool)
  | fin (neg : Bool) (m : Nat) (e : Int)
  deriving DecidableEq, Repr

/-- The value of a code (R32, R34). -/
def unpack (f : Fmt) (code : Nat) : Val :=
  let c := code % 2 ^ f.bits
  let neg := decide (f.signBit ≤ c)
  let mag := c % f.signBit
  let ex := mag / 2 ^ f.frac
  let fr := mag % 2 ^ f.frac
  if f.maxCode < mag then (if f.infCode? = some mag then .inf neg else .nan)
  else if ex = 0 then .fin neg fr (1 - (f.bias : Int) - f.frac)
  else .fin neg (fr + 2 ^ f.frac) ((ex : Int) - f.bias - f.frac)

/-- A code with its sign. -/
def signed (f : Fmt) (neg : Bool) (mag : Nat) : Nat := if neg then mag + f.signBit else mag

/-- The infinite result in a format: e4m3 has a NaN there and e2m1 its largest value (R36). -/
def infResult (f : Fmt) (neg : Bool) : Nat :=
  match f.infCode? with
  | some c => signed f neg c
  | none => if f = .e2m1 then signed f neg f.maxCode else f.nanCode

/-- The overflow result (R35, R36). Modes: 0 nearest even, 1 toward zero, 2 toward −∞, 3 toward +∞. -/
def overflow (f : Fmt) (mode : Nat) (neg : Bool) : Nat :=
  if mode = 0 || (mode = 2 && neg) || (mode = 3 && !neg) then infResult f neg else signed f neg f.maxCode

/-- Rounding a quotient `q` with remainder `r` over `d` to an integer in a mode. -/
def roundInt (mode : Nat) (neg : Bool) (q r d : Nat) : Nat :=
  if r = 0 then q
  else match mode with
    | 0 => if 2 * r < d then q else if d < 2 * r then q + 1 else if q % 2 = 0 then q else q + 1
    | 1 => q
    | 2 => if neg then q + 1 else q
    | _ => if neg then q else q + 1

/-- The exponent of the leading bit of num / den. -/
def leadExp (num den : Nat) : Int :=
  let k : Int := (num.log2 : Int) - den.log2
  if (if 0 ≤ k then num < den * 2 ^ k.toNat else num * 2 ^ (-k).toNat < den) then k - 1 else k

/-- The magnitude code of num / den rounded to a format as though its exponent were unbounded above; below the normal
range the value is rounded to the subnormal grid directly (R36). -/
def roundMag (f : Fmt) (mode : Nat) (neg : Bool) (num den : Nat) : Nat :=
  let emin : Int := 1 - (f.bias : Int)
  let ex := max (leadExp num den) emin
  let u := ex - f.frac
  let n := if 0 ≤ u then num else num * 2 ^ (-u).toNat
  let d := if 0 ≤ u then den * 2 ^ u.toNat else den
  (ex - emin).toNat * 2 ^ f.frac + roundInt mode neg (n / d) (n % d) d

/-- `round` of the exact value ± num / den (R36); a zero keeps its sign. -/
def roundFrac (f : Fmt) (mode : Nat) (neg : Bool) (num den : Nat) : Nat :=
  if num = 0 then signed f neg 0
  else
    let c := roundMag f mode neg num den
    if f.maxCode < c then overflow f mode neg else signed f neg c

/-- The numerator and denominator of m × 2^e. -/
def fracOf (m : Nat) (e : Int) : Nat × Nat := if 0 ≤ e then (m * 2 ^ e.toNat, 1) else (m, 2 ^ (-e).toNat)

/-- `round` of a value to a format, with infinities and NaN (R36, R39). -/
def roundVal (f : Fmt) (mode : Nat) : Val → Nat
  | .nan => f.nanCode
  | .inf neg => infResult f neg
  | .fin neg m e => roundFrac f mode neg (fracOf m e).1 (fracOf m e).2

/-- `convert(x, fmt, mode, sat)` (R42). -/
def convert (f : Fmt) (mode : Nat) (sat : Bool) (x : Val) : Nat :=
  if sat then
    match x with
    | .nan => f.nanCode
    | .inf neg => signed f neg f.maxCode
    | .fin neg m e =>
      if m = 0 then signed f neg 0
      else
        let (n, d) := fracOf m e
        let c := roundMag f mode neg n d
        signed f neg (min c f.maxCode)
  else roundVal f mode x

/-- Clamping to [0, 1] after rounding (R37). -/
def satUnit (f : Fmt) (code : Nat) : Nat :=
  let one := f.bias * 2 ^ f.frac
  match unpack f code with
  | .nan => 0
  | .inf neg => if neg then 0 else one
  | .fin neg m _ => if neg || m = 0 then 0 else if one < code then one else code

/-- The sign modifiers of R38 on a code: absolute value first, then negation. -/
def modCode (f : Fmt) (ab ng : Bool) (code : Nat) : Nat :=
  let c := code % 2 ^ f.bits
  let a := if ab then c % f.signBit else c
  if ng then (if a < f.signBit then a + f.signBit else a - f.signBit) else a

/-- Changing the sign of a value. -/
def Val.neg : Val → Val
  | .nan => .nan
  | .inf n => .inf !n
  | .fin n m e => .fin (!n) m e

/-- The exact product (R36, R46): NaN for zero times an infinity. -/
def Val.mul : Val → Val → Val
  | .nan, _ => .nan
  | _, .nan => .nan
  | .inf a, .inf b => .inf (a != b)
  | .inf a, .fin b m _ => if m = 0 then .nan else .inf (a != b)
  | .fin a m _, .inf b => if m = 0 then .nan else .inf (a != b)
  | .fin a m e, .fin b n g => .fin (a != b) (m * n) (e + g)

/-- A dyadic integer number m × 2^e. -/
structure Dyadic where
  m : Int
  e : Int
  deriving DecidableEq, Repr

/-- The exact sum of two dyadic numbers. -/
def Dyadic.add (a b : Dyadic) : Dyadic :=
  let e := min a.e b.e
  ⟨a.m * 2 ^ (a.e - e).toNat + b.m * 2 ^ (b.e - e).toNat, e⟩

/-- The finite value of a term as a dyadic number; other values count as zero. -/
def Val.dyadic : Val → Dyadic
  | .fin neg m e => ⟨if neg then -(m : Int) else m, e⟩
  | _ => ⟨0, 0⟩

/-- The value of a dyadic number, zero positive. -/
def Dyadic.val (d : Dyadic) : Val := .fin (decide (d.m < 0)) d.m.natAbs d.e

/-- Is the value a NaN. -/
def Val.isNan : Val → Bool
  | .nan => true
  | _ => false

/-- Is the value the infinity of that sign. -/
def Val.isInf (neg : Bool) : Val → Bool
  | .inf n => n == neg
  | _ => false

/-- Is the value a zero of that sign. -/
def Val.isZero (neg : Bool) : Val → Bool
  | .fin n m _ => m = 0 && n == neg
  | _ => false

/-- Is the value zero. -/
def Val.zero : Val → Bool
  | .fin _ m _ => m = 0
  | _ => false

/-- Is the value below zero. -/
def Val.negative : Val → Bool
  | .nan => false
  | .inf n => n
  | .fin n m _ => n && m ≠ 0

/-- The exact sum of terms with the sign rule for a zero sum (R36, R46): NaN for a NaN or infinities of both signs. -/
def sumVals (mode : Nat) (ts : List Val) : Val :=
  if ts.any Val.isNan || (ts.any (Val.isInf true) && ts.any (Val.isInf false)) then .nan
  else if ts.any (Val.isInf true) then .inf true
  else if ts.any (Val.isInf false) then .inf false
  else
    let d := (ts.map Val.dyadic).foldl Dyadic.add ⟨0, 0⟩
    if d.m = 0 then
      .fin (if ts.all (Val.isZero true) then true else if ts.all (Val.isZero false) then false else decide (mode = 2)) 0 0
    else d.val

/-- The order of two values that are not NaN: −1, 0 or 1. -/
def Val.compare : Val → Val → Int
  | .inf a, .inf b => if a = b then 0 else if a then -1 else 1
  | .inf a, _ => if a then -1 else 1
  | _, .inf b => if b then 1 else -1
  | a, b => (a.dyadic.add (b.neg).dyadic).m.sign

/-- A sign-magnitude code as an integer that orders −0 below +0 (R96). -/
def orderKey (f : Fmt) (code : Nat) : Int :=
  if code < f.signBit then code else -((code - f.signBit : Nat) : Int) - 1

/-- `fmin` (`hi` false) and `fmax` (R96). -/
def minMax (f : Fmt) (hi : Bool) (a b : Nat) : Nat :=
  match (unpack f a).isNan, (unpack f b).isNan with
  | true, true => f.nanCode
  | true, false => b
  | false, true => a
  | false, false => if decide (orderKey f a < orderKey f b) != hi then a else b

/-- The exact quotient rounded (R40): IEEE 754 division. -/
def divRound (f : Fmt) (mode : Nat) (a b : Val) : Nat :=
  match a, b with
  | .nan, _ => f.nanCode
  | _, .nan => f.nanCode
  | .inf _, .inf _ => f.nanCode
  | .inf x, .fin y _ _ => infResult f (x != y)
  | .fin x _ _, .inf y => signed f (x != y) 0
  | .fin x m e, .fin y n g =>
    if n = 0 then (if m = 0 then f.nanCode else infResult f (x != y))
    else
      let (p, q) := fracOf m e
      let (r, s) := fracOf n g
      roundFrac f mode (x != y) (p * s) (q * r)

/-- The integer square root, bit by bit from bit `k − 1`. -/
def isqrtFrom (n : Nat) : Nat → Nat → Nat
  | 0, r => r
  | k + 1, r => isqrtFrom n k (if (r + 2 ^ k) * (r + 2 ^ k) ≤ n then r + 2 ^ k else r)

/-- The integer square root. -/
def isqrt (n : Nat) : Nat := isqrtFrom n (n.log2 / 2 + 1) 0

/-- The square root of num / den rounded (R40). The root is bounded between two neighbours of a grid far finer than the
format, and a root that is not exact rounds as the middle of its cell does. -/
def sqrtRound (f : Fmt) (mode : Nat) (num den : Nat) : Nat :=
  let k := 200
  let q := num * 4 ^ k / den
  let r := isqrt q
  if r * r * den = num * 4 ^ k then roundFrac f mode false r (2 ^ k)
  else roundFrac f mode false (2 * r + 1) (2 ^ (k + 1))

/-- An integral value in a mode, keeping the sign of a zero (R95 `frnd`). -/
def roundIntegral (mode : Nat) : Val → Val
  | .fin neg m e =>
    if 0 ≤ e then .fin neg m e
    else
      let d := 2 ^ (-e).toNat
      .fin neg (roundInt mode neg (m / d) (m % d) d) 0
  | v => v

/-- Float to integer (R43). -/
def toInt (ty : BitVec 4) (mode : Nat) (v : Val) : Int :=
  match v with
  | .nan => 0
  | .inf neg => if neg then tyMin ty else tyMax ty
  | .fin _ _ _ =>
    match roundIntegral mode v with
    | .fin neg m e =>
      let x : Int := m * 2 ^ e.toNat
      clampInt (tyMin ty) (tyMax ty) (if neg then -x else x)
    | _ => 0

/-- An integer as a value. -/
def ofInt (x : Int) : Val := .fin (decide (x < 0)) x.natAbs 0

/-! ## Dot products (R46, R47) -/

/-- A block scale is positive, finite and normal (R45). -/
def scaleOk (code : Nat) : Bool := 0x00800000 ≤ code && code ≤ 0x7F7FFFFF

/-- The exact sum of products of one block times its scales (R46). -/
def blockSum (as bs : List Val) (sa sb : Nat) : Val :=
  if scaleOk sa && scaleOk sb then
    ((sumVals 0 (List.zipWith Val.mul as bs)).mul (unpack .f32 sa)).mul (unpack .f32 sb)
  else .nan

/-- One block added to the binary32 accumulator code (R46): a zero block sum leaves the code as it is. -/
def accBlock (acc : Nat) (s : Val) : Nat :=
  if s.isNan || (unpack .f32 acc).isNan then 0x7FC00000
  else if s.zero then acc
  else roundVal .f32 0 (sumVals 0 [unpack .f32 acc, s])

/-- `dot(acc, a, b, K)` over blocks of 32 elements with their scales, blocks in increasing k order (R46); `n` bounds the
number of blocks. -/
def dotBlocks : Nat → Nat → List Val → List Val → List Nat → List Nat → Nat
  | 0, acc, _, _, _, _ => acc
  | n + 1, acc, as, bs, sa, sb =>
    if as.isEmpty then acc
    else dotBlocks n (accBlock acc (blockSum (as.take 32) (bs.take 32) (sa.headD 0x3F800000) (sb.headD 0x3F800000)))
      (as.drop 32) (bs.drop 32) (sa.drop 1) (sb.drop 1)

/-- The exact integer sum of products (R47). -/
def dotInt (as bs : List Int) : Int := (List.zipWith (· * ·) as bs).foldl (· + ·) 0

/-! ## Exact-sum objects (R48 to R50), as 512-bit numbers -/

/-- `xadd` of a binary32 code (R49). -/
def exactAdd (obj : Nat) (code : Nat) : Nat :=
  match unpack .f32 code with
  | .nan => obj ||| 2 ^ 480
  | .inf neg => obj ||| (if neg then 2 ^ 482 else 2 ^ 481)
  | .fin neg m e =>
    let v : Int := m * 2 ^ (e + 149).toNat
    let t := sextNat 480 obj + (if neg then -v else v)
    let flags := obj / 2 ^ 480 * 2 ^ 480
    let flags := if t < -(2 ^ 479) || 2 ^ 479 ≤ t then flags ||| 2 ^ 483 else flags
    flags + (t % 2 ^ 480).toNat

/-- The binary32 code that `xrd` returns (R50). -/
def exactRead (obj : Nat) (mode : Nat) : Nat :=
  let nan := obj.testBit 480
  let pinf := obj.testBit 481
  let ninf := obj.testBit 482
  let s := sextNat 480 obj
  if nan || (pinf && ninf) || obj.testBit 483 then 0x7FC00000
  else if pinf then 0x7F800000
  else if ninf then 0xFF800000
  else if s = 0 then 0
  else roundFrac .f32 mode (decide (s < 0)) s.natAbs (2 ^ 149)

end Sys2Proof.Machine
end

