-- ==== Sys2Proof/Machine/State.lean ====
section
/-! DEFINITION. The state of the device as plain data: every register, memory and structure the spec gives it, from the
threads outwards, and the state at the start of a power span. Counts, indexes and addresses inside the machine are natural
numbers; what software sees as a word is a bit vector. -/

namespace Sys2Proof.Machine

/-- Why the machine stops. -/
inductive Fault where
  /-- A Lamen instruction is executed in a state with no issuing thread: raised by the meaning of every Lamen instruction, through
  `issue`. No step of the device does this (a word has the thread that issues it), so it is safe. -/
  | noThread
  deriving DecidableEq, Repr

/-- Why an instruction has no meaning in this model. -/
inductive Refusal where
  /-- An instruction whose meaning is not written: raised by its arm of `exec`. Safe: nothing is claimed of it. -/
  | notModelled (mnemonic : String)
  deriving DecidableEq, Repr

/-! ## Sparse storage -/

/-- Storage of `w`-bit cells by key: the keys rise strictly and no listed cell is zero, so an unlisted key reads zero. -/
abbrev Cells (w : Nat) := List (Nat × BitVec w)

/-- The device's memory: bytes by physical address (notes/assumptions/1.md). -/
abbrev Memory := List Host.Cell

/-- Reading the cell at a key; an unlisted key reads zero. -/
def cellRead {w : Nat} (k : Nat) : Cells w → BitVec w
  | [] => 0
  | (a, v) :: r => if a = k then v else if k < a then 0 else cellRead k r

/-- The listing of one cell in front of another list: a zero is not listed. -/
def cellCons {w : Nat} (k : Nat) (x : BitVec w) (r : Cells w) : Cells w := if x = 0 then r else (k, x) :: r

/-- Writing the cell at a key, keeping the canonical form. -/
def cellWrite {w : Nat} (k : Nat) (x : BitVec w) : Cells w → Cells w
  | [] => cellCons k x []
  | (a, v) :: r =>
    if k < a then cellCons k x ((a, v) :: r)
    else if a = k then cellCons k x r
    else (a, v) :: cellWrite k x r

/-- Every key of the list is above `k`, keys rise strictly and no cell is zero. -/
def cellWfFrom {w : Nat} : Nat → Cells w → Bool
  | _, [] => true
  | k, (a, v) :: r => decide (k ≤ a) && decide (v ≠ 0) && cellWfFrom (a + 1) r

/-- The canonical form of a storage. -/
def cellWf {w : Nat} (m : Cells w) : Bool := cellWfFrom 0 m

/-- The canonical form of memory. -/
abbrev Memory.wf (m : Memory) : Bool := cellWf (w := 8) m

/-- Zeroing the `n` cells from a key on. -/
def cellClear {w : Nat} (lo n : Nat) (m : Cells w) : Cells w := m.filter fun c => c.1 < lo || lo + n ≤ c.1

/-! ## Threads -/

/-- Where a fixed-latency result goes (R66). -/
inductive Dest where
  | reg (n : Nat) (v : Word)
  | pred (n : Nat) (b : Bool)
  deriving DecidableEq, Repr

/-- A fixed-latency result in flight: an instruction issued at `ready` or later reads it (R66, R67). -/
structure Flight where
  ready : Nat
  dest : Dest
  deriving DecidableEq, Repr

/-- A trap or fault of a thread: cause, subcode, address, whether deferred, and the program counter that is saved with the
header of the clause it lies in (R163, R164, R205). -/
structure Trap where
  cause : Nat
  sub : Nat
  addr : DWord
  deferred : Bool
  pc : DWord
  head : DWord
  deriving DecidableEq, Repr

/-- A deferred fault found and not yet delivered, with the registers its instruction leased, the slot it set (R124), and whether
that instruction is an access to memory (R133). -/
structure PendingFault where
  cause : Nat
  sub : Nat
  addr : DWord
  pc : DWord
  regs : List Nat
  slot : Option Nat
  order : Nat
  access : Bool
  deriving DecidableEq, Repr

/-- What an accessed location is asked to do, once its address is known: the actions of R128 to R151. `sx` sign-extends;
a destination is a list of registers. -/
inductive Action where
  /-- Reads `width` bytes into the destination registers (R128). `ink`: 0 ld, 1 ldro, 2 ldw. -/
  | load (width : Nat) (sx : Bool) (dst : List Nat) (form : Nat)
  /-- Writes the bytes (R129). -/
  | store (bytes : List Byte)
  /-- The operation of R136; `aop` 7 is `cas` comparing with `cmp`. -/
  | atomic (aop aty : Nat) (b cmp : DWord) (dst : List Nat)
  /-- The reduction of R137. -/
  | red (aop aty : Nat) (b : DWord)
  /-- Adds to an exact-sum object (R138). -/
  | xadd (b : Word)
  /-- Reads an exact-sum object (R138). -/
  | xrd (rnd : Nat) (clr : Bool) (dst : List Nat)
  /-- Arrives on a barrier object (R151). -/
  | mbarr (count : Word)
  /-- Requests room in an ink region for words (R140). -/
  | append (words : List Word) (dst : List Nat)
  /-- Reads an ink region's descriptor (R145). -/
  | inkstat (dst : List Nat)
  deriving DecidableEq, Repr

/-- One access to memory: the action, its virtual address and its ordering, ORD of R62 and R135. -/
structure Access where
  act : Action
  va : DWord
  ord : Nat
  deriving DecidableEq, Repr

/-- A leaf: the physical address of the byte sought, and the fields of its entry. `size` is the page size. -/
structure Leaf where
  pa : Nat
  size : Nat
  owner : Nat
  mig : Nat
  x : Bool
  w : Bool
  cls : Nat
  share : Nat
  /-- The physical address of the entry itself. -/
  entryAt : Nat
  /-- The virtual address that was translated, in 57 bits. -/
  va : Nat
  deriving DecidableEq, Repr

/-- Why a walk finds no valid leaf: LEVEL and REASON of the page-fault record (R349). -/
structure WalkFail where
  level : Nat
  reason : Nat
  deriving DecidableEq, Repr

/-- A lane's part of a gather-reduce command (R199). -/
structure GredPart where
  table : DWord
  row : Nat
  dst : DWord
  acc : Bool
  bf16 : Bool
  nel : Nat
  deriving DecidableEq, Repr

/-- A surface access at its texels (R174, R176): 0 sfld, 1 sfst, 2 sfatom, 3 tex, 4 texg; `fn` is FN of the word, and `fmt` the surface's
format when it was issued (R249). -/
structure TexelAccess where
  form : Nat
  handle : Nat
  coords : List Word
  fn : Nat
  data : List Word
  fmt : Nat
  deriving DecidableEq, Repr

/-- A ray traversal of the record at `va` (R186, R187). -/
structure Traversal where
  va : DWord
  /-- The form is `.t` (R188). -/
  tf : Bool
  /-- DEC of `tcont`, with its candidate (R187). -/
  decision : Option Nat
  candidate : List Word
  /-- The page fault that it waits for: of its record while `record` is none, then of a node (R184, R306). -/
  token : Option Nat
  /-- The numbers of the pages of nodes that were declared unresolvable to it (R306). -/
  dead : List Nat := []
  /-- Bases and limits of the regions that entered FREEING after its record was read (R306). -/
  freed : List (Nat × Nat) := []
  /-- The record that it read, brought up to the last return point passed (R188, R305), and the visits charged until then (R416). -/
  record : Option (BitVec 512 × Nat) := none
  /-- A drain reached it while it waited for a node's page (R305). -/
  drained : Bool := false
  deriving DecidableEq, Repr

/-- How far a variable-latency instruction, or an access that waits, has come. -/
inductive Stage where
  /-- The values are known and wait to be written (R24); `poison` marks the registers (R405). -/
  | ready (writes : List (Nat × Word)) (poison : Bool)
  /-- A deferred fault waits to be found (R124): the address that the rules state for it, if not the instruction's own; `mem` when the
  instruction is an access to memory (R133). -/
  | failed (cause sub : Nat) (addr : Option DWord) (mem : Bool)
  /-- Logged for the page fault of that token (R123). -/
  | logged (a : Access) (token : Nat)
  /-- Waits behind earlier accesses of the thread (R123, R125), under the mapping it was issued under, if it has one (R346, R347). -/
  | behind (a : Access) (l : Option Leaf)
  /-- Waits at an empty result line, at whose controller it arrived in that cycle, under the mapping it was issued under (R318, R347). -/
  | emptyLine (a : Access) (l : Leaf) (since : Nat)
  /-- Waits for the watermark, under the mapping it was issued under (R132, R347). -/
  | watermark (a : Access) (l : Leaf)
  /-- An `append` request on its way to the region's home (R140). -/
  | appendRequest (va : DWord) (words : List Word)
  /-- An `append` reservation whose data is being written (R140, R361). -/
  | appendData (region off : Nat) (words : List Word)
  /-- A network request in the gatherer (R190, R278): handle, inputs, the registers of the subcode if the form is `.s` (none for
  C = 0xF0), and the page fault it waits for, with whether that is of the descriptor and not of the table entry (R269). -/
  | gather (handle : Word) (inputs : List Word) (sub : Option (List Nat)) (token : Option (Nat × Bool))
  /-- A network request of form `.s` that was refused as it entered: its subcode waits to be written, and it keeps its place in the gatherer
  until then (R191, R278). -/
  | refused (writes : List (Nat × Word))
  /-- A ray traversal (R186, R187). -/
  | traverse (t : Traversal)
  /-- A gather-reduce part logged for page faults of its result row, or, with none, held behind earlier accesses of its thread (R125, R199). -/
  | gredLogged (p : GredPart) (tokens : List Nat)
  /-- A surface access that waits for the spilled tiles it touches (R174, R253). -/
  | texel (a : TexelAccess)
  /-- An arrival on a team barrier that waits for the thread's earlier accesses (R222, R229). -/
  | arrival (b count : Nat)
  /-- A request to the second tier or to a peer that has no completion yet, sent under a mapping in that cycle (R347, R390, R392). -/
  | remote (a : Access) (l : Leaf) (since : Nat)
  deriving DecidableEq, Repr

/-- An instruction in flight: its thread, its destinations under lease and the slot it set (R24, R68, R223). -/
structure Op where
  id : Nat
  tid : Nat
  team : Nat
  launch : Nat
  ctx : Nat
  col : Nat
  core : Nat
  pc : DWord
  /-- Lane, thread slot and ITEM of its thread (R411, R412), which may have ended. -/
  lane : Nat
  place : Nat
  item : Nat
  slot : Option Nat
  dst : List Nat
  issued : Nat
  /-- The number of the stroke's issue of the word: the lanes of one issue share it. -/
  stroke : Nat
  stage : Stage
  deriving DecidableEq, Repr

/-- A primitive (R179, R180): its sequence number, its draw, its attribute count and three vertices of 4 + NATTR words. -/
structure Primitive where
  seq : Nat
  launch : Nat
  nattr : Nat
  verts : List (List Word)
  deriving DecidableEq, Repr

/-- What a thread that issued a blocking instruction, or whose issue stalls, waits for. -/
inductive Wait where
  /-- The word is to be issued to the thread again: its issue stalled (R123, R169, R180, R192), or the page it waited for has its answer
  (R352). `counted`: its issue has been counted (R416). -/
  | stalled (counted : Bool)
  /-- `spawn` of an entry with its arguments, read at issue, while the thread's earlier accesses are not performed or its bin
  cannot take the request (R155, R222). -/
  | spawnRoom (entry : DWord) (args : List Word)
  /-- `fence` (R133): earlier accesses to be performed. -/
  | fence (va : DWord) (ord : Nat)
  /-- The word's page is under a page fault; the word is issued again once system software resolves it (R25, R58, R133, R146,
  R352). `form`, when it is unresolvable: 0 a deferred translation fault at a blocking instruction, 1 a precise one, 2 the
  return-stack fault, 3 a precise one of an atomic group. -/
  | page (token : Nat) (va : DWord) (form : Nat)
  /-- `seal` of a region by an address, whose request has not yet reached the home, or which waits for W = T (R142). -/
  | sealing (region : Nat) (arrived : Bool) (va : DWord)
  /-- `inkfree` of a region by an address, whose request has not yet reached the home, or until the region reopens (R143). -/
  | freeing (region : Nat) (sent : Bool) (va : DWord)
  /-- `wbr`, or `invr` if `inv`, of a range before the thread's earlier accesses are performed (R134). -/
  | maintain (va len : Nat) (inv : Bool)
  /-- `tcom` before the thread's earlier accesses are performed (R147). -/
  | commit (pd : BitVec 8)
  /-- A push of `qpush`, or of `qtry` with its predicate, before the thread's earlier accesses are performed (R149, R229). -/
  | pushHeld (q : Nat) (words : List Word) (tried : Option (BitVec 8))
  /-- `barrw` before the thread's earlier accesses are performed, so that its arrival is not yet counted (R150, R229). -/
  | barrwHeld (b : Nat) (pd : BitVec 8)
  /-- `sffence`, or the leaving `pxord` if `leave`, before the thread's surface writes are performed (R175, R183). -/
  | surfaceWrites (leave : Bool)
  | qpush (q : Nat) (words : List Word)
  | qpop (q : Nat) (dst : List Nat)
  | bwait (b target pd : Nat)
  /-- `barrw` after its arrival was counted: a wait for the phase after it (R150, R161). -/
  | barrw (b target pd : Nat)
  | mbwait (va : DWord) (target : Nat)
  | blkget (n : Nat)
  | nap (till : Nat)
  | sbw (mask : BitVec 8)
  /-- The thread has reached `exit` and waits for its slots (R156). -/
  | exit
  /-- The `mma` of a final `sign` waits to issue (R154). -/
  | signed (cv : Nat)
  /-- `pemit` before setup accepts the primitive with that index in the batch (R180). -/
  | setup (index : Nat) (prim : Primitive)
  /-- `pxord` before its pixel's earlier fragments retire (R183). -/
  | pxord
  deriving DecidableEq, Repr

/-- A thread that does not issue: what it waits for, since which cycle, and where it goes on (R212). -/
structure Block where
  wait : Wait
  since : Nat
  next : DWord
  nextHead : DWord
  mask : Option DWord
  deriving DecidableEq, Repr

/-- An atomic group (R146): the lines touched and the widest SHARE of their pages, the buffered stores in program order, each with the
mapping it was issued under, and whether it must abort. -/
structure Group where
  lines : List Nat
  share : Nat
  stores : List (DWord × List Byte × Leaf)
  aborted : Bool
  deriving DecidableEq, Repr

/-- What kind of thread it is (R27, R179, R181). -/
inductive ThreadKind where
  | compute
  | geometry
  | pixel
  | spawned
  deriving DecidableEq, Repr

/-- An escalation that holds a thread (R164, R375). -/
structure Hold where
  token : Nat
  posted : Bool
  reason : Nat
  trap : Trap
  deriving DecidableEq, Repr

/-- A thread (R13 to R30, R206 to R212). -/
structure Thread where
  id : Nat
  ctx : Nat
  team : Nat
  kind : ThreadKind
  col : Nat
  core : Nat
  lane : Nat
  slot : Nat
  /-- The cycle in which the thread was created (R130). -/
  begun : Nat
  regs : Cells 32
  allot : Nat
  preds : BitVec 7
  pc : DWord
  /-- The header of the clause that holds `pc` (equal to `pc` between clauses). -/
  head : DWord
  /-- The thread is on its way to TRAPENT: the fetch there is of that kind (R58, R375). -/
  entering : Bool
  stack : List DWord
  spills : Nat
  window : DWord
  spillSize : Nat
  tid : Word
  tx : Word
  ty : Word
  tz : Word
  quad : Option Nat
  quadId : Nat
  helper : Bool
  px : Word
  py : Word
  prim : Word
  seq : Word
  nbin : Word
  item : Word
  trapPc : DWord
  trapHead : DWord
  trapAddr : DWord
  trapInfo : Word
  inHandler : Bool
  /-- A trap taken whose entry waits for slots to clear (R164). -/
  trap : Option Trap
  pending : List PendingFault
  hold : Option Hold
  flights : List Flight
  nextIssue : Nat
  readySince : Nat
  yieldMark : Bool
  /-- The header of the clause in which the thread has issued `yield`, whose end gives it a yield mark (R160, R209). -/
  yieldIn : Option DWord
  /-- What `yieldIn` was when the thread entered its handler (R160, R165). -/
  trapYield : Option DWord
  block : Option Block
  /-- The mask word of the safe point just issued, or none (R72, R73). -/
  mask : Option DWord
  poisoned : List Nat
  group : Option Group
  aborts : Nat
  abortAt : DWord
  /-- The ticket of a pixel thread (R181). -/
  ticket : Option Nat
  ordered : Bool
  /-- The thread has been parked for a save (R378); its saved live state follows `mask` or is whole. -/
  parked : Bool
  wholeSave : Bool
  deriving DecidableEq, Repr

/-- A clause as fetched: the address of its header, the header word, and the words that follow. -/
structure Clause where
  head : DWord
  header : DWord
  words : List DWord
  deriving DecidableEq, Repr

/-- A stroke in flight (R209 to R212): its pen, members in lane order, the address its members issue from next, the clause
once fetched, and the cycle in which it was formed. -/
structure Stroke where
  id : Nat
  col : Nat
  core : Nat
  pen : Nat
  ctx : Nat
  members : List Nat
  head : DWord
  pc : DWord
  clause : Option Clause
  formed : Nat
  deriving DecidableEq, Repr

/-- The thread that issues now, with the clause and the index of the word in it; `stroke` is the
number of the stroke's issue of the word. -/
structure Issue where
  tid : Nat
  clause : Clause
  idx : Nat
  stroke : Nat
  /-- The members of the stroke that fault at this word by items 1 to 6 of R70 (R116). -/
  faulting : List Nat
  /-- The members of the stroke that issue the word in this cycle. -/
  members : List Nat
  /-- What the lookup found for the pages that the stroke's issue touches: a page's number, and its leaf or why it has none; every
  lane of the issue uses it (R346). -/
  pages : List (Nat × (Leaf ⊕ WalkFail))
  deriving DecidableEq, Repr

/-- A pen of a core. -/
structure Pen where
  col : Nat
  core : Nat
  pen : Nat
  deriving DecidableEq, Repr

/-! ## Teams and cores -/

/-- A team barrier: the object of R23 and the flag `ERR` (R150). -/
structure Barrier where
  phase : Nat
  expected : Nat
  pending : Nat
  err : Bool
  deriving DecidableEq, Repr

/-- A queue's ring in scratchpad (R148, R149, R333) and the threads that wait on it in order of arrival. -/
structure Ring where
  slots : Nat
  entry : Nat
  offset : Nat
  head : Nat
  tail : Nat
  count : Nat
  waiters : List Nat
  deriving DecidableEq, Repr

/-- A convergence register: signatures still awaited (0 when disarmed), the mma descriptor and the address it was read
from (R153, R286). -/
structure Converge where
  count : Nat
  desc : List Byte
  addr : DWord
  deriving DecidableEq, Repr

/-- A source row that a line-buffer slot keeps, with its key (R312). -/
structure BufRow where
  kind : Nat
  handle : Nat
  addr : Nat
  esz : Nat
  fmt : Nat
  bytes : List Byte
  deriving DecidableEq, Repr

/-- A team (R13, R22, R23, R27, R113, R194). -/
structure Team where
  id : Nat
  ctx : Nat
  launch : Nat
  col : Nat
  core : Nat
  lanes : List Nat
  kind : ThreadKind
  index : Nat
  size : Nat
  shape : Nat × Nat × Nat
  grid : Nat × Nat × Nat
  extent : Nat × Nat × Nat
  ks : Cells 32
  barriers : List Barrier
  queues : List (Option Ring)
  converge : List Converge
  scratchSize : Nat
  scratch : Cells 8
  scratchPoison : List Nat
  item : Word
  itemEnd : Word
  acc : Cells 32
  accPoison : List Nat
  emitted : List Nat
  binTimer : Nat
  stackBase : DWord
  spillSize : Nat
  stackStride : Nat
  /-- The cycle in which the team was marked for a save (R378). -/
  marked : Option Nat
  /-- The line-buffer slots 1 to 4 (R312). -/
  lineBufs : List (List BufRow)
  /-- The granted lanes per pen, for the accumulator tiles granted and the shape of an image (R337, R380). -/
  accTiles : Nat
  /-- Threads started in a pixel team, for `$tid` (R260). -/
  started : Nat
  deriving DecidableEq, Repr

/-- A spawn request in a bin (R155, R216). -/
structure SpawnRequest where
  team : Nat
  args : List Word
  deriving DecidableEq, Repr

/-- A spawn bin in use: its key, its requests in arrival order, and when its timer expires (R216, R217). -/
structure Bin where
  col : Nat
  core : Nat
  index : Nat
  ctx : Nat
  entry : DWord
  requests : List SpawnRequest
  expires : Nat
  released : Bool
  deriving DecidableEq, Repr

/-- A request in a lane's `blkget` queue (R158, R220). -/
structure BlkRequest where
  col : Nat
  core : Nat
  lane : Nat
  tid : Nat
  deriving DecidableEq, Repr

/-- The space a locked range lies in (R169): scratchpad of the team, virtual memory, or the texels of a surface. -/
inductive Space where
  | scratch
  | memory
  | surface (index : Nat)
  deriving DecidableEq, Repr

/-- An entry of a core's range-lock table (R169): held for the team by an engine operation or a traversal. -/
structure Lock where
  col : Nat
  core : Nat
  team : Nat
  owner : Nat
  space : Space
  lo : Nat
  hi : Nat
  write : Bool
  deriving DecidableEq, Repr

/-! ## Contexts -/

/-- An entry of the context table (R371): its number and its descriptor. -/
structure Context where
  idx : Nat
  desc : BitVec 1024
  deriving DecidableEq, Repr

/-! ## Memory beside its bytes -/

/-- A copy of a 128-byte line of physical memory held in a column's caches (R227, R234, R237, R238). -/
structure LineCopy where
  col : Nat
  line : Nat
  ctx : Nat
  bytes : List Byte
  /-- Bit i: byte i is dirty. -/
  dirty : Nat
  owned : Bool
  managed : Bool
  /-- The line lies on a sealed ink page (R236). -/
  sealedInk : Bool
  /-- The release count when the line was first dirtied (R235). -/
  stamp : Nat
  /-- Bit i: the copy's 32-byte sector i is marked poisoned (R405). -/
  poison : Nat
  /-- The cycle in which the line was fetched (R130). -/
  since : Nat
  deriving DecidableEq, Repr

/-- The release count E of a column for a context (R235). -/
structure Epoch where
  col : Nat
  ctx : Nat
  count : Nat
  deriving DecidableEq, Repr

/-- The scope record of a line in a column's L2 (R239), where lines carry their context's number (R374). -/
structure ScopeRecord where
  ctx : Nat
  col : Nat
  line : Nat
  share : Nat
  deriving DecidableEq, Repr

/-- The reduction tag of a 32-byte sector of a context's virtual memory (R137). -/
structure Tag where
  ctx : Nat
  sector : Nat
  aop : Nat
  aty : Nat
  deriving DecidableEq, Repr

/-- A RESULT line with commands outstanding: it is empty while the count is above zero (R318). -/
structure Pending where
  line : Nat
  count : Nat
  deriving DecidableEq, Repr

/-- A line of a surface's linear bytes that a core's texture caches hold (R175), and the threads that have written it at its bank
since. -/
structure TexLine where
  col : Nat
  core : Nat
  ctx : Nat
  index : Nat
  line : Nat
  bytes : List Byte
  writers : List Nat
  deriving DecidableEq, Repr

/-- What the memory system keeps beside the bytes of memory. -/
structure Caches where
  copies : List LineCopy
  epochs : List Epoch
  scopes : List ScopeRecord
  tags : List Tag
  empties : List Pending
  textures : List TexLine
  /-- The pages that were mapped with CLASS RESULT when they were last touched: context, page number and frame number (R318). -/
  results : List (Nat × Nat × Nat)
  deriving DecidableEq, Repr

/-- A page-fault record that has no answer yet (R349, R432). -/
structure PageRecord where
  token : Nat
  ctx : Nat
  col : Nat
  core : Nat
  va : DWord
  kind : Nat
  level : Nat
  reason : Nat
  posted : Bool
  deriving DecidableEq, Repr

/-! ## Ink regions -/

/-- A reservation granted and not yet performed (R361). -/
structure Reservation where
  op : Nat
  off : Nat
  len : Nat
  deriving DecidableEq, Repr

/-- A valid ink region at its home (R357, R361, R364, R368): `tail` is T, the watermark is derived from the reservations.
`rstate`: 0 OPEN, 1 SEALED, 2 FREEING. `closing`: 0 none, 1 a seal has arrived, 2 a free has arrived. `acks`: columns whose
acknowledgement is awaited; `peers`: peer packages and host awaited. `leaving`: the region is released when it reopens, and then
`heir`, a descriptor written over it, is taken as a creation (R359). -/
structure InkRegion where
  ctx : Nat
  region : Nat
  base : Nat
  limit : Nat
  tail : Nat
  rmask : Nat
  home : Nat
  share : Nat
  rstate : Nat
  closing : Nat
  acks : List Nat
  peers : List Nat
  leaving : Bool
  retired : Bool
  reservations : List Reservation
  /-- Offsets and lengths of appended bytes that were lost while their page had no frame (R362). -/
  lost : List (Nat × Nat)
  heir : Option (BitVec 256) := none
  /-- The columns that have read a line of a page of the sealed region at its home, with the page's number (R365). -/
  readers : List (Nat × Nat) := []
  deriving DecidableEq, Repr

/-- A replica page a column holds (R365), least recently used first. -/
structure Replica where
  col : Nat
  ctx : Nat
  region : Nat
  page : Nat
  deriving DecidableEq, Repr

/-! ## Records and registers -/

/-- A fault record that waits in a column for room in its context's ring (R411, R413). -/
structure HeldRecord where
  col : Nat
  ctx : Nat
  bytes : List Byte
  /-- The copy that waits on the record, or 0. -/
  copy : Nat
  deriving DecidableEq, Repr

/-- A work queue's table entry, which shows the tail register's value (R326, R327). -/
structure WorkQueue where
  idx : Nat
  entry : BitVec 256
  /-- The next record once it has been examined, and which of its waits are met (R328, R335). -/
  record : Option (BitVec 1024)
  met1 : Bool
  met2 : Bool
  /-- A page fault that the queue waits for, and whether it has stopped at a record that cannot be read (R328). -/
  token : Option Nat
  stopped : Bool
  /-- The record at HEAD fails with this ITEM, and whether its completion is to be signalled, but its report waits for room or its signal
  for the counter's page (R334, R413). -/
  failing : Option (Nat × Bool)
  /-- EN has been cleared, and records are still to be withdrawn; a record that has been reported and is to be signalled is kept (R326). -/
  withdrawing : Bool
  /-- The page that the queue waits for is that of the completion counter (R334). -/
  atCounter : Bool := false
  deriving DecidableEq, Repr

/-! ## Engines -/

/-- How a copy stands (R310 to R315): running, or failed and waiting on its record at a physical address once posted. The
reason is that of the record, and the address its FADDR. -/
inductive CopyPhase where
  | running
  | failed (reason faddr : Nat) (record : Option Nat)
  /-- Cancelled by software, with its record of kind 3 not yet written (R314, R413). -/
  | cancelled (reason : Nat)
  deriving DecidableEq, Repr

/-- A copy (R307): its engine (4 before it has one), the chunks written, the empty result lines that chunks have met, each with the
chunk, the line and the cycle of that, and each chunk's source bytes when a line-buffer slot is named. -/
structure CopyJob where
  desc : BitVec 512
  engine : Nat
  written : List Nat
  phase : CopyPhase
  arrived : List (Nat × Nat × Nat)
  rows : List (Nat × List Byte)
  /-- The chunk that waits for a page: its number, the address, and whether it is a destination (R352). -/
  missed : Option (Nat × Nat × Bool)
  /-- The chunks that have failed, each with REASON and FADDR, while others in flight finish or fail (R313). -/
  failing : List (Nat × Nat × Nat)
  deriving DecidableEq, Repr

/-- What an engine operation does (R193 to R198). -/
inductive Engine where
  | accz (first count : Nat)
  | accld (first count : Nat) (va : DWord)
  | accst (first count : Nat) (va : DWord) (param : Option DWord) (ofmt act : Nat) (sat ity : Bool)
  | mma (desc : BitVec 512)
  | copy (job : CopyJob)
  deriving DecidableEq, Repr

/-- An engine operation that has been issued and has not completed (R169): `at_` is the address it is reported under. -/
structure EngOp where
  id : Nat
  team : Nat
  launch : Nat
  ctx : Nat
  col : Nat
  core : Nat
  bar : Option Nat
  at_ : DWord
  engine : Engine
  issued : Nat
  /-- The page fault it waits for, and a fault that was declared unresolvable: whether of a destination (R352). -/
  token : Option Nat
  dead : Option Bool
  /-- A request of it to the second tier or to a peer has been ended without an answer (R390, R392). -/
  lost : Bool
  deriving DecidableEq, Repr

/-- A sub-array of a matrix engine that is fenced (R288, R410). -/
structure SubArray where
  col : Nat
  core : Nat
  sub : Nat
  deriving DecidableEq, Repr

/-- The cycle in which a core's matrix engine last retired a block sum (R408). -/
structure Retire where
  col : Nat
  core : Nat
  cycle : Nat
  deriving DecidableEq, Repr

/-- A gatherer tile (R279): its key, the descriptor version of its first request, its requests as numbers of operations, and
whether it has been dispatched. -/
structure Tile where
  id : Nat
  col : Nat
  core : Nat
  ctx : Nat
  handle : Nat
  entry : DWord
  desc : BitVec 512
  opened : Nat
  window : Nat
  rows : List Nat
  dispatched : Bool
  deriving DecidableEq, Repr

/-- A piece of a `gred` row within one line of memory (R316): the unit that reads it, the row's index, its virtual address, its first
element, its physical address and its length. `data` is what it held when the `gred` issued, none of it when it was marked; a piece on
an empty result line is read once the line is full (R130, R201, R318). -/
structure GredLine where
  unit : Nat
  row : Nat
  va : Nat
  elem : Nat
  pa : Nat
  len : Nat
  data : Option (Option (List Byte))
  deriving DecidableEq, Repr

/-- A `gred` command (R200, R316): its rows' addresses with their indexes, the result row, and what its units have read:
element and binary32 pattern. -/
structure GredCmd where
  id : Nat
  ctx : Nat
  col : Nat
  core : Nat
  tid : Nat
  /-- The threads whose lanes are in the command, each with its place in the order of issue (R395). -/
  issuers : List (Nat × Nat)
  stroke : Nat
  launch : Nat
  dst : DWord
  acc : Bool
  bf16 : Bool
  nel : Nat
  rows : List (DWord × Nat)
  /-- The pieces of each row that could be read when the `gred` issued. -/
  early : List (List GredLine)
  /-- The cycle in which its first part was formed. -/
  issued : Nat
  accepted : Bool
  /-- The pieces that no unit has read yet, and whether the command has been split into them. -/
  lines : List GredLine
  split : Bool
  parts : List (Nat × Nat)
  /-- Where the result row lies in physical memory, once the command is accepted: addresses with lengths. -/
  places : List (Nat × Nat)
  token : Option Nat
  /-- The cycle since which a row that lies on an empty result line is awaited (R318). -/
  waits : Option Nat
  failRow : Option Nat
  deriving DecidableEq, Repr

/-- The engines of the device. -/
structure Engines where
  ops : List EngOp
  fenced : List SubArray
  retires : List Retire
  tiles : List Tile
  greds : List GredCmd
  /-- Reduce units whose segment is running (R317). -/
  segments : List Nat
  deriving DecidableEq, Repr

/-! ## Surfaces and the raster path -/

/-- A surface in use (R245, R248): its accepted entry, its texels by linear byte (layer, tile, place in the tile), marked
32-byte sectors, spilled tiles, and the cycle of each tile's last use. -/
structure Surface where
  ctx : Nat
  index : Nat
  entry : BitVec 512
  texels : Cells 8
  poison : List Nat
  spilled : List Nat
  used : List (Nat × Nat)
  deriving DecidableEq, Repr

/-- A team's reorder buffer in setup (R256): the next index to forward, what has been emitted (none when discarded), and
whether the team has retired. -/
structure Setup where
  team : Nat
  launch : Nat
  col : Nat
  index : Nat
  next : Nat
  slots : List (Nat × Option Primitive)
  closed : Bool
  deriving DecidableEq, Repr

/-- A column's inbound queue for one sender and one work queue (R257). -/
structure Inbound where
  col : Nat
  sender : Nat
  queue : Nat
  prims : List Primitive
  /-- Quads of the first primitive that have been passed. -/
  cursor : Nat
  deriving DecidableEq, Repr

/-- How a ticket stands (R263). -/
inductive TicketState where
  | waiting
  | retired
  | killed
  deriving DecidableEq, Repr

/-- A fragment's ticket at its nib unit (R260, R263): its pixel, the coverage and depth of its samples, and the last values
of `pxout`. -/
structure Ticket where
  id : Nat
  launch : Nat
  queue : Nat
  col : Nat
  x : Nat
  y : Nat
  seq : Nat
  cover : Nat
  depths : List Word
  outs : List (Nat × List Word)
  depth : Option Word
  /-- The fragment's ordered region has been left (R183). -/
  left : Bool
  state : TicketState
  deriving DecidableEq, Repr

/-- The raster path. -/
structure Raster where
  surfaces : List Surface
  setups : List Setup
  inbound : List Inbound
  tickets : List Ticket
  deriving DecidableEq, Repr

/-! ## Launches -/

/-- The place of a team: column, core and pens as a mask (R258, R337). -/
structure Reserve where
  col : Nat
  core : Nat
  pens : Nat
  deriving DecidableEq, Repr

/-- What a waiting cohort has reserved for one of its teams, at the place it is to take (R339): the team's place on the core,
scratchpad units, accumulator tiles, and thread slots and register blocks on each of its lanes in order. -/
structure Held where
  place : Reserve
  team : Bool
  scr : Nat
  acc : Nat
  slots : List Nat
  blocks : List Nat
  deriving DecidableEq, Repr

/-- A launch dispatched and not complete (R329 to R340). -/
structure Launch where
  id : Nat
  q : Nat
  lrec : Nat
  ctx : Nat
  record : BitVec 1024
  pipe : BitVec 1024
  plan : BitVec 1536
  params : BitVec 2048
  /-- The draw sequence (R331). -/
  draw : Nat
  /-- The place in the order of dispatch. -/
  order : Nat
  /-- The linear index of the next team to place. -/
  next : Nat
  failed : Bool
  terminated : Bool
  /-- A WEIGHTLOAD has copied, or failed to (R277). -/
  done : Bool
  /-- The page fault that a WEIGHTLOAD's source waits for, and whether it was declared unresolvable (R352). -/
  token : Option Nat
  dead : Bool
  /-- The cycle since which a WEIGHTLOAD's source waits at an empty result line (R318). -/
  since : Option Nat
  /-- The cohort's target column and the cycle in which it was fixed (R339). -/
  target : Option (Nat × Nat)
  /-- A draw's places for pixel teams (R258). -/
  reserved : List Reserve
  /-- What a waiting cohort has reserved, team by team (R339). -/
  held : List Held
  /-- The entries of the surfaces that a draw binds as they stood at its dispatch, targets first (R249). -/
  entries : List (BitVec 512)
  /-- The bases of the stack windows that its threads have had (R6, R333). -/
  windows : List DWord
  deriving DecidableEq, Repr

/-- A team saved to memory (R380): its image lies at a physical address; `image` is what the device wrote there. A paused copy
stays among the engine operations. -/
structure SavedTeam where
  team : Team
  threads : List Thread
  base : Nat
  size : Nat
  image : List Host.Cell
  deriving DecidableEq, Repr

/-- The scheduler: launches in order of dispatch, saved teams, the queue served last at each priority (R338), the function
that holds the time slice with the cycle it began, and whether a world switch is under way (R383, R384). -/
structure Scheduler where
  launches : List Launch
  saved : List SavedTeam
  served : List Nat
  holder : Nat
  sliceFrom : Nat
  switching : Bool
  deriving DecidableEq, Repr

/-! ## Registers, counters and the platform -/

/-- The count of a page with MIG = 1 (R353). -/
structure Heat where
  ctx : Nat
  page : Nat
  count : Nat
  deriving DecidableEq, Repr

/-- A page that a migration unit is moving from one frame to another: where its entry lies, and the entry as it was walked to (R355). -/
structure Move where
  ctx : Nat
  page : Nat
  entryAt : Nat
  entry : DWord
  old : Nat
  new : Nat
  deriving DecidableEq, Repr

/-- A column's migration unit (R353 to R355). -/
structure Migration where
  ctl : DWord
  bases : List DWord
  idxs : List DWord
  heat : List Heat
  moving : List Move
  deriving DecidableEq, Repr

/-- A counter that has been configured (R415); any other reads zero with a zero select word. -/
structure Counter where
  col : Nat
  n : Nat
  select : DWord
  value : BitVec 48
  deriving DecidableEq, Repr

/-- A column's weight store (R276): its bytes and marked sectors. -/
structure WeightStore where
  col : Nat
  bytes : Cells 8
  poison : List Nat
  deriving DecidableEq, Repr

/-- The registers of region 0x04 (R385, R386, R348, R418), the counters, and the weight stores. -/
structure Registers where
  qtbase : DWord
  ctxbase : DWord
  tinvaddr : DWord
  tinvctl : DWord
  ctrbase : DWord
  ctrcmd : DWord
  slices : List DWord
  migrations : List Migration
  counters : List Counter
  weights : List WeightStore
  /-- Functions whose overflow interrupt has been sent (R417). -/
  interrupts : List Nat
  /-- Functions whose entry 1 of the MSI-X table is unmasked, and those whose message is pending behind the mask (R417). -/
  unmasked : List Nat
  pending : List Nat
  /-- The first virtual page of the invalidation command that runs (R348). -/
  tinvrange : DWord
  /-- What the last host or register read returned (R385, R388). -/
  hostReply : List Byte
  deriving DecidableEq, Repr

/-- Correction counts of a column for a class (R404). -/
structure Correction where
  col : Nat
  cls : Nat
  corrected : Nat
  poisoned : Nat
  deriving DecidableEq, Repr

/-- A Puquin Link port that has had a flit fail (R391): the failed replays of the flit under way. -/
structure LinkPort where
  port : Nat
  fails : Nat
  down : Bool
  deriving DecidableEq, Repr

/-- Flash, image settings, power, the error log and the management port (R404, R414, R423 to R431). `slots` are the image
slots A and B; `settings` and `certificate` are what BODY of the chosen image gave. -/
structure Platform where
  slots : List (List Byte)
  chosen : Nat
  rollback : Nat
  leaf : Nat
  settings : Config.Settings
  certificate : List Byte
  cap : Nat
  nextCap : Nat
  floor : Nat
  exceeded : Bool
  throttled : List Nat
  windowFrom : Nat
  log : List (BitVec 256)
  logCount : Nat
  corrections : List Correction
  links : List LinkPort
  replies : List (List Byte)
  /-- The slot that the baseboard controller is writing (R426). -/
  writing : Option Nat
  /-- Populated root ports whose link is down (R389). -/
  rootsDown : List Nat
  /-- Columns of whose shutdown temperature the baseboard controller has been told (R431). -/
  alarms : List Nat
  /-- Frames, by number, that a peer package may no longer reach (R393). -/
  refused : List (Nat × Nat)
  /-- Retirements of peer packages that this package has acknowledged: package, address and length (R393). -/
  acknowledged : List (Nat × Nat × Nat)
  deriving DecidableEq, Repr

/-! ## The machine -/

/-- The power state (R6, R425, R431). -/
inductive Power where
  | on
  /-- The device has stopped issuing at its shutdown temperature and waits for power to be removed (R431). -/
  | halted
  | recovery
  | off
  deriving DecidableEq, Repr

/-- The whole state of the device. -/
structure State where
  power : Power
  /-- Cycles of 1.1 GHz since the power span began (R203). -/
  now : Nat
  /-- The model's own counter of free values (notes/assumptions/3.md). -/
  fresh : Nat
  /-- The model's own counter of numbers given to threads, teams, operations and the like. -/
  nextId : Nat
  mem : Memory
  /-- The 32-byte sectors of physical memory that are marked poisoned (R403). -/
  poison : List Nat
  caches : Caches
  pageRecords : List PageRecord
  heldRecords : List HeldRecord
  inks : List InkRegion
  replicas : List Replica
  /-- INKPOOL of each column (R366). -/
  inkpools : List DWord
  /-- Peer packages whose routes are down, each with the cycle since when (R392, R393). -/
  peersDown : List (Nat × Nat)
  queues : List WorkQueue
  contexts : List Context
  threads : List Thread
  teams : List Team
  strokes : List Stroke
  ops : List Op
  bins : List Bin
  blkgets : List BlkRequest
  locks : List Lock
  engines : Engines
  raster : Raster
  sched : Scheduler
  regs : Registers
  platform : Platform
  /-- The model's own fields: the events due, the members that still issue in this cycle, the pens not yet served in this
  cycle, and the issue under way (notes/assumptions/2.md). -/
  agenda : List Instr
  issuing : List (Nat × Nat)
  pens : List Pen
  cur : Option Issue
  deriving DecidableEq, Repr

/-! ## The state at the start of a power span -/

/-- INKPOOL of a column that the image does not name (R366). -/
def inkpoolDefault (col : Nat) : DWord := BitVec.ofNat 64 (0x0EE6B00A3E9A0001 + col * 2 ^ 37)

/-- The settings that stand for those of the image whose boot began the span (notes/assumptions/13.md): all ports, the highest cap, no
aperture and no route. -/
def defaultSettings : Config.Settings :=
  { ports := 8, cap := 7500000, floor := 0, package := 0, inkpools := [], apertures := [], routes := [], fenced := [] }

/-- A migration unit after reset (R354). -/
def Migration.reset : Migration := { ctl := 0, bases := [0, 0, 0], idxs := [0, 0, 0], heat := [], moving := [] }

/-- The device at the start of a power span (R6, R425): nothing resident, every register at its reset value. -/
def State.reset : State where
  power := .on
  now := 0
  fresh := 0
  nextId := 1
  mem := []
  poison := []
  caches := { copies := [], epochs := [], scopes := [], tags := [], empties := [], textures := [], results := [] }
  pageRecords := []
  heldRecords := []
  inks := []
  replicas := []
  inkpools := (List.range 32).map inkpoolDefault
  peersDown := []
  queues := []
  contexts := []
  threads := []
  teams := []
  strokes := []
  ops := []
  bins := []
  blkgets := []
  locks := []
  engines := { ops := [], fenced := [], retires := [], tiles := [], greds := [], segments := [] }
  raster := { surfaces := [], setups := [], inbound := [], tickets := [] }
  sched :=
    { launches := [], saved := [], served := List.replicate 8 32767, holder := 0, sliceFrom := 0, switching := false }
  regs :=
    { qtbase := 0, ctxbase := 0, tinvaddr := 0, tinvctl := 0, ctrbase := 0, ctrcmd := 0
      slices := List.replicate 32 1100000, migrations := List.replicate 32 Migration.reset, counters := [], weights := []
      interrupts := [], unmasked := [], pending := [], tinvrange := 0, hostReply := [] }
  platform :=
    { slots := [[], []], chosen := 0, rollback := 0, leaf := 0, settings := defaultSettings, certificate := [], cap := 7500000
      nextCap := 7500000, floor := 0, exceeded := false, throttled := [], windowFrom := 0, log := [], logCount := 0
      corrections := [], links := [], replies := [], writing := none, rootsDown := [], alarms := [], refused := []
      acknowledged := [] }
  agenda := []
  issuing := []
  pens := []
  cur := none

end Sys2Proof.Machine
end

