-- ==== Sys2Proof/Machine/Operands.lean ====
section
/-! DEFINITION. Operands: which registers an instruction names (R17, R24, R67), and what a source code reads (R22, R26 to
R28, R79). -/

namespace Sys2Proof.Machine

/-! ## Threads and teams by number -/

/-- The thread of that number. -/
def State.thread? (s : State) (t : Nat) : Option Thread := s.threads.find? (·.id = t)

/-- The team of that number. -/
def State.team? (s : State) (t : Nat) : Option Team := s.teams.find? (·.id = t)

/-- The launch of that number. -/
def State.launch? (s : State) (l : Nat) : Option Launch := s.sched.launches.find? (·.id = l)

/-- The context of that index; one that was never written reads as a descriptor of zeros (R371). -/
def State.context (s : State) (c : Nat) : Context := (s.contexts.find? (·.idx = c)).getD { idx := c, desc := 0 }

/-- Replacing a thread by its new record. -/
def State.setThread (s : State) (th : Thread) : State :=
  { s with threads := s.threads.map fun t => if t.id = th.id then th else t }

/-- Replacing a team by its new record. -/
def State.setTeam (s : State) (tm : Team) : State :=
  { s with teams := s.teams.map fun t => if t.id = tm.id then tm else t }

/-! ## Fields of a context descriptor (R371) -/

/-- The checking-scoreboard bit (R67). -/
def Context.chksb (c : Context) : Bool := c.desc.getLsbD 1

/-- SMREP (R239). -/
def Context.smrep (c : Context) : Bool := c.desc.getLsbD 2

/-- FUNC. -/
def Context.func (c : Context) : Nat := field c.desc 8 5

/-- TRAPENT. -/
def Context.trapEntry (c : Context) : DWord := c.desc.extractLsb' 320 64

/-! ## Registers of a thread -/

/-- General register `n` (R14). -/
def Thread.reg (th : Thread) (n : Nat) : Word := cellRead n th.regs

/-- The pair whose low half is register `n` (R18). -/
def Thread.pair (th : Thread) (n : Nat) : DWord := th.reg (n + 1) ++ th.reg n

/-- Predicate `n`; p7 is always true (R21). -/
def Thread.pred (th : Thread) (n : Nat) : Bool := n = 7 || th.preds.getLsbD n

/-- Writing a general register; the write clears a poison mark (R405). -/
def Thread.setReg (th : Thread) (n : Nat) (v : Word) : Thread :=
  { th with regs := cellWrite n v th.regs, poisoned := th.poisoned.filter (· ≠ n) }

/-- Writing a predicate; p7 discards (R21). -/
def Thread.setPred (th : Thread) (n : Nat) (b : Bool) : Thread :=
  if n < 7 then
    { th with preds := if b then th.preds ||| BitVec.ofNat 7 (2 ^ n) else th.preds &&& ~~~(BitVec.ofNat 7 (2 ^ n)) }
  else th

/-- One result written. -/
def Thread.write (th : Thread) : Dest → Thread
  | .reg n v => th.setReg n v
  | .pred n b => th.setPred n b

/-- The fixed-latency results whose ready cycle has come are written, in order of ready cycle and then of issue (R66,
R67); the list of flights is kept in that order. -/
def Thread.settle (th : Thread) (now : Nat) : Thread :=
  (th.flights.takeWhile (·.ready ≤ now)).foldl (fun t f => t.write f.dest)
    { th with flights := th.flights.dropWhile (·.ready ≤ now) }

/-- A flight put behind those that are ready no later. -/
def insertFlight (f : Flight) : List Flight → List Flight
  | [] => [f]
  | g :: r => if g.ready ≤ f.ready then g :: insertFlight f r else f :: g :: r

/-- A fixed-latency result issued now with latency `lat` (R66). -/
def Thread.launch (th : Thread) (now lat : Nat) (ds : List Dest) : Thread :=
  { th with flights := ds.foldl (fun fs d => insertFlight ⟨now + lat, d⟩ fs) th.flights }

/-! ## Which registers an instruction names -/

/-- The registers and predicates an instruction reads and writes. -/
structure Uses where
  src : List Nat := []
  dst : List Nat := []
  psrc : List Nat := []
  pdst : List Nat := []
  deriving DecidableEq, Repr

/-- The register of a word position. -/
def wordRegs (c : BitVec 8) : List Nat := if isReg c then [c.toNat] else []

/-- The registers of a pair position. -/
def pairRegs (c : BitVec 8) : List Nat := if isReg c then [c.toNat, c.toNat + 1] else []

/-- The registers of a typed position. -/
def tyRegs (ty : BitVec 4) (c : BitVec 8) : List Nat := if wide ty then pairRegs c else wordRegs c

/-- The registers of a range. -/
def rangeRegs (c : BitVec 8) (n : Nat) : List Nat := if isReg c then (List.range n).map (c.toNat + ·) else []

/-- The predicate of a predicate position. -/
def predRegs (c : BitVec 8) : List Nat := if c.toNat < 8 then [c.toNat] else []

/-- The data registers of a load or store (R62). -/
def transferRegs (o : MF) : List Nat :=
  if o.wid = 4 then pairRegs o.t else if o.wid = 5 then rangeRegs o.t 4 else wordRegs o.t

/-- The registers of a queue entry operand, for a ring of that entry size (R148): a range of four for 16-byte entries, else a
pair where the code can be one. -/
def entryRegs (size : Nat) (c : BitVec 8) : List Nat :=
  if size = 16 then (if rangeCode c 4 4 then rangeRegs c 4 else wordRegs c)
  else if even c then pairRegs c else wordRegs c

/-- The registers and predicates of each instruction, besides its guard. `rd` reads a word source (for `pwr`, whose mask
selects the predicates it writes, R111) and `ring` gives the entry size of a queue (R148). -/
def Instr.uses (rd : BitVec 8 → Word) (ring : Nat → Nat) : Instr → Uses
  | .add _ o => { src := tyRegs o.ty o.a ++ tyRegs o.ty o.b, dst := tyRegs o.ty o.d }
  | .sub _ o => { src := tyRegs o.ty o.a ++ tyRegs o.ty o.b, dst := tyRegs o.ty o.d }
  | .addc _ o => { src := tyRegs o.ty o.a ++ tyRegs o.ty o.b, dst := tyRegs o.ty o.d, psrc := [(o.mod.extractLsb' 3 3).toNat], pdst := [(o.mod.extractLsb' 0 3).toNat] }
  | .subb _ o => { src := tyRegs o.ty o.a ++ tyRegs o.ty o.b, dst := tyRegs o.ty o.d, psrc := [(o.mod.extractLsb' 3 3).toNat], pdst := [(o.mod.extractLsb' 0 3).toNat] }
  | .mul _ o => { src := tyRegs o.ty o.a ++ tyRegs o.ty o.b, dst := tyRegs o.ty o.d }
  | .mulhi _ o => { src := tyRegs o.ty o.a ++ tyRegs o.ty o.b, dst := tyRegs o.ty o.d }
  | .mulw _ o => { src := wordRegs o.a ++ wordRegs o.b, dst := pairRegs o.d }
  | .mad _ o => { src := tyRegs o.ty o.a ++ tyRegs o.ty o.b ++ tyRegs o.ty o.c, dst := tyRegs o.ty o.d }
  | .madw _ o => { src := wordRegs o.a ++ wordRegs o.b ++ pairRegs o.c, dst := pairRegs o.d }
  | .add3 _ o => { src := tyRegs o.ty o.a ++ tyRegs o.ty o.b ++ tyRegs o.ty o.c, dst := tyRegs o.ty o.d }
  | .min _ o => { src := tyRegs o.ty o.a ++ tyRegs o.ty o.b, dst := tyRegs o.ty o.d }
  | .max _ o => { src := tyRegs o.ty o.a ++ tyRegs o.ty o.b, dst := tyRegs o.ty o.d }
  | .abs _ o => { src := tyRegs o.ty o.a, dst := tyRegs o.ty o.d }
  | .neg _ o => { src := tyRegs o.ty o.a, dst := tyRegs o.ty o.d }
  | .and _ o => { src := tyRegs o.ty o.a ++ tyRegs o.ty o.b, dst := tyRegs o.ty o.d }
  | .or _ o => { src := tyRegs o.ty o.a ++ tyRegs o.ty o.b, dst := tyRegs o.ty o.d }
  | .xor _ o => { src := tyRegs o.ty o.a ++ tyRegs o.ty o.b, dst := tyRegs o.ty o.d }
  | .not _ o => { src := tyRegs o.ty o.a, dst := tyRegs o.ty o.d }
  | .andn _ o => { src := tyRegs o.ty o.a ++ tyRegs o.ty o.b, dst := tyRegs o.ty o.d }
  | .shl _ o => { src := tyRegs o.ty o.a ++ wordRegs o.b, dst := tyRegs o.ty o.d }
  | .shr _ o => { src := tyRegs o.ty o.a ++ wordRegs o.b, dst := tyRegs o.ty o.d }
  | .sar _ o => { src := tyRegs o.ty o.a ++ wordRegs o.b, dst := tyRegs o.ty o.d }
  | .rot _ o => { src := tyRegs o.ty o.a ++ wordRegs o.b, dst := tyRegs o.ty o.d }
  | .bfx _ o => { src := tyRegs o.ty o.a ++ wordRegs o.b, dst := tyRegs o.ty o.d }
  | .bfi _ o => { src := tyRegs o.ty o.a ++ wordRegs o.b ++ tyRegs o.ty o.c, dst := tyRegs o.ty o.d }
  | .clz _ o => { src := tyRegs o.ty o.a, dst := wordRegs o.d }
  | .popc _ o => { src := tyRegs o.ty o.a, dst := wordRegs o.d }
  | .brev _ o => { src := tyRegs o.ty o.a, dst := tyRegs o.ty o.d }
  | .bpick _ o => { src := wordRegs o.a ++ wordRegs o.b ++ wordRegs o.c, dst := wordRegs o.d }
  | .lea _ o => { src := pairRegs o.a ++ wordRegs o.b, dst := pairRegs o.d }
  | .dp4 _ o => { src := wordRegs o.a ++ wordRegs o.b ++ wordRegs o.c, dst := wordRegs o.d }
  | .addi _ o => { src := wordRegs o.a, dst := wordRegs o.d }
  | .muli _ o => { src := wordRegs o.a, dst := wordRegs o.d }
  | .andi _ o => { src := wordRegs o.a, dst := wordRegs o.d }
  | .ori _ o => { src := wordRegs o.a, dst := wordRegs o.d }
  | .xori _ o => { src := wordRegs o.a, dst := wordRegs o.d }
  | .shli _ o => { src := wordRegs o.a, dst := wordRegs o.d }
  | .shri _ o => { src := wordRegs o.a, dst := wordRegs o.d }
  | .sari _ o => { src := wordRegs o.a, dst := wordRegs o.d }
  | .cmpi _ o => { src := wordRegs o.a, pdst := predRegs o.d }
  | .fadd _ o => { src := wordRegs o.a ++ wordRegs o.b, dst := wordRegs o.d }
  | .fsub _ o => { src := wordRegs o.a ++ wordRegs o.b, dst := wordRegs o.d }
  | .fmul _ o => { src := wordRegs o.a ++ wordRegs o.b, dst := wordRegs o.d }
  | .ffma _ o => { src := wordRegs o.a ++ wordRegs o.b ++ wordRegs o.c, dst := wordRegs o.d }
  | .fmin _ o => { src := wordRegs o.a ++ wordRegs o.b, dst := wordRegs o.d }
  | .fmax _ o => { src := wordRegs o.a ++ wordRegs o.b, dst := wordRegs o.d }
  | .fdiv _ o => { src := wordRegs o.a ++ wordRegs o.b, dst := wordRegs o.d }
  | .fsqrt _ o => { src := wordRegs o.a, dst := wordRegs o.d }
  | .frcp _ o => { src := wordRegs o.a, dst := wordRegs o.d }
  | .frsq _ o => { src := wordRegs o.a, dst := wordRegs o.d }
  | .fexp2 _ o => { src := wordRegs o.a, dst := wordRegs o.d }
  | .flog2 _ o => { src := wordRegs o.a, dst := wordRegs o.d }
  | .fsinpi _ o => { src := wordRegs o.a, dst := wordRegs o.d }
  | .fcospi _ o => { src := wordRegs o.a, dst := wordRegs o.d }
  | .ftanh _ o => { src := wordRegs o.a, dst := wordRegs o.d }
  | .frnd _ o => { src := wordRegs o.a, dst := wordRegs o.d }
  | .fscl _ o => { src := wordRegs o.a ++ wordRegs o.b, dst := wordRegs o.d }
  | .fcmp _ o => { src := wordRegs o.a ++ wordRegs o.b, psrc := predRegs o.c, pdst := predRegs o.d }
  | .fclass _ o => { src := wordRegs o.a, dst := wordRegs o.d }
  | .hadd2 _ o => { src := wordRegs o.a ++ wordRegs o.b, dst := wordRegs o.d }
  | .hmul2 _ o => { src := wordRegs o.a ++ wordRegs o.b, dst := wordRegs o.d }
  | .hfma2 _ o => { src := wordRegs o.a ++ wordRegs o.b ++ wordRegs o.c, dst := wordRegs o.d }
  | .hmin2 _ o => { src := wordRegs o.a ++ wordRegs o.b, dst := wordRegs o.d }
  | .hmax2 _ o => { src := wordRegs o.a ++ wordRegs o.b, dst := wordRegs o.d }
  | .fdot2 _ o => { src := wordRegs o.a ++ wordRegs o.b ++ wordRegs o.c, dst := wordRegs o.d }
  | .fcvt _ o => { src := wordRegs o.a, dst := wordRegs o.d }
  | .i2f _ o => { src := tyRegs o.ty o.a, dst := wordRegs o.d }
  | .f2i _ o => { src := wordRegs o.a, dst := tyRegs o.ty o.d }
  | .fpk _ o => { src := wordRegs o.a ++ wordRegs o.b ++ wordRegs o.c, dst := wordRegs o.d }
  | .fupk _ o => { src := wordRegs o.a, dst := wordRegs o.d }
  | .faddk _ o => { src := wordRegs o.d, dst := wordRegs o.d }
  | .fmulk _ o => { src := wordRegs o.d, dst := wordRegs o.d }
  | .mov _ o => { src := tyRegs o.ty o.a, dst := tyRegs o.ty o.d }
  | .movk _ o => { dst := if o.km = 0 then wordRegs o.d else if o.km = 3 then (pairRegs o.d).drop 1 else pairRegs o.d }
  | .sel _ o => { src := tyRegs o.ty o.a ++ tyRegs o.ty o.b, dst := tyRegs o.ty o.d, psrc := predRegs o.c }
  | .cmp _ o => { src := tyRegs o.ty o.a ++ tyRegs o.ty o.b, psrc := predRegs o.c, pdst := predRegs o.d }
  | .pand _ o => { psrc := predRegs o.a ++ predRegs o.b, pdst := predRegs o.d }
  | .por _ o => { psrc := predRegs o.a ++ predRegs o.b, pdst := predRegs o.d }
  | .pxor _ o => { psrc := predRegs o.a ++ predRegs o.b, pdst := predRegs o.d }
  | .pnot _ o => { psrc := predRegs o.a, pdst := predRegs o.d }
  | .prd _ o => { dst := wordRegs o.d, psrc := [0, 1, 2, 3, 4, 5, 6] }
  | .pwr _ o => { src := wordRegs o.a ++ wordRegs o.b, pdst := (List.range 7).filter fun i => (rd o.b).getLsbD i }
  | .rds _ o => { dst := wordRegs o.d }
  | .wrs _ o => { src := wordRegs o.a }
  | .ddx _ o => { src := wordRegs o.a, dst := wordRegs o.d }
  | .ddy _ o => { src := wordRegs o.a, dst := wordRegs o.d }
  | .qswz _ o => { src := wordRegs o.a, dst := wordRegs o.d }
  | .ld _ o => { src := pairRegs o.a ++ (if o.indexed then wordRegs o.b else []), dst := transferRegs o }
  | .ldro _ o => { src := pairRegs o.a ++ (if o.indexed then wordRegs o.b else []), dst := transferRegs o }
  | .ldw _ o => { src := pairRegs o.a ++ (if o.indexed then wordRegs o.b else []), dst := transferRegs o }
  | .st _ o => { src := pairRegs o.a ++ (if o.indexed then wordRegs o.b else []) ++ transferRegs o }
  | .pref _ o => { src := pairRegs o.a ++ (if o.indexed then wordRegs o.b else []) }
  | .fence _ o => { src := pairRegs o.a ++ (if o.indexed then wordRegs o.b else []) }
  | .wbr _ o => { src := pairRegs o.a ++ wordRegs o.b }
  | .invr _ o => { src := pairRegs o.a ++ wordRegs o.b }
  | .atom _ o => { src := pairRegs o.a ++ (if atomWide o.fn then pairRegs o.b else wordRegs o.b), dst := if atomWide o.fn then pairRegs o.d else wordRegs o.d }
  | .cas _ o => { src := pairRegs o.a ++ (if atomWide o.fn then pairRegs o.b else wordRegs o.b) ++ (if atomWide o.fn then pairRegs o.c else wordRegs o.c), dst := if atomWide o.fn then pairRegs o.d else wordRegs o.d }
  | .red _ o => { src := pairRegs o.a ++ (if atomWide o.fn then pairRegs o.b else wordRegs o.b) }
  | .xadd _ o => { src := pairRegs o.a ++ wordRegs o.b }
  | .xrd _ o => { src := pairRegs o.a, dst := wordRegs o.d }
  | .append _ o => { src := pairRegs o.a ++ rangeRegs o.b o.fn.toNat, dst := wordRegs o.d }
  | .seal _ o => { src := pairRegs o.a }
  | .inkfree _ o => { src := pairRegs o.a }
  | .inkstat _ o => { src := pairRegs o.a, dst := rangeRegs o.d 4 }
  | .tcom _ o => { pdst := predRegs o.d }
  | .qpush _ o => { src := entryRegs (ring (o.fn.extractLsb' 0 4).toNat) o.a }
  | .qpop _ o => { dst := entryRegs (ring (o.fn.extractLsb' 0 4).toNat) o.d }
  | .qtry _ o => { src := entryRegs (ring (o.fn.extractLsb' 0 4).toNat) o.a, dst := entryRegs (ring (o.fn.extractLsb' 0 4).toNat) o.d, pdst := predRegs o.c }
  | .barr _ o => { src := wordRegs o.b }
  | .bwait _ o => { src := wordRegs o.a, pdst := predRegs o.d }
  | .barrw _ o => { pdst := predRegs o.d }
  | .bcfg _ o => { src := wordRegs o.a }
  | .mbarr _ o => { src := pairRegs o.a ++ wordRegs o.b }
  | .mbwait _ o => { src := pairRegs o.a ++ wordRegs o.b }
  | .cvarm _ o => { src := pairRegs o.a ++ wordRegs o.b }
  | .sign _ _ => { }
  | .spawn _ o => { src := pairRegs o.a ++ (if isReg o.b then rangeRegs o.b 4 else []) }
  | .exit _ _ => { }
  | .refill _ o => { pdst := predRegs o.d }
  | .blkget _ _ => { }
  | .blkput _ _ => { }
  | .yield _ _ => { }
  | .nap _ o => { src := wordRegs o.a }
  | .sbw _ _ => { }
  | .sfld _ o => { src := wordRegs o.a ++ rangeRegs o.b 4, dst := rangeRegs o.d (nch o.fn) }
  | .sfst _ o => { src := wordRegs o.a ++ rangeRegs o.b 4 ++ rangeRegs o.c (nch o.fn) }
  | .sfatom _ o => { src := wordRegs o.a ++ rangeRegs o.b 4 ++ (if (o.fn.extractLsb' 7 4).toNat = 7 then rangeRegs o.c 2 else wordRegs o.c), dst := wordRegs o.d }
  | .sffence _ _ => { }
  | .tex _ o => { src := wordRegs o.a ++ rangeRegs o.b 4, dst := rangeRegs o.d (texNch o.fn) }
  | .texg _ o => { src := wordRegs o.a ++ rangeRegs o.b 4, dst := rangeRegs o.d 4 }
  | .texq _ o => { src := wordRegs o.a, dst := rangeRegs o.d 4 }
  | .pemit _ o => { src := rangeRegs o.a (3 * (4 + (o.fn.extractLsb' 0 4).toNat)) ++ wordRegs o.c }
  | .pxout _ o => { src := if o.fn.getLsbD 3 then wordRegs o.a else rangeRegs o.a 4 }
  | .pxkill _ _ => { }
  | .pxord _ _ => { }
  | .trace _ o => { src := pairRegs o.a, dst := rangeRegs o.d 5 }
  | .tcont _ o => { src := pairRegs o.a ++ rangeRegs o.b 5, dst := rangeRegs o.d 5 }
  | .neval _ o => { src := rangeRegs o.a (nin o.fn) ++ wordRegs o.b, dst := rangeRegs o.d (nout o.fn) ++ wordRegs o.c }
  | .nflush _ _ => { }
  | .rstat _ o => { src := pairRegs o.a, dst := wordRegs o.d }
  | .mma _ o => { src := pairRegs o.a }
  | .accz _ o => { src := wordRegs o.a }
  | .accld _ o => { src := pairRegs o.a ++ wordRegs o.b }
  | .accst _ o => { src := pairRegs o.a ++ wordRegs o.b ++ pairRegs o.c }
  | .copy _ o => { src := pairRegs o.a }
  | .gred _ o => { src := pairRegs o.a ++ wordRegs o.b ++ pairRegs o.c }
  | .bra _ _ => { }
  | .brx _ o => { src := pairRegs o.l }
  | .call _ _ => { }
  | .callx _ o => { src := pairRegs o.l }
  | .ret _ _ => { }
  | .trap _ o => { src := wordRegs o.a }
  | .tret _ o => { src := pairRegs o.a }
  | .brk _ _ => { }
  | .nop _ _ => { }
  | .tinfo _ o => { dst := if o.fn = 1 then wordRegs o.d else pairRegs o.d }
  | .rdtime _ o => { dst := pairRegs o.d }
  | .rdctr _ o => { dst := pairRegs o.d }
  | .unlistedOpcodeIssue _ => { }
  | .strokeFormation _ _ _ => { }
  | .destinationWritten _ => { }
  | .blockingInstructionComplete _ => { }
  | .deferredFaultFound _ => { }
  | .deferredFaultDelivery _ => { }
  | .trapHandlerEntry _ => { }
  | .napExpiry _ => { }
  | .blkgetServed _ _ _ => { }
  | .queueWaiterServed _ _ => { }
  | .binTimerExpiry _ _ _ => { }
  | .teamRetirement _ => { }
  | .mmaCompletion _ => { }
  | .accldCompletion _ => { }
  | .accstCompletion _ => { }
  | .engineFailure _ => { }
  | .gatherWindowExpiry _ => { }
  | .tileResultScatter _ => { }
  | .traversalCompletion _ _ => { }
  | .copyChunkComplete _ _ => { }
  | .copyCompletion _ => { }
  | .copyChunkFailure _ _ => { }
  | .copyReplay _ _ => { }
  | .copyCancel _ _ => { }
  | .gredCommandAccept _ => { }
  | .reduceSubcommand _ _ => { }
  | .reduceSegmentEnd _ => { }
  | .gredResultWrite _ => { }
  | .gredCommandFailure _ => { }
  | .emptyLineTimeout _ => { }
  | .ldwTimeout _ => { }
  | .appendRequestAtHome _ => { }
  | .appendDataPerformed _ => { }
  | .appendDataLost _ => { }
  | .sealRequestAtHome _ => { }
  | .inkRetirement _ _ => { }
  | .retirementAcknowledgement _ _ _ => { }
  | .replicaGrantRequest _ _ _ _ => { }
  | .replicaDrop _ => { }
  | .replicaClear _ _ _ => { }
  | .inkRegionCreate _ _ _ => { }
  | .inkRegionDestroy _ _ => { }
  | .persistentRequest _ _ _ => { }
  | .recall _ => { }
  | .eviction _ _ => { }
  | .pageFaultRecordDelayed _ => { }
  | .tfrespResolved _ _ _ => { }
  | .tfrespUnresolvable _ _ _ => { }
  | .tinvctlCommand _ => { }
  | .tinvComplete => { }
  | .surfaceEntryValid _ _ _ => { }
  | .surfaceEntryInvalidate _ _ => { }
  | .blotterSpill _ _ _ => { }
  | .tileRefill _ _ _ => { }
  | .setupAccept _ => { }
  | .primitiveForward _ _ => { }
  | .rasterize _ _ => { }
  | .nibUnitAct _ => { }
  | .drawCompletion _ => { }
  | .queueEnable _ _ => { }
  | .queueDisable _ => { }
  | .tailWrite _ _ _ => { }
  | .recordExamine _ => { }
  | .waitEventMet _ _ => { }
  | .launchDispatch _ => { }
  | .teamPlacement _ _ _ _ => { }
  | .cohortPlacement _ => { }
  | .preemption _ => { }
  | .weightload _ => { }
  | .launchCompletionSignal _ => { }
  | .contextCreate _ _ => { }
  | .contextDestroy _ => { }
  | .hfrespResume _ _ => { }
  | .threadPark _ => { }
  | .deadlineExpiry _ => { }
  | .teamSave _ => { }
  | .teamRestore _ => { }
  | .sliceEnd => { }
  | .ctrCommandDone => { }
  | .registerWrite _ _ _ => { }
  | .faultRecordPostDelayed _ => { }
  | .hostAccess _ _ _ => { }
  | .moduleReset => { }
  | .powerRemoval => { }
  | .escalationRecordDelayed _ => { }
  | .hfrespTerminateThread _ _ => { }
  | .hfrespTerminateLaunch _ _ => { }
  | .ctrcmdLoad _ => { }
  | .ctrcmdStore _ => { }
  | .uncorrectableError _ => { }
  | .patrolScrub _ _ _ => { }
  | .coreControlError _ _ => { }
  | .columnControlError _ => { }
  | .cxlTimeout _ => { }
  | .flitCrcFail _ => { }
  | .peerAccess _ _ _ => { }
  | .peerTimeout _ => { }
  | .imageWrite _ _ => { }
  | .attestationRequest _ => { }
  | .errorLogRead _ => { }
  | .correctionCountRead _ => { }
  | .powerCap _ => { }
  | .powerWindow _ => { }
  | .thermalThrottle _ _ => { }
  | .thermalShutdown _ _ => { }
  | .peerRoutesDownTimeout _ => { }
  | .peerRetirementRequest _ _ => { }
  | .inkpoolDisable _ _ => { }
  | .inkpoolEnable _ _ => { }
  | .matrixSelfTest _ _ _ _ => { }
  | .matrixEngineHang _ _ => { }
  | .migrationEpochEnd _ _ => { }
  | .contextFieldWrite _ _ => { }
  | .surfaceEntryClear _ _ _ => { }

/-! ## What a source reads -/

/-- The pattern of an inline constant (R28). -/
def constPattern (c : BitVec 8) : Word :=
  match c.toNat with
  | 0xE0 => 0x00000000 | 0xE1 => 0x00000001 | 0xE2 => 0x00000002 | 0xE3 => 0x00000004
  | 0xE4 => 0xFFFFFFFF | 0xE5 => 0x80000000 | 0xE6 => 0x3F000000 | 0xE7 => 0x3F800000
  | 0xE8 => 0x40000000 | 0xE9 => 0xBF800000 | 0xEA => 0x3E800000 | 0xEB => 0x40800000
  | 0xEC => 0x7F800000 | 0xED => 0x7FC00000 | 0xEE => 0x7F7FFFFF | 0xEF => 0x7FFFFFFF
  | _ => 0

/-- The value that reads where a read-only value does not apply (R27). -/
def notApplicable : Word := 0xFFFFFFFF

/-- The stack area base, W + S (R25). -/
def Thread.stackBase (th : Thread) : DWord := th.window + BitVec.ofNat 64 th.spillSize

/-- The read-only values (R27). -/
def readOnly (s : State) (th : Thread) (code : Nat) : Word :=
  let tm := s.team? th.team
  let ofTeam (f : Team → Nat) : Word := match tm with | some t => BitVec.ofNat 32 (f t) | none => notApplicable
  match code with
  | 0xC0 => th.tid
  | 0xC1 => ofTeam Team.size
  | 0xC2 => th.tx
  | 0xC3 => th.ty
  | 0xC4 => th.tz
  | 0xC5 => ofTeam (·.grid.1)
  | 0xC6 => ofTeam (·.grid.2.1)
  | 0xC7 => ofTeam (·.grid.2.2)
  | 0xC8 => BitVec.ofNat 32 th.lane
  | 0xC9 => BitVec.ofNat 32 (th.lane / 32)
  | 0xCA => BitVec.ofNat 32 th.core
  | 0xCB => BitVec.ofNat 32 th.col
  | 0xCC => match th.quad with | some q => BitVec.ofNat 32 q | none => notApplicable
  | 0xCD => if th.helper then 1 else 0
  | 0xCE => th.px
  | 0xCF => th.py
  | 0xD0 => th.prim
  | 0xD1 => th.seq
  | 0xD2 => th.item
  | 0xD3 => th.nbin
  | 0xD4 => BitVec.ofNat 32 th.ctx
  | 0xD5 => BitVec.ofNat 32 (s.context th.ctx).func
  | 0xD6 => th.stackBase.extractLsb' 0 32
  | 0xD7 => th.stackBase.extractLsb' 32 32
  | _ => 0

/-- The uniform register `k n` of the thread's team (R22). -/
def uniform (s : State) (th : Thread) (n : Nat) : Word :=
  match s.team? th.team with
  | some t => cellRead n t.ks
  | none => 0

/-- A word source (R26 to R28). -/
def srcWord (s : State) (th : Thread) (c : BitVec 8) : Word :=
  let n := c.toNat
  if n < 0x80 then th.reg n
  else if n < 0xC0 then uniform s th (n - 0x80)
  else if n < 0xE0 then readOnly s th n
  else constPattern c

/-- A 64-bit source; an inline constant is zero-extended (R18, R22, R27, R28). -/
def srcPair (s : State) (th : Thread) (c : BitVec 8) : DWord :=
  let n := c.toNat
  if n < 0x80 then th.pair n
  else if n < 0xC0 then uniform s th (n - 0x80 + 1) ++ uniform s th (n - 0x80)
  else if n = 0xD6 then th.stackBase
  else if n < 0xE0 then (readOnly s th n).zeroExtend 64
  else (constPattern c).zeroExtend 64

/-- A typed source as 64 bits: a 64-bit source for the wide types, with an inline constant sign-extended for `i64`, else a
word zero-extended (R28, R79). -/
def srcTyped (s : State) (th : Thread) (ty : BitVec 4) (c : BitVec 8) : DWord :=
  if wide ty then
    (if ty = 2 && 0xE0 ≤ c.toNat && c.toNat < 0xF0 then (constPattern c).signExtend 64 else srcPair s th c)
  else (srcWord s th c).zeroExtend 64

/-- The half-format code of the value constants 0xE6 to 0xEE (R28). -/
def halfConst (f : Fmt) (c : BitVec 8) : Nat :=
  if c = 0xED then f.nanCode
  else if c = 0xEE then f.maxCode
  else roundVal f 0 (unpack .f32 (constPattern c).toNat)

/-- A packed half source: a value constant supplies itself to both halves (R28). -/
def srcHalves (s : State) (th : Thread) (f : Fmt) (c : BitVec 8) : Word :=
  if 0xE6 ≤ c.toNat && c.toNat ≤ 0xEE then BitVec.ofNat 32 (halfConst f c * 65536 + halfConst f c)
  else srcWord s th c

/-- A range of registers. -/
def srcRange (th : Thread) (c : BitVec 8) (n : Nat) : List Word := (List.range n).map fun i => th.reg (c.toNat + i)

/-! ## Results -/

/-- The results of writing a word destination; 0xF0 discards (R26). -/
def dstWord (c : BitVec 8) (v : Word) : List Dest := if isReg c then [.reg c.toNat v] else []

/-- The results of writing a pair destination (R18, R26). -/
def dstPair (c : BitVec 8) (v : DWord) : List Dest :=
  if isReg c then [.reg c.toNat (v.extractLsb' 0 32), .reg (c.toNat + 1) (v.extractLsb' 32 32)] else []

/-- The results of writing a typed destination (R79). -/
def dstTyped (ty : BitVec 4) (c : BitVec 8) (v : DWord) : List Dest :=
  if wide ty then dstPair c v else dstWord c (v.extractLsb' 0 32)

/-- The result of writing a predicate; p7 discards (R21). -/
def dstPred (c : BitVec 8) (b : Bool) : List Dest := if c.toNat < 7 then [.pred c.toNat b] else []

end Sys2Proof.Machine
end

