-- ==== Sys2Proof/Machine/Memory.lean ====
section
/-! DEFINITION. Physical memory and the copies of its lines (R226, R227, R234 to R238, R344): reads and writes at a line's
home, ownership, recall and write-back, poison marks, and the rings that the device posts records to (R371). -/

namespace Sys2Proof.Machine

/-! ## Bytes -/

/-- `n` bytes from an address of a byte storage on. -/
def readBytes (m : Cells 8) (a : Nat) : Nat → List Byte
  | 0 => []
  | n + 1 => cellRead a m :: readBytes m (a + 1) n

/-- Writing bytes from an address on. -/
def writeBytes (m : Cells 8) : Nat → List Byte → Cells 8
  | _, [] => m
  | a, b :: bs => writeBytes (cellWrite a b m) (a + 1) bs

/-- Replacing bytes of a list from an index on. -/
def patch : List Byte → Nat → List Byte → List Byte
  | [], _, _ => []
  | x :: xs, _, [] => x :: xs
  | _ :: xs, 0, b :: bs => b :: patch xs 0 bs
  | x :: xs, i + 1, bs => x :: patch xs i bs

/-- The mask of `n` bits from bit `i` on. -/
def maskBits (i n : Nat) : Nat := (2 ^ n - 1) * 2 ^ i

/-! ## The address space (R344) -/

/-- Bytes of HBM on each column's stack (R344). -/
def hbmSize : Nat := 48000000000

/-- Bytes of the second tier (R344). -/
def tierSize : Nat := 6144000000000

/-- The region of a physical address: bits [51:44]. -/
def regionOf (pa : Nat) : Nat := pa / 2 ^ 44 % 256

/-- The home column of a physical address, but for a page with SHARE COLUMN (R226). -/
def homeColumn (pa : Nat) : Nat := if regionOf pa = 0 then pa / 2 ^ 37 % 32 else pa / 2 ^ 16 % 32

/-- The home slice of a physical address in its home column (R226). -/
def homeSlice (pa : Nat) : Nat := pa / 2 ^ 7 % 16

/-! ## Copies and the home -/

/-- A copy of the line in a column. -/
def State.copy? (s : State) (col line : Nat) : Option LineCopy :=
  s.caches.copies.find? fun c => c.col = col && c.line = line

/-- The owner's copy of a line. -/
def State.owner? (s : State) (line : Nat) : Option LineCopy := s.caches.copies.find? fun c => c.line = line && c.owned

/-- Dropping a column's copy of a line, and with it the line's scope record (R239). -/
def State.dropCopy (s : State) (col line : Nat) : State :=
  { s with caches := { s.caches with
      copies := s.caches.copies.filter fun c => !(c.col = col && c.line = line)
      scopes := s.caches.scopes.filter fun r => !(r.col = col && r.line = line) } }

/-- Placing a copy of a line in a column, in place of the one it holds. -/
def State.putCopy (s : State) (c : LineCopy) : State :=
  { s with caches := { s.caches with
      copies := c :: s.caches.copies.filter fun d => !(d.col = c.col && d.line = c.line) } }

/-- The dirty bytes of a copy merged into the bytes of memory (R238). -/
def mergeDirty (m : Memory) (a : Nat) (dirty : Nat) : List Byte → Memory
  | [] => m
  | b :: bs => mergeDirty (if dirty.testBit 0 then cellWrite (w := 8) a b m else m) (a + 1) (dirty / 2) bs

/-- The dirty bytes of a sector of a copy, as a mask of 32 bits. -/
def LineCopy.dirtyOf (c : LineCopy) (k : Nat) : Nat := c.dirty / 2 ^ (32 * k) % 2 ^ 32

/-- The marks at home of a line's sectors once a copy's dirty bytes are merged: the copy's mark goes with a sector that is dirty
throughout, and joins the home's where part of it is dirty (R405). -/
def mergeMarks (poison : List Nat) (c : LineCopy) : List Nat :=
  let marked (k : Nat) : Bool := c.dirtyOf k ≠ 0 && c.poison.testBit k
  let clear (k : Nat) : Bool := c.dirtyOf k = 2 ^ 32 - 1 && !c.poison.testBit k
  poison.filter (fun n => !(n / 4 = c.line && clear (n % 4))) ++
    ((List.range 4).filter fun k => marked k && !poison.contains (4 * c.line + k)).map (4 * c.line + ·)

/-- Writing back a copy's dirty bytes, with their marks; the copy leaves the column (R234, R405). -/
def State.writeBack (s : State) (c : LineCopy) : State :=
  ({ s with mem := mergeDirty s.mem (c.line * 128) c.dirty c.bytes, poison := mergeMarks s.poison c }).dropCopy c.col c.line

/-- The sectors of a line that a range within it covers whole, as a mask. -/
def wholeSectors (off n : Nat) : Nat :=
  (List.range 4).foldl (fun m k => if off ≤ 32 * k && 32 * k + 32 ≤ off + n then m + 2 ^ k else m) 0

/-- Bytes written into a copy: a sector written whole loses its mark (R405). -/
def LineCopy.patch (c : LineCopy) (off : Nat) (bytes : List Byte) : LineCopy :=
  { c with bytes := Machine.patch c.bytes off bytes, poison := c.poison &&& (15 - wholeSectors off bytes.length) }

/-- Bytes written into a copy that become dirty (R235, R238). -/
def LineCopy.soil (c : LineCopy) (off : Nat) (bytes : List Byte) : LineCopy :=
  { c.patch off bytes with dirty := c.dirty ||| maskBits off bytes.length }

/-- Some sector of a copy that the range touches is marked. -/
def LineCopy.marked (c : LineCopy) (off n : Nat) : Bool :=
  (List.range 4).any fun k => c.poison.testBit k && 32 * k < off + n && off < 32 * k + 32

/-- A write at the homes that covers a whole sector clears its mark; a partial write keeps it (R405). -/
def State.clearPoison (s : State) (pa n : Nat) : State :=
  { s with poison := s.poison.filter fun k => !(pa ≤ k * 32 && k * 32 + 32 ≤ pa + n) }

/-- The release count of a column for a context (R235). -/
def State.epoch (s : State) (col ctx : Nat) : Nat :=
  ((s.caches.epochs.find? fun e => e.col = col && e.ctx = ctx).map Epoch.count).getD 0

/-- A release of scope PACKAGE or SYSTEM raises the column's count by one (R235). -/
def State.countRelease (s : State) (col ctx : Nat) : State :=
  { s with caches := { s.caches with
      epochs := ⟨col, ctx, s.epoch col ctx + 1⟩ :: s.caches.epochs.filter fun e => !(e.col = col && e.ctx = ctx) } }

/-- The dirty owned lines of a column and context that were dirtied before its latest release go back to their homes (R235). -/
def State.flushOlder (s : State) (col ctx : Nat) : State :=
  (s.caches.copies.filter fun c => c.col = col && c.ctx = ctx && c.owned && c.dirty ≠ 0 && decide (c.stamp < s.epoch col ctx)).foldl
    (fun t c => t.writeBack c) s

/-- Atomic groups that hold a token of the line and belong to another thread lose it (R242). -/
def State.breakGroups (s : State) (tid line : Nat) : State :=
  { s with threads := s.threads.map fun t =>
      match t.group with
      | some g => if t.id ≠ tid && g.lines.contains line then { t with group := some { g with aborted := true } } else t
      | none => t }

/-- A recall of a line from its owner: the line goes back to its home whatever its stamp, and the owner's older dirty lines
with it (R235); groups of the line abort (R242). A recall for the owner's own column leaves the scope records there (R239). -/
def State.recall (s : State) (tid line : Nat) : State :=
  match s.owner? line with
  | none => s
  | some c =>
    let t := ((s.writeBack c).flushOlder c.col c.ctx).breakGroups tid line
    if s.threads.any fun u => u.id = tid && u.col = c.col then { t with caches := { t.caches with scopes := s.caches.scopes } } else t

/-- The home's bytes of a range that lies within one line, after a recall of its owner (R234). -/
def State.homeRead (s : State) (tid pa n : Nat) : List Byte × State :=
  let t := s.recall tid (pa / 128)
  (readBytes t.mem pa n, t)

/-- Clean untracked copies of a line in the home's own column follow the home; the line's scope record stays (R227, R238, R239). -/
def State.refreshHome (s : State) (line : Nat) : State :=
  { s with caches := { s.caches with
      copies := s.caches.copies.filter fun c => !(c.col = homeColumn (line * 128) && c.line = line) } }

/-- Writing bytes at the home of a line, after a recall of its owner; a sector written whole loses its mark (R405). -/
def State.homeWrite (s : State) (tid pa : Nat) (bytes : List Byte) : State :=
  let t := ((s.recall tid (pa / 128)).refreshHome (pa / 128)).breakGroups tid (pa / 128)
  ({ t with mem := writeBytes t.mem pa bytes }).clearPoison pa bytes.length

/-- Reading any range at the homes of its lines, byte range by line. `k` bounds the number of lines. -/
def State.homeReads (s : State) (tid : Nat) : Nat → Nat → Nat → List Byte × State
  | 0, _, _ => ([], s)
  | k + 1, pa, n =>
    if n = 0 then ([], s)
    else
      let m := min n (128 - pa % 128)
      let (b, t) := s.homeRead tid pa m
      let (r, u) := t.homeReads tid k (pa + m) (n - m)
      (b ++ r, u)

/-- Writing any range at the homes of its lines. -/
def State.homeWrites (s : State) (tid : Nat) : Nat → Nat → List Byte → State
  | 0, _, _ => s
  | k + 1, pa, bytes =>
    if bytes.isEmpty then s
    else
      let m := 128 - pa % 128
      (s.homeWrite tid pa (bytes.take m)).homeWrites tid k (pa + m) (bytes.drop m)

/-- The lines of a range that other columns than `col` own are recalled, for a read by an agent of `col` (R234, R235). -/
def State.recallFor (s : State) (col pa n : Nat) : State :=
  ((List.range ((pa + n + 127) / 128 - pa / 128)).map (pa / 128 + ·)).foldl (fun t line =>
    match t.owner? line with
    | some c => if c.col = col then t else t.recall t.nextId line
    | none => t) s

/-- What the home would read, without a recall's effect: the current bytes of a range (the owner's copy, else memory). -/
def State.peek (s : State) (pa n : Nat) : List Byte :=
  (List.range n).map fun i =>
    match s.owner? ((pa + i) / 128) with
    | some c => c.bytes.getD ((pa + i) % 128) 0
    | none => cellRead (w := 8) (pa + i) s.mem

/-- A little-endian number of the current bytes. -/
def State.peekNat (s : State) (pa n : Nat) : Nat := leNat (s.peek pa n)

/-! ## Poison marks (R403, R405) -/

/-- The sectors that a range touches. -/
def sectorsOf (pa n : Nat) : List Nat := (List.range ((pa + n + 31) / 32 - pa / 32)).map (pa / 32 + ·)

/-- Some sector of the range is marked, in the owner's copy of a line that is owned, else at its home. -/
def State.poisoned (s : State) (pa n : Nat) : Bool :=
  (sectorsOf pa n).any fun k =>
    match s.owner? (k / 4) with
    | some c => c.poison.testBit (k % 4)
    | none => s.poison.contains k

/-- The marks of a line's sectors at its home, as a mask. -/
def State.lineMarks (s : State) (line : Nat) : Nat :=
  (List.range 4).foldl (fun m k => if s.poison.contains (4 * line + k) then m + 2 ^ k else m) 0

/-- Marking one sector: in a copy of its line, if one is given, else at the home. -/
def State.markSector (s : State) (c : Option LineCopy) (k : Nat) : State :=
  match c with
  | some c => s.putCopy { c with poison := c.poison ||| 2 ^ (k % 4) }
  | none => if s.poison.contains k then s else { s with poison := s.poison ++ [k] }

/-- Marking every sector that the range touches, where its current bytes are. -/
def State.markPoison (s : State) (pa n : Nat) : State :=
  (sectorsOf pa n).foldl (fun (t : State) k => t.markSector (t.owner? (k / 4)) k) s

/-- Zeros are written at the homes of a range: copies go, dirty bytes to the home first, and groups that hold a token of a line lose it
(R234, R235, R238, R242). -/
def State.homeZero (s : State) (pa n : Nat) : State :=
  let hit (line : Nat) : Bool := decide (line * 128 < pa + n) && decide (pa < line * 128 + 128)
  let s := (s.caches.copies.filter fun c => hit c.line).foldl (fun (s : State) c => s.writeBack c) s
  let s := ((s.threads.flatMap fun t => (t.group.map Group.lines).getD []).filter hit).foldl (fun s l => s.breakGroups s.nextId l) s
  ({ s with mem := cellClear (w := 8) pa n s.mem }).clearPoison pa n

/-! ## Free values and numbers -/

/-- A free value and the state after it was drawn (notes/assumptions/3.md). -/
def State.free (s : State) : DWord × State := (Config.freeValue s.fresh, { s with fresh := s.fresh + 1 })

/-- A number not yet given, and the state after it. -/
def State.newId (s : State) : Nat × State := (s.nextId, { s with nextId := s.nextId + 1 })

/-! ## The error log (R414) -/

/-- The package time in nanoseconds (R203). -/
def State.time (s : State) : Nat := 10 * s.now / 11

/-- An entry of the error log; the log holds the last 1,024 (R414). -/
def State.logError (s : State) (event col core unit cls : Nat) (addr : Nat) : State :=
  let e : BitVec 256 := BitVec.ofNat 256 (addr % 2 ^ 64 * 2 ^ 192 + s.time % 2 ^ 64 * 2 ^ 128 + event % 256 * 2 ^ 40 +
    col % 32 * 2 ^ 32 + core % 128 * 2 ^ 24 + unit % 16 * 2 ^ 20 + cls % 16 * 2 ^ 16)
  { s with platform := { s.platform with
      log := (s.platform.log ++ [e]).drop (s.platform.log.length + 1 - 1024), logCount := s.platform.logCount + 1 } }

/-! ## Counters (R415 to R417) -/

/-- The function a counter belongs to: its slice bank belongs to the holder of the time slice (R415, R418). -/
def State.bankOwner (s : State) (n : Nat) : Nat := if n < 32 then 0 else s.sched.holder

/-- The counter's bank is live: the slice bank while a virtual function holds the slice (R415). -/
def State.bankLive (s : State) (n : Nat) : Bool := n < 32 || s.sched.holder ≠ 0

/-- The counter counts an event of a context; a fabric event has none (R416). -/
def State.counts (s : State) (k : Counter) (event : Nat) (ctx : Option Nat) : Bool :=
  k.select.getLsbD 23 && field k.select 0 12 = event && s.bankLive k.n &&
    (event = 0x001 ||
      match ctx with
      | none => decide (k.n < 32)
      | some c => (s.context c).func = s.bankOwner k.n && (!k.select.getLsbD 22 || field k.select 16 6 = c))

/-- A counter after `n` events; a wrap sets OVF (R415, R417). -/
def Counter.bump (k : Counter) (n : Nat) : Counter :=
  { k with
    value := BitVec.ofNat 48 (k.value.toNat + n)
    select := if 2 ^ 48 ≤ k.value.toNat + n then k.select ||| 0x2000000 else k.select }

/-- A wrap with IE set and OVF clear raises the owner's overflow interrupt (R417). -/
def Counter.signals (k : Counter) (n : Nat) : Bool :=
  decide (2 ^ 48 ≤ k.value.toNat + n) && k.select.getLsbD 24 && !k.select.getLsbD 25

/-- `n` events in a column; an interrupt of a function whose entry 1 is masked stays pending (R417, notes/assumptions/76.md). -/
def State.count (s : State) (col event : Nat) (ctx : Option Nat) (n : Nat) : State :=
  let hit (k : Counter) : Bool := k.col = col && s.counts k event ctx
  let raised := (s.regs.counters.filter fun k => hit k && k.signals n).map fun k => s.bankOwner k.n
  if s.regs.counters.any hit then
    { s with regs := { s.regs with
        counters := s.regs.counters.map fun k => if hit k then k.bump n else k
        interrupts := s.regs.interrupts ++ raised.filter fun f => s.regs.unmasked.contains f
        pending := s.regs.pending ++ (raised.filter fun f => !s.regs.unmasked.contains f && !s.regs.pending.contains f).eraseDups } }
  else s

/-- Die-link flits, Puquin Link flits and CXL requests of a cycle: the spec states no number of them, so free values count, where a
counter selects them (R416; notes/assumptions/68.md). -/
def State.countFabric (s : State) : State :=
  [0x080, 0x081, 0x082].foldl (fun (s : State) e => (List.range 32).foldl (fun s c =>
    if s.regs.counters.any fun k => k.col = c && s.counts k e none then
      let (v, s) := s.free
      s.count c e none v.toNat
    else s) s) s

/-! ## Rings of records (R371) -/

/-- Room in the ring at that base: producer − consumer, modulo 2^32, is below 2^log. -/
def State.ringRoom (s : State) (base log : Nat) : Bool :=
  decide ((s.peekNat base 4 + 2 ^ 32 - s.peekNat (base + 8) 4) % 2 ^ 32 < 2 ^ log)

/-- Posting a record: the record first, then the producer count that covers it (R371). -/
def State.ringPost (s : State) (base log : Nat) (rec : List Byte) : State :=
  let p := s.peekNat base 4
  let a := base + 64 + rec.length * (p % 2 ^ log)
  (s.homeWrites s.nextId 8 a rec).homeWrite s.nextId base (leBytes 4 ((p + 1) % 2 ^ 32))

end Sys2Proof.Machine
end

