-- ==== Sys2Proof/Machine/Ops.lean ====
section
/-! DEFINITION. The shared operations: issuing an instruction (R17, R21, R24, R66 to R72, R405), fixed and leased results,
taking a trap and returning from one (R124, R164, R165, R375). -/

namespace Sys2Proof.Machine

/-! ## Scoreboard slots and leases (R24) -/

/-- Registers written by an operation that ends: flights to them go, and marks are set or cleared (R67, R405). -/
def Thread.land (th : Thread) (writes : List (Nat × Word)) (poison : Bool) : Thread :=
  let regs := writes.map (·.1)
  let th := writes.foldl (fun t w => t.setReg w.1 w.2)
    { th with flights := th.flights.filter fun f => match f.dest with | .reg n _ => !regs.contains n | .pred _ _ => true }
  if poison then { th with poisoned := th.poisoned ++ regs.filter fun n => !th.poisoned.contains n } else th

/-- The instructions of a thread in flight. -/
def State.opsOf (s : State) (tid : Nat) : List Op := s.ops.filter (·.tid = tid)

/-- Slot `j` of the thread is set. -/
def State.slotSet (s : State) (tid j : Nat) : Bool := s.ops.any fun o => o.tid = tid && o.slot = some j

/-- Every slot of the thread is clear. -/
def State.slotsClear (s : State) (tid : Nat) : Bool := !s.ops.any fun o => o.tid = tid && o.slot.isSome

/-- A register of the list is under lease. -/
def State.leased (s : State) (tid : Nat) (rs : List Nat) : Bool :=
  s.ops.any fun o => o.tid = tid && o.dst.any rs.contains

/-- Replacing an operation by its new record. -/
def State.setOp (s : State) (o : Op) : State := { s with ops := s.ops.map fun p => if p.id = o.id then o else p }

/-- Removing an operation: its leases end, its share of the slot is released, and so is a lock it held (R24, R186). -/
def State.dropOp (s : State) (id : Nat) : State :=
  { s with ops := s.ops.filter (·.id ≠ id), locks := s.locks.filter (·.owner ≠ id) }

/-- A surface write of the thread waits (R175). -/
def State.writesWait (s : State) (tid : Nat) : Bool :=
  s.ops.any fun o => o.tid = tid && (match o.stage with | .texel a => a.form = 1 || a.form = 2 | _ => false)

/-- The operation of that number. -/
def State.op? (s : State) (id : Nat) : Option Op := s.ops.find? (·.id = id)

/-! ## Where an instruction stands (R53, R72) -/

/-- The address of word `i` of a clause. -/
def Clause.addr (c : Clause) (i : Nat) : DWord := c.head + BitVec.ofNat 64 (8 + 8 * i)

/-- The address of the first word after the clause. -/
def Clause.after (c : Clause) : DWord := c.addr c.words.length

/-- The header's fields. -/
def Clause.hdr (c : Clause) : ClauseHeader := headerOf c.header

/-- The address of the word being issued. -/
def Issue.pc (c : Issue) : DWord := c.clause.addr c.idx

/-- The index of the next word to issue: a mask word is passed over, and one with undefined values faults at its own place
(R53, R72). -/
def Issue.nextIdx (c : Issue) (h : Head) : Nat :=
  if h.sp && maskOk (c.clause.words.getD (c.idx + 1) 0) then c.idx + 2 else c.idx + 1

/-- Where the thread goes on when the word transfers nothing: the program counter and the header it belongs to. -/
def Issue.next (c : Issue) (h : Head) : DWord × DWord :=
  if c.nextIdx h < c.clause.words.length then (c.clause.addr (c.nextIdx h), c.clause.head)
  else (c.clause.after, c.clause.after)

/-- The word is the last of its clause to issue. -/
def Issue.last (c : Issue) (h : Head) : Bool := decide (c.clause.words.length ≤ c.nextIdx h)

/-- A mask word with undefined values follows: it faults at its own place, whatever the word transfers (R72). -/
def Issue.badMask (c : Issue) (h : Head) : Bool := h.sp && !maskOk (c.clause.words.getD (c.idx + 1) 0)

/-- The mask word of a safe point. -/
def Issue.maskWord (c : Issue) (h : Head) : Option DWord := if h.sp then c.clause.words[c.idx + 1]? else none

/-! ## Faults of the clause (items 1 of R70: R54 to R57, R72) -/

/-- The indexes of the instruction words of a clause from index `i` on: a mask word that follows a word with SP set is none
(R53, R72). -/
def instrIdxs (afterSp : Bool) (i : Nat) : List DWord → List Nat
  | [] => []
  | w :: r => if afterSp && isMask w then instrIdxs false (i + 1) r else i :: instrIdxs (headOf w).sp (i + 1) r

/-- Is the word one of the terminators (R56). -/
def isTerminator (w : DWord) : Bool := (decodeFields w).opClass = .terminator

/-- The word is a `tcom`. -/
def isTcom (w : DWord) : Bool := opOf w = 0x0E8

/-- The word is a `st`. -/
def isStore (w : DWord) : Bool := opOf w = 0x0C1

/-- The class of the word fits the clause (R55, R57). -/
def classOk (cls : Nat) (i : Instr) : Bool :=
  match i.opClass with
  | .alu => true
  | .terminator => true
  | .mem => cls = 1 || (cls = 6 && (match i with | .ld _ _ => true | .st _ _ => true | _ => false))
  | .sfc => cls = 2
  | .net => cls = 3
  | .ray => cls = 4
  | .sync => cls = 5
  | .agrp => cls = 6

/-- The placement of a terminator agrees with TERM (R56). -/
def termOk (c : Issue) (i : Instr) (last : Bool) : Bool :=
  if i.opClass = .terminator then c.clause.hdr.term && last else !(c.clause.hdr.term && last)

/-- The limits of an AGRP clause at this word (R57). -/
def agrpOk (c : Issue) (i : Instr) (idxs : List Nat) : Bool :=
  if c.clause.hdr.cls ≠ 6 then true
  else
    let word (k : Nat) : DWord := c.clause.words.getD k 0
    let later := idxs.filter (c.idx < ·)
    let before := idxs.filter (· < c.idx)
    match i with
    | .st _ _ => decide ((before.filter fun k => isStore (word k)).length < 8) && (!later.isEmpty || before.any fun k => isTcom (word k))
    | .tcom _ _ =>
      !(before.any fun k => isTcom (word k)) &&
        (match later with
         | [] => true
         | [k] => isTerminator (word k)
         | _ => false)
    | _ => !later.isEmpty || idxs.any fun k => isTcom (word k)

/-- The mask word rules at this word (R72): a mask word that follows, with defined values only. -/
def maskPlaceOk (c : Issue) (h : Head) : Bool :=
  !h.sp || (match c.clause.words[c.idx + 1]? with | some m => isMask m | none => false)

/-- The word breaks a rule of its clause or of its own encoding (items 1 and 2 of R70); so does one with an unlisted `OP` (R75). -/
def Issue.illegal (c : Issue) (h : Head) (i : Instr) : Option Illegal :=
  let idxs := instrIdxs false 0 c.clause.words
  let last := decide (idxs.getLast? = some c.idx)
  if !(classOk c.clause.hdr.cls.toNat i && termOk c i last && agrpOk c i idxs && maskPlaceOk c h) then some .instruction
  else match i with
  | .unlistedOpcodeIssue _ => some .instruction
  | i => i.illegal

/-! ## Traps (R124, R164, R375) -/

/-- The information word of `tinfo` without HND (R205). -/
def infoWord (cause sub : Nat) (deferred : Bool) : Word :=
  BitVec.ofNat 32 (sub % 256 * 65536 + (if deferred then 256 else 0) + cause % 256)

/-- The escalation of a trap: the thread is held, with a record that goes to the host fault queue, and its atomic group is abandoned (R146,
R375). -/
def State.escalate (s : State) (th : Thread) (reason : Nat) (t : Trap) : State :=
  let (k, s) := s.newId
  s.setThread { th with trap := none, block := none, mask := none, group := none, hold := some { token := k % 2 ^ 32, posted := false, reason := reason, trap := t } }

/-- The cycle from which a thread that enters its handler is ready: one that a word of this cycle sends there can join a stroke no
earlier than the next (R208, R209). -/
def State.readyFrom (s : State) : Nat := if s.cur.isSome then s.now + 1 else s.now

/-- A thread whose trap waits and whose slots are clear enters its handler: the trap record is written, the in-handler mark
set, and it continues at the context's trap entry; a thread in its handler is escalated (R164, R375). Whether it has issued a
`yield` in the clause it leaves is kept for its return there (R160). -/
def State.enterHandler (s : State) (th : Thread) (t : Trap) : State :=
  if th.inHandler then s.escalate th 0 t
  else
    let e := (s.context th.ctx).trapEntry
    s.setThread { th with
      trap := none, block := none, trapPc := t.pc, trapHead := t.head, trapAddr := t.addr
      trapInfo := infoWord t.cause t.sub t.deferred, inHandler := true
      pc := e, head := e, entering := true, group := none, mask := none, readySince := s.readyFrom
      yieldIn := none, trapYield := th.yieldIn }

/-- Taking a trap (R164): the thread leaves its stroke; it enters the handler at once when its slots are clear, and
otherwise waits for them. -/
def State.takeTrap (s : State) (th : Thread) (t : Trap) : State :=
  if s.slotsClear th.id then s.enterHandler th t
  else s.setThread { th with trap := some t, block := none, group := none, mask := none }

/-- A fault or trap at the word being issued, precise: the saved program counter is the word (R70). -/
def State.raise (s : State) (c : Issue) (th : Thread) (cause sub : Nat) (addr : DWord) : State :=
  s.takeTrap th { cause := cause, sub := sub, addr := addr, deferred := false, pc := c.pc, head := c.clause.head }

/-- A precise fault whose address the spec does not state: a free value stands there (notes/assumptions/6.md). -/
def State.raiseFree (s : State) (c : Issue) (th : Thread) (cause : Nat) : State :=
  let (v, s) := s.free
  s.raise c th cause 0 v

/-- The first pending deferred fault is delivered where the thread stands; the saved program counter is its next one (R124). -/
def State.deliver (s : State) (th : Thread) : State :=
  match th.pending with
  | [] => s
  | f :: r =>
    s.takeTrap { th with pending := r }
      { cause := f.cause, sub := f.sub, addr := f.addr, deferred := true, pc := th.pc, head := th.head }

/-- A pending fault put into the list in issue order (R124). -/
def insertPending (f : PendingFault) : List PendingFault → List PendingFault
  | [] => [f]
  | g :: r => if g.order ≤ f.order then g :: insertPending f r else f :: g :: r

/-! ## Advancing -/

/-- The word ends the thread's clause and leaves it a yield mark: the header asks for it, or the thread has issued `yield` there
(R71, R160, R209). -/
def Thread.endsMarked (th : Thread) (c : Issue) (h : Head) : Bool :=
  c.last h && (c.clause.hdr.yld || th.yieldIn = some c.clause.head)

/-- The thread has issued the word: its next issue comes no earlier than 1 + STALL cycles later (R66), it goes on at the
next word, and the mask word of a safe point is the one in force (R72, R73). -/
def Thread.advance (th : Thread) (c : Issue) (h : Head) (now : Nat) : Thread :=
  { th with
    pc := (c.next h).1, head := (c.next h).2, nextIssue := now + 1 + h.stall.toNat, readySince := now + 1 + h.stall.toNat
    mask := c.maskWord h, entering := false, block := none, yieldMark := th.yieldMark || th.endsMarked c h
    yieldIn := if c.last h then none else th.yieldIn
    group := if (c.next h).2 = c.clause.head then th.group else none }

/-- The thread has issued the word and goes to another clause; a mask word with undefined values is met first (R72,
notes/assumptions/53.md). -/
def Thread.jump (th : Thread) (c : Issue) (h : Head) (now : Nat) (target : DWord) : Thread :=
  if c.badMask h then th.advance c h now else { th.advance c h now with pc := target, head := target }

/-- The thread has issued a blocking instruction that is not complete: it stays at the word, and knows where it goes on. A `yield` in its
clause is remembered until it goes on, for a word that is issued again (R160, R209). -/
def Thread.wait (th : Thread) (c : Issue) (h : Head) (now : Nat) (w : Wait) : Thread :=
  { th with
    pc := c.pc, head := c.clause.head, nextIssue := now + 1 + h.stall.toNat, mask := none, entering := false
    yieldMark := th.yieldMark || th.endsMarked c h
    block := some { wait := w, since := now, next := (c.next h).1, nextHead := (c.next h).2, mask := c.maskWord h } }

/-- The issue stalls: the thread stays at the word, which is issued to it again (R123, R169, R192). -/
def Thread.stall (th : Thread) (c : Issue) (h : Head) (now : Nat) : Thread :=
  { th with
    pc := c.pc, head := c.clause.head, mask := none, entering := false
    block := some { wait := .stalled true, since := now, next := (c.next h).1, nextHead := (c.next h).2, mask := c.maskWord h } }

/-- A blocked thread's instruction completes: its results are in place, after those of earlier words that are ready, and it goes on
(R67, R68, R212). It can join a stroke in this cycle (notes/assumptions/54.md). -/
def Thread.complete (th : Thread) (now : Nat) (ds : List Dest) : Thread :=
  match th.block with
  | none => th
  | some b =>
    { ds.foldl Thread.write (th.settle now) with
      pc := b.next, head := b.nextHead, mask := b.mask, block := none, readySince := max th.nextIssue now
      yieldIn := if b.nextHead = th.head then th.yieldIn else none }

/-! ## The issue of a word (R70) -/

/-- The entry size of a queue of the thread's team; 0 where it has no ring (R148). -/
def State.ringSize (s : State) (th : Thread) (q : Nat) : Nat :=
  match s.team? th.team with
  | some t => ((t.queues.getD q none).map Ring.entry).getD 0
  | none => 0

/-- The registers and predicates the instruction names for this thread. -/
def State.usesOf (s : State) (th : Thread) (i : Instr) : Uses := Instr.uses (srcWord s th) (s.ringSize th) i

/-- The guard passes (R21, R60). -/
def Thread.guard (th : Thread) (h : Head) : Bool := th.pred h.gp.toNat != h.gn

/-- A register above the allotment is named, or a live block of the mask word lies above it (R17, R72). -/
def rangeFault (th : Thread) (u : Uses) (mask : Option DWord) : Bool :=
  (u.src ++ u.dst).any (fun n => decide (16 + 16 * th.allot ≤ n)) ||
    (match mask with
     | some m => decide (2 ^ (th.allot + 1) ≤ (maskOf m).blk.toNat)
     | none => false)

/-- A fixed-latency result that is not yet ready is read or written (R67). -/
def underrun (th : Thread) (h : Head) (u : Uses) : Bool :=
  th.flights.any fun f =>
    match f.dest with
    | .reg n _ => (u.src ++ u.dst).contains n
    | .pred n _ => (u.psrc ++ u.pdst ++ [h.gp.toNat]).contains n

/-- The destination of `inkstat` lies above the allotment, an illegal operand (R145). -/
def offAllotment (th : Thread) : Instr → Bool
  | .inkstat _ o => decide (16 + 16 * th.allot < o.d.toNat + 4)
  | _ => false

/-- The first fault of items 1 to 3 of R70, which every thread takes, guard or no guard. -/
def State.decodeFault (s : State) (c : Issue) (th : Thread) (h : Head) (i : Instr) : Option Nat :=
  match c.illegal h i with
  | some .instruction => some 0x01
  | some .operand => some 0x02
  | none => if offAllotment th i then some 0x02 else if rangeFault th (s.usesOf th i) (c.maskWord h) then some 0x03 else none

/-- The thread at position `i` of the issuing thread's quad; a thread with no quad is at every position (R116). -/
def State.quadMember (s : State) (th : Thread) (i : Nat) : Option Thread :=
  match th.quad with
  | none => some th
  | some _ => s.threads.find? fun t => t.team = th.team && t.quadId = th.quadId && t.quad = some i

/-- Source A of a quad instruction, which reads it in every member (R116). -/
def quadSource : Instr → Option (BitVec 8)
  | .ddx _ o => some o.a
  | .ddy _ o => some o.a
  | .qswz _ o => some o.a
  | _ => none

/-- A member of the quad that issues the word holds a lease on A (R116). -/
def State.quadLease (s : State) (c : Issue) (th : Thread) (a : BitVec 8) : Bool :=
  (List.range 4).any fun i =>
    match s.quadMember th i with
    | none => false
    | some m => s.leased m.id (wordRegs a) && c.members.contains m.id

/-- Another member supplies a poisoned A (R116, R406): one that is not in the stroke, or one that issues the word with its guard
failing and without a fault of its own. A member whose guard passes takes the fault itself. -/
def State.quadPoison (s : State) (c : Issue) (th : Thread) (h : Head) (i : Instr) (a : BitVec 8) : Bool :=
  (List.range 4).any fun p =>
    match s.quadMember th p with
    | none => false
    | some t =>
      let m := t.settle s.now
      m.id ≠ th.id && (wordRegs a).any m.poisoned.contains &&
        (!c.members.contains m.id || (!m.guard h && (s.decodeFault c m h i).isNone))

/-- The first fault of items 4 to 6 of R70 that holds of every instruction: a lease, a stall underrun under the checking
scoreboard, a poisoned source; a quad instruction reads A in every member (R24, R67, R116, R406). -/
def State.sourceFault (s : State) (c : Issue) (th : Thread) (h : Head) (i : Instr) : Option Nat :=
  let u := s.usesOf th i
  if s.leased th.id (u.src ++ u.dst) || (quadSource i).any (s.quadLease c th) then some 0x04
  else if (s.context th.ctx).chksb && underrun th h u then some 0x05
  else if u.src.any th.poisoned.contains || (quadSource i).any (s.quadPoison c th h i) then some 0x0F
  else none

/-- A deferred fault is due at this instruction: it names a register that the faulting instruction leased (R124). -/
def State.deferredDue (s : State) (th : Thread) (i : Instr) : Bool :=
  let u := s.usesOf th i
  th.pending.any fun f => (u.src ++ u.dst).any f.regs.contains

/-- The guard's predicate is read under the checking scoreboard before it is ready (R67); this faults even where its old value would
fail the guard (notes/assumptions/55.md). -/
def State.guardUnderrun (s : State) (th : Thread) (h : Head) : Bool :=
  (s.context th.ctx).chksb && underrun th h {}

/-- Issuing a word for its thread: pending faults that fall due, then the order of R70, then the guard, then the effect. The
effect receives the thread with its ready results written, already in place in the state. -/
def State.issueThread (s : State) (c : Issue) (th : Thread) (h : Head) (i : Instr)
    (eff : State → Issue → Thread → State) : State :=
  if s.deferredDue th i then s.deliver th
  else match s.decodeFault c th h i with
  | some cause => s.raiseFree c th cause
  | none =>
    if th.guard h then
      match s.sourceFault c th h i with
      | some cause => s.raiseFree c th cause
      | none => eff s c th
    else if s.guardUnderrun th h then s.raiseFree c th 0x05
    else s.setThread (th.advance c h s.now)

/-- The events counted at an issue: the word, and a load or store whose guard passes (R416). -/
def State.countIssue (s : State) (th : Thread) (h : Head) (i : Instr) : State :=
  let s := s.count th.col 0x010 (some th.ctx) 1
  let kind := match i with
    | .st _ _ => 0x020
    | .ld _ _ => 0x021
    | .ldro _ _ => 0x021
    | .ldw _ _ => 0x021
    | _ => 0
  if kind ≠ 0 && th.guard h then s.count th.col kind (some th.ctx) 1 else s

/-- The issue of the thread's word has been counted: it waits at the word (R416). -/
def Thread.counted (th : Thread) : Bool :=
  match th.block.map Block.wait with
  | none => false
  | some (.stalled b) => b
  | some _ => true

/-- The meaning of a Lamen instruction: the thread that issues it, its ready results written, and the issue of the word. A word that is
not issued, for a deferred fault that is due there, is not counted (R124, R416). -/
def issue (i : Instr) (h : Head) (s : State) (eff : State → Issue → Thread → State) :
    Host.Outcome State Fault Refusal :=
  match s.cur with
  | none => .fault .noThread
  | some c =>
    match s.thread? c.tid with
    | none => .fault .noThread
    | some t =>
      let th := { t.settle s.now with block := none }
      let s := if t.counted || s.deferredDue th i then s else s.countIssue th h i
      .next ((s.setThread th).issueThread c th h i eff)

/-- The effect of a fixed-latency instruction: its results are written `lat` cycles after issue (R66, R74). -/
def fixed (h : Head) (lat : Nat) (res : State → Issue → Thread → List Dest) (s : State) (c : Issue) (th : Thread) : State :=
  s.setThread ((th.launch s.now lat (res s c th)).advance c h s.now)

/-- A new operation in flight for the issuing thread: it leases its destinations and sets its slot (R24, R68). -/
def State.startOp (s : State) (c : Issue) (th : Thread) (h : Head) (dst : List Nat) (stage : Stage) : State :=
  let (k, s) := s.newId
  { s with ops := s.ops ++ [{
      id := k, tid := th.id, team := th.team, launch := ((s.team? th.team).map Team.launch).getD 0, ctx := th.ctx, col := th.col, core := th.core, pc := c.pc
      lane := th.lane, place := th.slot, item := th.tid.toNat
      slot := if h.we then some h.wslot.toNat else none, dst := dst, issued := s.now, stroke := c.stroke, stage := stage }] }

/-- The effect of an instruction that goes in flight; one that has nothing to write and set no slot is over at once. -/
def leasing (h : Head) (dst : List Nat) (stage : Stage) (s : State) (c : Issue) (th : Thread) : State :=
  if !h.we && stage = .ready [] false then s.setThread (th.advance c h s.now)
  else (s.startOp c th h dst stage).setThread (th.advance c h s.now)

/-- A variable-latency result whose values are known: it waits to be written. -/
def leasingReady (h : Head) (dst : List Nat) (vs : List Word) (s : State) (c : Issue) (th : Thread) : State :=
  leasing h dst (.ready (dst.zip vs) false) s c th

end Sys2Proof.Machine
end

