-- ==== Sys2Proof/Machine/Translate.lean ====
section
/-! DEFINITION. Address translation and page faults (R120, R342 to R352, R432), and fault records (R411 to R413). -/

namespace Sys2Proof.Machine

/-! ## Addresses (R120) -/

/-- Address bits [63:57] all equal bit 56. -/
def canonical (va : DWord) : Bool := (va.extractLsb' 0 57).signExtend 64 = va

/-- First byte of the scratchpad window (R120). -/
def windowBase : Nat := 0x00FFFFFFFFF80000

/-- One past the scratchpad window. -/
def windowEnd : Nat := 0x0100000000000000

/-- The address lies in the scratchpad window. -/
def inWindow (va : Nat) : Bool := windowBase ≤ va && va < windowEnd

/-- The agent that makes an access: the thread it is for, its team, context, column and core, and its instruction. -/
structure Actor where
  tid : Nat
  team : Nat
  ctx : Nat
  col : Nat
  core : Nat
  /-- The address of the instruction. -/
  pc : DWord
  /-- Launch, lane and thread slot of an operation's thread, which may have ended. -/
  origin : Option (Nat × Nat × Nat)
  deriving DecidableEq, Repr

/-- A thread as the agent of its accesses. -/
def Thread.actor (th : Thread) : Actor := ⟨th.id, th.team, th.ctx, th.col, th.core, th.pc, none⟩

/-- An operation in flight as the agent of its accesses. -/
def Op.actor (o : Op) : Actor := ⟨o.tid, o.team, o.ctx, o.col, o.core, o.pc, some (o.launch, o.lane, o.place)⟩

/-! ## Page table entries (R342 to R345) -/

/-- Size of a region of physical memory (R344, R388, R392); an HBM offset is counted in its stack. -/
def regionSize (r : Nat) : Nat :=
  match r with
  | 0 => hbmSize
  | 1 => tierSize
  | 2 => Config.hostMemoryEnd 0
  | 3 => 2 ^ 44
  | 4 => 2 ^ 44
  | _ => 0

/-- The page lies in a region and within its range. -/
def frameOk (pa size : Nat) : Bool :=
  let r := regionOf pa
  let off := if r = 0 then pa % 2 ^ 37 else pa % 2 ^ 44
  pa < 2 ^ 52 && pa % size = 0 && r ≤ 4 && (r ≠ 0 || pa / 2 ^ 42 % 4 = 0) && off + size ≤ regionSize r

/-- The page touches an enabled replica pool that holds a frame (R366). -/
def State.inPool (s : State) (pa size : Nat) : Bool :=
  s.inkpools.any fun p =>
    p.getLsbD 0 && field p 44 20 ≠ 0 && pa < field p 16 28 * 65536 + field p 44 20 * 65536 && field p 16 28 * 65536 < pa + size

/-- The page size a leaf has at a level (R343). -/
def pageSize (level : Nat) : Nat := if level = 2 then 2 ^ 30 else if level = 1 then 2 ^ 21 else 2 ^ 16

/-- A leaf entry is well formed at its level (R345). -/
def State.leafOk (s : State) (e : DWord) (level : Nat) : Bool :=
  let pa := field e 12 40 * 4096
  let size := pageSize level
  let r := regionOf pa
  let cls := field e 4 3
  let share := field e 2 2
  let mig := field e 10 2
  level ≤ 2 && field e 57 7 = 0 && cls ≤ 4 && share ≤ 2 && mig ≤ 2 && (share = 0 || field e 52 5 = 0) && frameOk pa size &&
    (field e 9 1 = (if r = 1 then 1 else 0)) &&
    (if cls = 3 then decide (2 ≤ r) && !e.getLsbD 8 && mig = 0 else r ≠ 4) &&
    (mig ≠ 1 || (level = 0 && (cls = 0 || cls = 2) && r ≤ 1)) && !s.inPool pa size

/-- A non-leaf entry is well formed: only FRAME, LEAF and V may be set (R345). -/
def tableOk (e : DWord) (level : Nat) : Bool :=
  level ≠ 0 && field e 2 10 = 0 && field e 52 12 = 0

/-- Index bits of an address at a level (R343). -/
def levelIndex (va level : Nat) : Nat :=
  if level = 0 then va / 2 ^ 16 % 32 else va / 2 ^ (12 + 9 * level) % 512

/-- The walk from a table at a level: `n` is the level plus one. An entry read from a sector marked poisoned counts as
malformed (R406). -/
def State.walk (s : State) (va table : Nat) : Nat → Except WalkFail Leaf
  | 0 => .error ⟨0, 2⟩
  | n + 1 =>
    let at_ := table + 8 * levelIndex va n
    let e : DWord := BitVec.ofNat 64 (s.peekNat at_ 8)
    if !e.getLsbD 0 && !s.poisoned at_ 8 then .error ⟨n, 1⟩
    else if s.poisoned at_ 8 then .error ⟨n, 2⟩
    else if e.getLsbD 1 then
      if s.leafOk e n then
        .ok { pa := field e 12 40 * 4096 + va % pageSize n, size := pageSize n, owner := field e 52 5, mig := field e 10 2
              x := e.getLsbD 8, w := e.getLsbD 7, cls := field e 4 3, share := field e 2 2, entryAt := at_, va := va }
      else .error ⟨n, 2⟩
    else if tableOk e n then s.walk va (field e 12 40 * 4096) n
    else .error ⟨n, 2⟩

/-- The lines of the table entries that a walk reads (R343). -/
def State.walkLines (s : State) (va table : Nat) : Nat → List Nat
  | 0 => []
  | n + 1 =>
    let at_ := table + 8 * levelIndex va n
    let e : DWord := BitVec.ofNat 64 (s.peekNat at_ 8)
    at_ / 128 :: if e.getLsbD 0 && !e.getLsbD 1 && tableOk e n && !s.poisoned at_ 8 then s.walkLines va (field e 12 40 * 4096) n else []

/-! ## Peer packages and the second tier (R389 to R392) -/

/-- The peer package and the base in its memory that an aperture names (R392, R424). -/
def State.aperture? (s : State) (a : Nat) : Option (Nat × Nat) := (s.platform.settings.apertures.find? (·.1 = a)).map (·.2)

/-- The peer package behind an address of region 0x03 (R392). -/
def State.peerOf (s : State) (pa : Nat) : Option Nat := (s.aperture? (pa / 2 ^ 38 % 64)).map (·.1)

/-- The place that stands for a byte of a peer: apertures that name one package and base show the same bytes (R392). -/
def State.through (s : State) (pa : Nat) : Nat :=
  if regionOf pa ≠ 3 then pa
  else match s.aperture? (pa / 2 ^ 38 % 64) with
  | none => pa
  | some q =>
    match s.platform.settings.apertures.find? (·.2 = q) with
    | some p => 3 * 2 ^ 44 + p.1 % 64 * 2 ^ 38 + pa % 2 ^ 38
    | none => pa

/-- A peer package can be reached: the image gives it a route, and its routes are not down (R391, R392). -/
def State.reaches (s : State) (peer : Nat) : Bool :=
  s.platform.settings.routes.any (·.1 = peer) && !s.peersDown.any (·.1 = peer)

/-- The root port that serves an address of the second tier (R389). -/
def State.rootPort (s : State) (pa : Nat) : Nat := pa % 2 ^ 44 / 4096 % max 1 s.platform.settings.ports

/-- A request for the address can have an answer: its root port has its link up and memory there, or its peer is reachable (R389,
R392). -/
def State.served (s : State) (pa : Nat) : Bool :=
  if regionOf pa = 1 then
    !s.platform.rootsDown.contains (s.rootPort pa) && decide (pa % 2 ^ 44 < s.platform.settings.ports * 768000000000)
  else if regionOf pa = 3 then (s.peerOf pa).any s.reaches
  else true

/-- PTROOT of a context (R371). -/
def Context.ptRoot (c : Context) : Nat := field c.desc 64 64

/-- The translation of an address of a context (R343); walks read the newest entries (notes/assumptions/7.md). The scratchpad
window is never looked up (R120). -/
def State.translate (s : State) (ctx : Nat) (va : Nat) : Except WalkFail Leaf :=
  if inWindow va then .error ⟨4, 1⟩
  else match s.walk (va % 2 ^ 57) (s.context ctx).ptRoot 5 with
  | .ok l => .ok { l with pa := s.through l.pa }
  | .error f => .error f

/-- The translation of an address for a lane of an issue: what the issue's lookup found for the page, where it looked the page up
(R346). -/
def State.pageAt (s : State) (c : Issue) (ctx va : Nat) : Except WalkFail Leaf :=
  match c.pages.find? fun p => p.1 = va % 2 ^ 57 / 65536 with
  | some (_, .inl l) => .ok { l with pa := l.pa - l.va % l.size + va % l.size, va := va % 2 ^ 57 }
  | some (_, .inr f) => .error f
  | none => s.translate ctx va

/-- The home column of a translated byte (R226). -/
def Leaf.home (l : Leaf) : Nat := if l.share = 0 then l.owner else homeColumn l.pa

/-- The scope of a page: SYSTEM for a DEVICE page, whatever its SHARE (R228). -/
def Leaf.scope (l : Leaf) : Nat := if l.cls = 3 then 2 else l.share

/-- The numbers of the pages of a virtual range. -/
def pageNumbers (va n : Nat) : List Nat := (List.range ((va + n + 65535) / 65536 - va / 65536)).map (va / 65536 + ·)

/-! ## Page-fault records (R349, R432) -/

/-- The bytes of a page-fault record. -/
def PageRecord.bytes (r : PageRecord) : List Byte :=
  leBytes 32 (r.va.toNat * 2 ^ 192 + r.token % 2 ^ 32 * 2 ^ 160 + r.ctx % 64 * 2 ^ 154 + r.col % 32 * 2 ^ 149 +
    r.core % 128 * 2 ^ 142 + r.kind % 8 * 2 ^ 139 + r.level % 8 * 2 ^ 136 + r.reason % 16 * 2 ^ 132)

/-- Posting a record when its context's ring has room (R349, R371). -/
def State.postPage (s : State) (r : PageRecord) : State :=
  let d := (s.context r.ctx).desc
  let base := field d 448 64
  let log := field d 52 4
  if !r.posted && s.ringRoom base log then
    let t := s.ringPost base log r.bytes
    { t with pageRecords := t.pageRecords.map fun q => if q.token = r.token then { q with posted := true } else q }
  else s

/-- A page fault: it joins the outstanding record of its page, or a new record is made and posted when the ring has room.
The token identifies the record (R349). -/
def State.pageFault (s : State) (ctx col core : Nat) (va : DWord) (kind : Nat) (f : WalkFail) : Nat × State :=
  match s.pageRecords.find? fun r => r.ctx = ctx && r.va.toNat / 65536 = va.toNat / 65536 with
  | some r => (r.token, s)
  | none =>
    let (k, s) := s.newId
    let r : PageRecord := ⟨k % 2 ^ 32, ctx, col, core, va, kind, f.level, f.reason, false⟩
    (r.token, ({ s with pageRecords := s.pageRecords ++ [r] }).postPage r)

/-! ## Fault records (R411 to R413) -/

/-- The fields of a fault record (R411). -/
structure FaultRecord where
  addr : DWord := 0
  pc : DWord := 0
  info : Word := 0
  item : Nat := 0
  queue : Nat := 0xFFFF
  lrec : Nat := 0
  ctx : Nat
  col : Nat := 0
  core : Nat := 0x7F
  lane : Nat := 0
  slot : Nat := 0
  kind : Nat
  deriving DecidableEq, Repr

/-- The bytes of a fault record (R411). -/
def FaultRecord.bytes (r : FaultRecord) : List Byte :=
  leBytes 64 (r.addr.toNat * 2 ^ 448 + r.pc.toNat * 2 ^ 384 + r.info.toNat * 2 ^ 352 + r.item % 2 ^ 32 * 2 ^ 320 +
    r.queue % 2 ^ 16 * 2 ^ 304 + r.lrec % 2 ^ 32 * 2 ^ 272 + r.ctx % 64 * 2 ^ 58 + r.col % 32 * 2 ^ 53 +
    r.core % 128 * 2 ^ 46 + r.lane % 128 * 2 ^ 39 + r.slot % 32 * 2 ^ 34 + r.kind % 256)

/-- Posting bytes to a context's fault records ring, or holding them in the column until the ring has room (R371, R413). Nothing
is reported of a context that is being destroyed (R12). -/
def State.postRecord (s : State) (col ctx : Nat) (bytes : List Byte) : State :=
  let d := (s.context ctx).desc
  let base := field d 384 64
  let log := field d 60 4
  if d.getLsbD 3 then s
  else if (s.heldRecords.all fun r => r.ctx ≠ ctx) && s.ringRoom base log then s.ringPost base log bytes
  else { s with heldRecords := s.heldRecords ++ [⟨col, ctx, bytes, 0⟩] }

/-- The column holds as many records as it can: a unit that must post one waits before it goes on (R413). Records behind those 64 in the
model's list are still in their units, which are the ends of threads that system software terminates. -/
def State.recordsFull (s : State) (col : Nat) : Bool := decide (64 ≤ (s.heldRecords.filter (·.col = col)).length)

/-- Some record of the column is still in its unit (R413). -/
def State.recordsOver (s : State) (col : Nat) : Bool := decide (64 < (s.heldRecords.filter (·.col = col)).length)

/-- Recording an event of R412. -/
def State.record (s : State) (r : FaultRecord) : State := s.postRecord r.col r.ctx r.bytes

/-- A record that concerns a thread (R412). -/
def Thread.recordOf (th : Thread) (kind : Nat) : FaultRecord :=
  { ctx := th.ctx, col := th.col, core := th.core, lane := th.lane, slot := th.slot, kind := kind }

/-- QUEUE and LREC of a launch's record (R411). -/
def State.ofLaunch (s : State) (l : Nat) (r : FaultRecord) : FaultRecord :=
  match s.launch? l with
  | some m => { r with queue := m.q, lrec := m.lrec }
  | none => r

/-- A record that concerns a thread, with its launch (R411). -/
def State.threadRecord (s : State) (th : Thread) (kind : Nat) : FaultRecord :=
  s.ofLaunch ((s.team? th.team).map Team.launch |>.getD 0) (th.recordOf kind)

/-- The information word of a thread's record: HND while it is in its handler (R205, R411). -/
def Thread.recordInfo (th : Thread) (cause sub : Nat) (deferred : Bool) : Word :=
  infoWord cause sub deferred ||| (if th.inHandler then 0x200 else 0)

/-- A record about an access of an agent, with its thread's place (R411). -/
def State.actorRecord (s : State) (a : Actor) (kind cause : Nat) (deferred : Bool) : FaultRecord :=
  let launch := (a.origin.map (·.1)).getD (((s.team? a.team).map Team.launch).getD 0)
  match s.thread? a.tid with
  | some th => { s.ofLaunch launch (th.recordOf kind) with pc := a.pc, info := th.recordInfo cause 0 deferred }
  | none =>
    s.ofLaunch launch
      { ctx := a.ctx, col := a.col, core := a.core, lane := (a.origin.map (·.2.1)).getD 0, slot := (a.origin.map (·.2.2)).getD 0
        kind := kind, pc := a.pc, info := infoWord cause 0 deferred }

/-- The reduction tags of sectors on no mapped page are clear (R137: a tag clears when the page is unmapped), and a RESULT page that is
mapped no more, or to another frame, is new when it is mapped again (R318). -/
def State.pruneTags (s : State) : State :=
  { s with caches := { s.caches with
      tags := s.caches.tags.filter fun (t : Tag) => (s.translate t.ctx (t.sector * 32)).isOk
      results := s.caches.results.filter fun p =>
        match s.translate p.1 (p.2.1 * 65536) with
        | .ok l => l.cls = 4 && l.pa / 65536 = p.2.2
        | .error _ => false } }

/-- The RESULT pages that a table of a level shows at a frame of 64 KiB (R318, R343). -/
def State.resultPages (s : State) (frame table va : Nat) : Nat → List Leaf
  | 0 => []
  | n + 1 =>
    (List.range (if n = 0 then 32 else 512)).flatMap fun i =>
      let at_ := table + 8 * i
      let e : DWord := BitVec.ofNat 64 (s.peekNat at_ 8)
      let v := va + i * 2 ^ (if n = 0 then 16 else 12 + 9 * n)
      if !e.getLsbD 0 || s.poisoned at_ 8 then []
      else if !e.getLsbD 1 then (if tableOk e n then s.resultPages frame (field e 12 40 * 4096) v n else [])
      else
        let pa := field e 12 40 * 4096
        if s.leafOk e n && field e 4 3 = 4 && pa / 65536 ≤ frame && frame < (pa + pageSize n) / 65536 then
          [{ pa := frame * 65536, size := pageSize n, owner := field e 52 5, mig := field e 10 2, x := e.getLsbD 8, w := e.getLsbD 7, cls := 4
             share := field e 2 2, entryAt := at_, va := v + (frame * 65536 - pa) }]
        else []

/-- The page is a newly mapped RESULT page that has not been used: it reads zero, unmarked and with every line full. A frame that another
RESULT page already shows keeps its bytes (R318, notes/assumptions/65.md). -/
def State.unused (s : State) (l : Leaf) : Bool := l.cls = 4 && !s.caches.results.any (·.2.2 = l.pa / 65536)

/-- The first use of a RESULT page: a newly mapped one holds zero, no mark and only full lines (R318). -/
def State.freshResult (s : State) (ctx : Nat) (l : Leaf) : State :=
  let frame := l.pa / 65536
  let here (line : Nat) : Bool := line / 512 = frame
  if l.cls ≠ 4 || s.caches.results.contains (ctx, l.va / 65536, frame) then s
  else
    let new := s.unused l
    let s := { s with caches := { s.caches with results := (ctx, l.va / 65536, frame) :: s.caches.results } }
    if !new then s
    else
      { s with
        mem := cellClear (w := 8) (frame * 65536) 65536 s.mem
        poison := s.poison.filter fun k => k / 2048 ≠ frame
        caches := { s.caches with
          copies := s.caches.copies.filter fun c => !here c.line, empties := s.caches.empties.filter fun p => !here p.line } }

/-- An access from outside the package to a frame that is mapped as a RESULT page counts as its first use: it meets the zeros of the
new page (R318). -/
def State.freshFrames (s : State) (pa n : Nat) : State :=
  (pageNumbers pa n).foldl (fun (s : State) frame =>
    s.contexts.foldl (fun (s : State) c =>
      if c.desc.getLsbD 0 then (s.resultPages frame c.ptRoot 0 5).foldl (fun s l => s.freshResult c.idx l) s else s) s) s

end Sys2Proof.Machine
end

