-- ==== Sys2Proof/Machine/Access.lean ====
section
/-! DEFINITION. Accesses of threads to memory and scratchpad (R121 to R125, R136 to R138, R144, R151, R318): what each
action does at its location, the checks before it, and where it is performed (R228 to R240). -/

namespace Sys2Proof.Machine

/-! ## What an action does at its location -/

/-- Bytes an action touches (R121, R128 to R138). -/
def Action.width : Action → Nat
  | .load w _ _ _ => w
  | .store b => b.length
  | .atomic _ aty _ _ _ => if aty = 2 || aty = 3 then 8 else 4
  | .red _ aty _ => if aty = 2 || aty = 3 then 8 else 4
  | .xadd _ => 64
  | .xrd _ _ _ => 64
  | .mbarr _ => 8
  | .append _ _ => 1
  | .inkstat _ => 1

/-- The destination registers of an action. -/
def Action.dst : Action → List Nat
  | .load _ _ d _ => d
  | .atomic _ _ _ _ d => d
  | .xrd _ _ d => d
  | .append _ d => d
  | .inkstat d => d
  | _ => []

/-- The action is a load. -/
def Action.isLoad : Action → Bool
  | .load _ _ _ _ => true
  | _ => false

/-- The action is a plain store. -/
def Action.isStore : Action → Bool
  | .store _ => true
  | _ => false

/-- The action is `mbarr`. -/
def Action.isMbarr : Action → Bool
  | .mbarr _ => true
  | _ => false

/-- The action is `append`. -/
def Action.isAppend : Action → Bool
  | .append _ _ => true
  | _ => false

/-- The action is `inkstat`. -/
def Action.isInkstat : Action → Bool
  | .inkstat _ => true
  | _ => false

/-- KIND of the page-fault record an action posts (R432). -/
def Action.kind (a : Action) : Nat :=
  if a.isLoad || a.isInkstat then 0 else if a.isStore || a.isAppend then 1 else 2

/-- The action writes its location, as the checks of R122 and R123 mean it. -/
def Action.writes (a : Action) : Bool := !(a.isLoad || a.isInkstat || a.isAppend)

/-- ORD includes an acquire (R125). -/
def Access.acquires (x : Access) : Bool := x.ord = 1 || x.ord = 3

/-- ORD includes a release; `mbarr` is one (R125, R151). -/
def Access.releases (x : Access) : Bool := x.ord = 2 || x.ord = 3 || x.act.isMbarr

/-- The access synchronises in the sense of item 6 of R122. -/
def Access.synchronises (x : Access) : Bool := x.ord ≠ 0 || x.act.isMbarr

/-- Words of a load's value: a narrow value extended, a wide one in words (R128). -/
def loadWords (w : Nat) (sx : Bool) (bytes : List Byte) : List Word :=
  if w < 4 then
    [if sx then BitVec.ofInt 32 (sextNat (8 * w) (leNat bytes)) else BitVec.ofNat 32 (leNat bytes)]
  else (List.range (w / 4)).map fun i => BitVec.ofNat 32 (leNat ((bytes.drop (4 * i)).take 4))

/-- One half of a packed atomic (R136): add, or min and max of R96. -/
def halfAtomic (f : Fmt) (aop m b : Nat) : Nat :=
  if aop = 0 then roundVal f 0 (sumVals 0 [unpack f m, unpack f b]) else minMax f (decide (aop = 2)) m b

/-- The new value of an atomic at its location, as a number of `w` bits (R136). -/
def atomicValue (aop aty : Nat) (m b : Nat) : Nat :=
  let w := if aty = 2 || aty = 3 then 64 else 32
  let si (x : Nat) : Int := if aty = 0 || aty = 2 then sextNat w x else (x : Int)
  match aop with
  | 3 => m &&& b
  | 4 => m ||| b
  | 5 => m ^^^ b
  | 6 => b
  | _ =>
    if aty ≤ 3 then
      (if aop = 0 then (m + b) % 2 ^ w
       else if aop = 1 then (if si b < si m then b else m)
       else if si m < si b then b else m)
    else if aty = 4 then
      (if aop = 0 then roundVal .f32 0 (sumVals 0 [unpack .f32 m, unpack .f32 b]) else minMax .f32 (decide (aop = 2)) m b)
    else
      let f := if aty = 5 then Fmt.f16 else Fmt.bf16
      halfAtomic f aop (m % 65536) (b % 65536) + 65536 * halfAtomic f aop (m / 65536 % 65536) (b / 65536 % 65536)

/-- An arrival of count `c` on a barrier with a non-zero expected count (R150): phases passed and pending left. -/
def arrive (expected pending c : Nat) : Nat × Nat :=
  if c < pending then (0, pending - c)
  else (1 + (c - pending) / expected, expected - (c - pending) % expected)

/-- An arrival on a 64-bit barrier object (R23, R151). -/
def arriveObject (obj c : Nat) : Nat :=
  let phase := obj / 2 ^ 48
  let expected := obj / 2 ^ 24 % 2 ^ 24
  let (p, q) := arrive expected (obj % 2 ^ 24) c
  (phase + p) % 2 ^ 16 * 2 ^ 48 + expected * 2 ^ 24 + q

/-- What an action does to the bytes of its location: the new bytes if it writes, the values it returns, and whether it is
a barrier misuse (R151). -/
structure Effect where
  bytes : Option (List Byte)
  vals : List Word
  misuse : Bool
  deriving DecidableEq, Repr

/-- The effect of an action on the bytes of its location (R128, R129, R136, R138, R151). -/
def Action.apply (a : Action) (old : List Byte) : Effect :=
  match a with
  | .load w sx _ _ => ⟨none, loadWords w sx old, false⟩
  | .store b => ⟨some b, [], false⟩
  | .atomic aop aty b cmp _ =>
    let m := leNat old
    let words := loadWords old.length false old
    if aop = 7 then ⟨if m = cmp.toNat % 2 ^ (8 * old.length) then some (leBytes old.length b.toNat) else none, words, false⟩
    else ⟨some (leBytes old.length (atomicValue aop aty m (b.toNat % 2 ^ (8 * old.length)))), words, false⟩
  | .red aop aty b => ⟨some (leBytes old.length (atomicValue aop aty (leNat old) (b.toNat % 2 ^ (8 * old.length)))), [], false⟩
  | .xadd b => ⟨some (leBytes 64 (exactAdd (leNat old) b.toNat)), [], false⟩
  | .xrd rnd clr _ => ⟨if clr then some (leBytes 64 0) else none, [BitVec.ofNat 32 (exactRead (leNat old) rnd)], false⟩
  | .mbarr c =>
    if leNat old / 2 ^ 24 % 2 ^ 24 = 0 then ⟨none, [], true⟩ else ⟨some (leBytes 8 (arriveObject (leNat old) c.toNat)), [], false⟩
  | .append _ _ => ⟨none, [], false⟩
  | .inkstat _ => ⟨none, [], false⟩

/-! ## Range locks (R169) -/

/-- A lock of the team covers a byte of the range: any lock for a write, a write lock for a read (item 3 of R122). -/
def State.lockConflict (s : State) (team : Nat) (space : Space) (lo n : Nat) (write : Bool) : Bool :=
  s.locks.any fun l => l.team = team && l.space = space && (write || l.write) && decide (l.lo < lo + n) && decide (lo < l.hi)

/-- The space and offset of a virtual address for range locks. -/
def lockPlace (va : Nat) : Space × Nat := if inWindow va then (.scratch, va - windowBase) else (.memory, va)

/-! ## Performing at a memory location (R227 to R240) -/

/-- An acquire in the column discards the copy: a clean one of a line homed elsewhere, but for sealed ink and MANAGED lines (R236,
R238). -/
def LineCopy.stale (c : LineCopy) (col : Nat) : Bool :=
  c.col = col && !c.owned && !c.managed && !c.sealedInk && decide (homeColumn (c.line * 128) ≠ col)

/-- An acquire of scope PACKAGE or SYSTEM in a column: stale copies are discarded, and their lines' scope records with them (R236,
R238, R239). -/
def State.acquire (s : State) (col : Nat) : State :=
  { s with caches := { s.caches with
      copies := s.caches.copies.filter fun c => !c.stale col
      scopes := s.caches.scopes.filter fun r =>
        !(r.col = col && s.caches.copies.any fun c => c.line = r.line && c.stale col) } }

/-- An acquire by an access to a line: it reads the line anew, and the line's scope record, which the access has set, stays (R236,
R239). -/
def State.acquireFor (s : State) (col line : Nat) : State :=
  let t := s.acquire col
  { t with caches := { t.caches with scopes := s.caches.scopes.filter fun r => r.line = line || t.caches.scopes.contains r } }

/-- A release of scope PACKAGE or SYSTEM by a thread or engine of a column: the release count rises (R235). -/
def State.release (s : State) (col ctx : Nat) (share : Nat) : State :=
  if share = 0 then s else s.countRelease col ctx

/-- The bytes of a line at its home, after a recall of its owner. -/
def State.fetchLine (s : State) (tid line : Nat) : List Byte × State := s.homeRead tid (line * 128) 128

/-- The count of a page of MIG = 1 after it supplied a line, in a table of 65,536 pages whose least count gives way (R353). -/
def Migration.warm (m : Migration) (ctx page : Nat) : Migration :=
  if !m.ctl.getLsbD 63 then m
  else if m.heat.any fun q => q.ctx = ctx && q.page = page then
    { m with heat := m.heat.map fun q => if q.ctx = ctx && q.page = page then { q with count := min 65535 (q.count + 1) } else q }
  else if m.heat.length < 65536 then { m with heat := m.heat ++ [⟨ctx, page, 1⟩] }
  else
    let least := m.heat.foldl (fun k q => min k q.count) 65535
    match m.heat.find? (·.count = least) with
    | some q => { m with heat := m.heat.erase q ++ [⟨ctx, page, 1⟩] }
    | none => m

/-- An access of a column's L2 that hits or misses (R416); a miss is supplied by the page, which its home counts (R353). -/
def State.touchL2 (s : State) (a : Actor) (l : Leaf) (hit : Bool) : State :=
  let s := s.count a.col (if hit then 0x030 else 0x031) (some a.ctx) 1
  if l.mig = 1 && !hit then
    { s with regs := { s.regs with
        migrations := s.regs.migrations.modify l.home fun m => m.warm a.ctx (l.va / 65536) } }
  else s

/-- How a load reads its line: as an acquire does, from the home (R236), and for `ldro` in which cycle its thread began (R130). -/
structure Reading where
  acq : Bool := false
  begun : Option Nat := none

/-- Lines under the mapping are read at their home, and no copy of them is kept (notes/assumptions/90.md). -/
def Leaf.direct (l : Leaf) : Bool := l.share = 0 || l.cls = 1 || l.cls = 3 || l.cls = 4 || regionOf l.pa = 3

/-- The column's copy of the line that a read may use: the owner's, a MANAGED one, or an untracked one that an acquire does not pass
over and that is not older than an `ldro`'s thread (R130, R234, R236, R238). -/
def State.usable (s : State) (a : Actor) (l : Leaf) (r : Reading) : Option LineCopy :=
  match s.copy? a.col (l.pa / 128) with
  | some c =>
    if c.owned || (!l.direct && (c.managed || (!r.acq && r.begun.all fun b => c.sealedInk || decide (b ≤ c.since)))) then some c else none
  | none => none

/-- A line as fetched from its home into a column, marks included (R234, R405). -/
def State.newCopy (s : State) (a : Actor) (l : Leaf) (bytes : List Byte) : LineCopy :=
  { col := a.col, line := l.pa / 128, ctx := a.ctx, bytes := bytes, dirty := 0, owned := false, managed := decide (l.cls = 2)
    sealedInk := false, stamp := 0, poison := s.lineMarks (l.pa / 128), since := s.now }

/-- A byte of a MANAGED copy as `ldro` reads it: a byte the column has not written comes from the home, whose value is no older than
the thread (R130, R238). -/
def State.freshByte (s : State) (c : LineCopy) (i : Nat) : Byte :=
  if c.dirty.testBit i then c.bytes.getD i 0 else cellRead (w := 8) (c.line * 128 + i) s.mem

/-- A read of a range within one line, by a column under a mapping: its own copy where it may use one, else the home, whose
line it may keep untracked (R227, R234, R236 to R238). -/
def State.readLine (s : State) (a : Actor) (l : Leaf) (n : Nat) (r : Reading) : List Byte × State :=
  let line := l.pa / 128
  let off := l.pa % 128
  let s := s.touchL2 a l (s.copy? a.col line).isSome
  match s.usable a l r with
  | some c =>
    if c.managed && r.begun.isSome then ((List.range n).map fun i => s.freshByte c (off + i), s) else ((c.bytes.drop off).take n, s)
  | none =>
    if l.direct || l.home = a.col then s.homeRead a.tid l.pa n
    else
      let (b, t) := s.fetchLine a.tid line
      ((b.drop off).take n, t.putCopy (t.newCopy a l b))

/-- The bytes that a read would return are marked (R405, R406). -/
def State.readMarked (s : State) (a : Actor) (l : Leaf) (n : Nat) (r : Reading) : Bool :=
  match s.usable a l r with
  | some c => c.marked (l.pa % 128) n || (c.managed && r.begun.isSome && s.poisoned l.pa n)
  | none => s.poisoned l.pa n

/-- Virtual sectors written lose their reduction tags (R129, R137). -/
def State.clearTags (s : State) (ctx va n : Nat) : State :=
  { s with caches := { s.caches with
      tags := s.caches.tags.filter fun t => !(t.ctx = ctx && t.sector * 32 < va + n && va < t.sector * 32 + 32) } }

/-- A write of bytes within one line, by a column under a mapping (R234, R237, R238): ownership for a PACKAGE line, through to
the home for a SYSTEM line, the dirty mask for a MANAGED line away from its home. A column keeps no copy of a peer's line, of which
it fetches only the bytes it reads (R232, R392). -/
def State.writeLine (s : State) (a : Actor) (l : Leaf) (bytes : List Byte) : State :=
  let line := l.pa / 128
  let off := l.pa % 128
  let s := s.touchL2 a l (s.copy? a.col line).isSome
  let fetched : LineCopy × State :=
    let (b, t) := s.fetchLine a.tid line
    (t.newCopy a l b, t)
  if l.cls = 2 && l.share ≠ 0 && l.home ≠ a.col && regionOf l.pa ≠ 3 then
    let (c, t) := match s.copy? a.col line with
      | some c => (c, s)
      | none => fetched
    (t.putCopy (c.soil off bytes)).breakGroups a.tid line
  else if l.share = 1 && (l.cls = 0 || l.cls = 4) && regionOf l.pa ≠ 3 then
    let own : LineCopy × State := match s.copy? a.col line with
      | some c => if c.owned then (c, s) else fetched
      | none => fetched
    let c := own.1
    (own.2.putCopy { c.soil off bytes with
        owned := true, managed := false, stamp := if c.dirty = 0 then s.epoch a.col a.ctx else c.stamp }).breakGroups a.tid line
  else
    let t := s.homeWrite a.tid l.pa bytes
    match t.copy? a.col line with
    | some c => t.putCopy (c.patch off bytes)
    | none => t

/-- The column whose L2 an atomic accesses: the issuing column's for a COLUMN page, the home slice's for a PACKAGE page; none at a port
(R136, R416). -/
def State.touchSite (s : State) (a : Actor) (l : Leaf) : State :=
  if l.share ≤ 1 then s.touchL2 { a with col := l.home } l (s.copy? l.home (l.pa / 128)).isSome else s

/-- An atomic action at the location's site (R136, R238, R240): the issuing column's copy goes first, then an owner is recalled, which
may be the issuing column itself (R235), and the action is performed at the home. -/
def State.atSite (s : State) (a : Actor) (l : Leaf) (x : Access) : Effect × State :=
  let line := l.pa / 128
  let s := s.touchSite a l
  let s := match s.copy? a.col line with
    | some c =>
      if c.owned then s
      else
        let u := if c.dirty ≠ 0 then s.writeBack c else s.dropCopy a.col line
        { u with caches := { u.caches with scopes := s.caches.scopes } }
    | none => s
  let outside := l.share = 2 || (l.share = 1 && decide (l.home ≠ a.col))
  let s := if x.releases && outside then s.flushOlder a.col a.ctx else s
  let (old, s) := s.homeRead a.tid l.pa x.act.width
  let e := x.act.apply old
  match e.bytes with
  | some b => (e, s.homeWrite a.tid l.pa b)
  | none => (e, s)

/-! ## Ink loads (R144, R360) -/

/-- The region of a context that contains an address (R360). -/
def State.inkAt (s : State) (ctx va : Nat) : Option InkRegion :=
  s.inks.find? fun r => r.ctx = ctx && r.base ≤ va && va < r.base + r.limit

/-- The watermark: the lowest offset of a reservation not performed, or the tail (R361). -/
def InkRegion.watermark (r : InkRegion) : Nat := r.reservations.foldl (fun w q => min w q.off) r.tail

/-- Outcome of a load's test against its region: none to proceed, a cause, or a wait (0) for `ldw` (R132, R144, R360). -/
def State.inkTest (s : State) (ctx va n : Nat) (ldw : Bool) : Option Nat :=
  match s.inkAt ctx va with
  | none => some 0x0D
  | some r =>
    if r.rstate = 2 then some 0x0D
    else if r.rstate = 1 then none
    else if va - r.base + n ≤ r.watermark then none
    else if ldw then some 0 else some 0x0C

/-- A column has read bytes of an ink address: a replica page of the column that holds them goes to the end of the list, and without one
a column that is not the home of a sealed region has read a line at the home, and may ask for the page (R365, R367). -/
def State.touchReplica (s : State) (a : Actor) (va : Nat) : State :=
  match s.inkAt a.ctx va with
  | some r =>
    let q : Replica := ⟨a.col, a.ctx, r.region, (va - r.base) / 65536⟩
    if s.replicas.contains q then { s with replicas := s.replicas.erase q ++ [q] }
    else if r.rstate = 1 && r.home ≠ a.col && !r.readers.contains (a.col, q.page) then
      { s with inks := s.inks.map fun (k : InkRegion) =>
          if k.ctx = r.ctx && k.region = r.region then { k with readers := k.readers ++ [(a.col, q.page)] } else k }
    else s
  | none => s

/-! ## Results of an access -/

/-- What became of an access that passed its checks: performed with values, a fault found there, a wait for an empty result
line (R318) or for the watermark (R132). -/
inductive Performed where
  | done (vals : List Word)
  | fault (cause : Nat)
  | emptyLine (l : Leaf)
  | watermark (l : Leaf)
  | request
  | remote (l : Leaf)
  deriving DecidableEq, Repr

/-- The four words of `inkstat` for an address on a page of a class (R145, R360). -/
def State.inkWords (s : State) (ctx va cls : Nat) : List Word :=
  match (if cls = 1 then s.inkAt ctx va else none) with
  | none => [3, 0, 0, 0]
  | some r => [BitVec.ofNat 32 r.rstate, BitVec.ofNat 32 r.tail, BitVec.ofNat 32 r.watermark, BitVec.ofNat 32 r.limit]

/-- A RESULT line is empty (R318). -/
def State.lineEmpty (s : State) (line : Nat) : Bool := s.caches.empties.any fun p => p.line = line && decide (0 < p.count)

/-- The tag of a sector (R137). -/
def State.tagAt (s : State) (ctx sector : Nat) : Option Tag := s.caches.tags.find? fun t => t.ctx = ctx && t.sector = sector

/-- A queue that was never written: its entry is zero, so that it is one of context 0 (R326). -/
def WorkQueue.blank (q : Nat) : WorkQueue :=
  { idx := q, entry := 0, record := none, met1 := false, met2 := false, token := none, stopped := false, failing := none
    withdrawing := false }

/-- The work queue of that number. -/
def State.queue (s : State) (q : Nat) : WorkQueue := (s.queues.find? (·.idx = q)).getD (.blank q)

/-- The register of the doorbell window at an offset of region 0x04, if it is a queue of the context (R385). -/
def State.doorbell? (s : State) (ctx off : Nat) : Option WorkQueue :=
  if 0x100000 ≤ off && off < 0x140000 then
    let q := s.queue ((off - 0x100000) / 8)
    if field q.entry 8 6 = ctx then some q else none
  else none

/-- The tail of a queue (R326, R327). -/
def WorkQueue.tail (q : WorkQueue) : Nat := field q.entry 128 32

/-- A program's access to region 0x04: a read of a tail register it may reach, or the event that a write of one is; anything
else has no effect and reads zero (R385). -/
def State.deviceAccess (s : State) (a : Actor) (pa : Nat) (x : Access) : Performed × State :=
  let off := pa % 2 ^ 44
  match x.act, s.doorbell? a.ctx (off / 8 * 8) with
  | .load w _ _ _, some q => (.done (loadWords w false (((leBytes 8 q.tail).drop (off % 8)).take w)), s)
  | .load w _ _ _, none => (.done (loadWords w false (leBytes w 0)), s)
  | .store b, some q =>
    (.done [], if b.length = 8 then
      { s with agenda := s.agenda ++ [.tailWrite (.program a.ctx) q.idx (BitVec.ofNat 64 (leNat b))] } else s)
  | _, _ => (.done [], s)

/-- Bytes of an ink region were lost while their page had no frame (R362). -/
def State.lostAt (s : State) (ctx va n : Nat) : Bool :=
  s.inks.any fun r => r.ctx = ctx && r.lost.any fun p => decide (r.base % 2 ^ 57 + p.1 < va + n) && decide (va < r.base % 2 ^ 57 + p.1 + p.2)

/-- Some sector of the bytes at a leaf is marked poisoned, or the bytes of an ink page were lost (R362, R403). -/
def State.marked (s : State) (ctx : Nat) (l : Leaf) (n : Nat) : Bool :=
  s.poisoned l.pa n || (l.cls = 1 && s.lostAt ctx l.va n)

/-- How an access reads its line. -/
def State.readingOf (s : State) (a : Actor) (x : Access) : Reading :=
  { acq := x.acquires
    begun := match x.act with
      | .load _ _ _ 1 => some (((s.thread? a.tid).map Thread.begun).getD s.now)
      | _ => none }

/-- Performing an access at memory, its translation known and its checks passed (R125, R128 to R138, R144, R151, R318). -/
def State.performHere (s : State) (a : Actor) (x : Access) (l : Leaf) : Performed × State :=
  let va := x.va.toNat
  let n := x.act.width
  let line := l.pa / 128
  let s := s.freshResult a.ctx l
  if l.cls = 3 && regionOf l.pa = 4 then
    let s := if x.releases then (s.release a.col a.ctx 2).flushOlder a.col a.ctx else s
    let (p, s) := s.deviceAccess a l.pa x
    (p, if x.acquires then s.acquire a.col else s)
  else if l.cls = 4 && s.lineEmpty line then (.emptyLine l, s)
  else
    match x.act with
    | .load w sx _ form =>
      match (if l.cls = 1 then s.inkTest a.ctx va n (decide (form = 2)) else none) with
      | some 0 => (.watermark l, s)
      | some c => (.fault c, s)
      | none =>
        let r := s.readingOf a x
        if s.readMarked a l n r || (l.cls = 1 && s.lostAt a.ctx l.va n) then (.fault 0x0F, s)
        else
          let s := if l.cls = 1 then s.touchReplica a va else s
          let s := if (x.acquires || l.cls = 4) && l.scope ≠ 0 then s.acquireFor a.col line else s
          let (b, s) := s.readLine a l n r
          (.done (loadWords w sx b), s)
    | .store b =>
      let s := if x.releases then s.release a.col a.ctx l.scope else s
      let s := if x.releases && l.scope = 2 && decide (l.home ≠ a.col) then s.flushOlder a.col a.ctx else s
      (.done [], (s.writeLine a l b).clearTags a.ctx va n)
    | .append _ _ => (.request, s)
    | .inkstat _ =>
      let sealedRead := l.cls = 1 && (match s.inkAt a.ctx va with | some r => r.rstate = 1 | none => false)
      (.done (s.inkWords a.ctx va l.cls), if sealedRead && l.scope ≠ 0 then s.acquire a.col else s)
    | act =>
      if s.poisoned l.pa n then (.fault 0x0F, s)
      else
        let sector := va / 32
        let conflict := match act, s.tagAt a.ctx sector with
          | .red aop aty _, some t => !(t.aop = aop && t.aty = aty)
          | _, _ => false
        if conflict then (.fault 0x0E, s)
        else
          let s := if x.releases then s.release a.col a.ctx l.scope else s
          let (e, s) := s.atSite a l x
          if e.misuse then (.fault 0x15, s)
          else
            let s := match act with
              | .red aop aty _ =>
                if (s.tagAt a.ctx sector).isSome then s
                else { s with caches := { s.caches with tags := ⟨a.ctx, sector, aop, aty⟩ :: s.caches.tags } }
              | .atomic _ _ _ _ _ => s.clearTags a.ctx va n
              | _ => s
            let s := if x.acquires && l.scope ≠ 0 then s.acquireFor a.col line else s
            (.done e.vals, s)

/-- The column's copy of the line answers the access: a load that may use it, or a store that stays in the column, to an owned line or
a MANAGED one (R234, R236 to R238). -/
def LineCopy.answers (c : LineCopy) (x : Access) : Bool :=
  c.owned || (if x.act.isLoad then c.managed || !x.acquires else x.act.isStore && c.managed)

/-- The access is a request to the second tier or to a peer that nothing in the column answers (R237, R240, R390, R392). -/
def State.goesOut (s : State) (a : Actor) (x : Access) (l : Leaf) : Bool :=
  (regionOf l.pa = 1 || regionOf l.pa = 3) && !x.act.isAppend && !x.act.isInkstat &&
    !(match s.copy? a.col (l.pa / 128) with | some c => c.answers x | none => false)

/-- A request that goes out has its completion later (R390, R392); any other access is performed. -/
def State.performMem (s : State) (a : Actor) (x : Access) (l : Leaf) : Performed × State :=
  if s.goesOut a x l then (.remote l, s) else s.performHere a x l

/-- Performing an access at the team's scratchpad (R120, R137): it carries no tags. -/
def State.performScratch (s : State) (a : Actor) (x : Access) : Performed × State :=
  match s.team? a.team with
  | none => (.done [], s)
  | some t =>
    if x.act.isInkstat then (.done [3, 0, 0, 0], s) else
    let off := x.va.toNat - windowBase
    let n := x.act.width
    let marked := t.scratchPoison.any fun k => k * 32 < off + n && off < k * 32 + 32
    if marked && !x.act.isStore then (.fault 0x0F, s)
    else
      let e := x.act.apply (readBytes t.scratch off n)
      if e.misuse then (.fault 0x15, s)
      else
        match e.bytes with
        | none => (.done e.vals, s)
        | some b =>
          (.done e.vals, s.setTeam { t with
            scratch := writeBytes t.scratch off b
            scratchPoison := t.scratchPoison.filter fun k => !(off ≤ k * 32 && k * 32 + 32 ≤ off + b.length) })

/-! ## The checks before an access (R122) -/

/-- The outcome of the checks that need no page entry, and of the lookup. -/
inductive Lookup where
  | scratch
  | leaf (l : Leaf)
  | page (f : WalkFail)
  | fault (cause : Nat) (addr : DWord)
  deriving DecidableEq, Repr

/-- A leaf's level. -/
def Leaf.level (l : Leaf) : Nat := if l.size = 2 ^ 30 then 2 else if l.size = 2 ^ 21 then 1 else 0

/-- The translation gives a DEVICE page. -/
def onDevicePage : Except WalkFail Leaf → Bool
  | .ok l => l.cls = 3
  | .error _ => false

/-- Items 1 to 3 of R122 for a range whose page translates as `tr` (R120, R123): `align` is its alignment, or 0 where items 2
and 3 are not tested; `deviceOk` when the access may be made on a DEVICE page (R128). -/
def State.lookupBy (s : State) (tr : Except WalkFail Leaf) (a : Actor) (va : DWord) (n align : Nat) (write deviceOk : Bool) : Lookup :=
  let v := va.toNat
  let size := match s.team? a.team with | some t => t.scratchSize | none => 0
  if !canonical va then .fault 0x07 va
  else if inWindow v && windowBase + size < v + n then .fault 0x07 (BitVec.ofNat 64 (max v (windowBase + size)))
  else if align ≠ 0 && v % align ≠ 0 then .fault 0x06 va
  else if align ≠ 0 && !inWindow v && !deviceOk && onDevicePage tr then .fault 0x06 va
  else if align ≠ 0 && s.lockConflict a.team (lockPlace v).1 (lockPlace v).2 n write then .fault 0x0A va
  else if inWindow v then .scratch
  else
    match tr with
    | .error f => .page f
    | .ok l => if write && !l.w && l.cls ≠ 1 then .page ⟨l.level, 3⟩ else .leaf l

/-- Items 1 to 3 of R122 on the page's present translation. -/
def State.lookup (s : State) (a : Actor) (va : DWord) (n align : Nat) (write deviceOk : Bool) : Lookup :=
  s.lookupBy (s.translate a.ctx va.toNat) a va n align write deviceOk

/-- The scope record of a context's line in a column (R239, R374). -/
def State.scopeRecord (s : State) (ctx col line : Nat) : Option Nat :=
  (s.caches.scopes.find? fun r => r.ctx = ctx && r.col = col && r.line = line).map ScopeRecord.share

/-- Setting the scope record (R239). -/
def State.setScope (s : State) (ctx col line share : Nat) : State :=
  { s with caches := { s.caches with
      scopes := ⟨ctx, col, line, share⟩ :: s.caches.scopes.filter fun r => !(r.ctx = ctx && r.col = col && r.line = line) } }

/-- An access is to report a scope mismatch, for which its column has no room: it waits (R239, R413). -/
def State.reportHeld (s : State) (a : Actor) (l : Leaf) (sync : Bool) : Bool :=
  sync && l.cls ≠ 3 && (s.context a.ctx).smrep && s.recordsFull a.col && (s.scopeRecord a.ctx a.col (l.pa / 128)).any (· ≠ l.share)

/-- Items 4 to 6 of R122 and the DEVICE-page rules, which need the entry: a cause, or none with the scope record updated or a
report written (R128, R239). -/
def State.entryCheck (s : State) (a : Actor) (va : DWord) (l : Leaf) (sync deviceOk inkWrite : Bool) : Option Nat × State :=
  let line := l.pa / 128
  if l.cls = 3 && !deviceOk then (some 0x06, s)
  else if l.share = 0 && l.owner ≠ a.col then (some 0x08, s)
  else if l.cls = 1 && inkWrite then (some 0x0B, s)
  else if sync && l.cls ≠ 3 then
    match s.scopeRecord a.ctx a.col line with
    | none => (none, s.setScope a.ctx a.col line l.share)
    | some r =>
      if r = l.share then (none, s)
      else if (s.context a.ctx).smrep then
        (none, (s.record { s.actorRecord a 7 0x09 false with addr := va, item := r + 4 * l.share }).setScope a.ctx a.col line l.share)
      else (some 0x09, s)
  else (none, s)

/-- The access may be made on a DEVICE page (R128). -/
def Action.deviceOk (a : Action) : Bool := ((a.isLoad || a.isStore) && (a.width = 4 || a.width = 8)) || a.isInkstat || a.isAppend

/-- The entry checks of an access (R122, R128), and after the share violation those of `append` against its region (R139, R360,
notes/assumptions/59.md). -/
def State.accessCheck (s : State) (a : Actor) (x : Access) (l : Leaf) : Option Nat × State :=
  match s.entryCheck a x.va l x.synchronises x.act.deviceOk x.act.writes with
  | (some cause, s) => (some cause, s)
  | (none, s) =>
    if x.act.isAppend && l.cls ≠ 1 then (some 0x0B, s)
    else if x.act.isAppend && (s.inkAt a.ctx x.va.toNat).isNone then (some 0x0D, s)
    else (none, s)

/-! ## Accesses in flight -/

/-- The value of a performed access waits to be written, a fault to be found, or the operation waits (R24, R124). -/
def stageOf (x : Access) (now : Nat) : Performed → Stage
  | .done vals => .ready (x.act.dst.zip vals) false
  | .fault c => .failed c 0 none true
  | .emptyLine l => .emptyLine x l now
  | .watermark l => .watermark x l
  | .remote l => .remote x l now
  | .request => match x.act with | .append ws _ => .appendRequest x.va ws | _ => .ready [] false

/-- The access waits in the operand log for its page (R123). -/
def Stage.isLogged : Stage → Bool
  | .logged _ _ => true
  | .gredLogged _ ks => !ks.isEmpty
  | _ => false

/-- The access waits to be performed: logged, behind another one, or at a memory controller. -/
def Stage.access? : Stage → Option Access
  | .logged x _ => some x
  | .behind x _ => some x
  | .emptyLine x _ _ => some x
  | .watermark x _ => some x
  | .remote x _ _ => some x
  | .gredLogged p _ => some ⟨.store (List.replicate (4 * p.nel) 0), p.dst, 0⟩
  | _ => none

/-- An access that waits and acquires, or will if its location asks for it: a load of a RESULT page, which acquires what the line's
command published, and an `inkstat`, which may read SEALED (R145, R230). Of a load whose page has no mapping yet nothing is
known (notes/assumptions/73.md). -/
def Stage.mayAcquire : Stage → Bool
  | .emptyLine x _ _ => x.act.isLoad
  | .behind x (some l) => x.act.isInkstat || (x.act.isLoad && l.cls = 4)
  | .behind x none => x.act.isInkstat
  | .logged x _ => x.act.isInkstat
  | .remote x l _ => x.act.isLoad && l.cls = 4
  | _ => false

/-- The operation has something to perform in memory (R229): an access that waits, an append under way, or a traversal whose record's
page is awaited (R184). -/
def Stage.pends (g : Stage) : Bool :=
  g.access?.isSome ||
    match g with
    | .appendRequest _ _ => true
    | .appendData _ _ _ => true
    | .traverse t => t.token.isSome && t.record.isNone
    | _ => false

/-- Some byte of the access lies on the page. -/
def Access.onPage (y : Access) (page : Nat) : Bool :=
  y.va.toNat / 65536 ≤ page && page ≤ (y.va.toNat + (y.act.width - 1)) / 65536

/-- The two accesses share a byte, by their virtual addresses (DESIGN CHOICE, notes/assumptions/87.md). -/
def Access.overlaps (x y : Access) : Bool :=
  y.va.toNat < x.va.toNat + x.act.width && x.va.toNat < y.va.toNat + y.act.width

/-- The address lies on a DEVICE page. -/
def State.onDevice (s : State) (ctx va : Nat) : Bool := !inWindow va && onDevicePage (s.translate ctx va)

/-- The address lies on a DEVICE page, or on one that is not mapped yet. -/
def State.mayBeDevice (s : State) (ctx va : Nat) : Bool :=
  !inWindow va && (match s.translate ctx va with | .ok l => l.cls = 3 | .error _ => true)

/-- A new access of the thread must follow an earlier operation: it is a release and the operation has something to perform; the
operation's access is an acquire or may be one, shares a byte with it, or is logged for its page; or both lie on DEVICE pages (R123, R125, R128,
R229, R230). -/
def State.follows (s : State) (x : Access) (o : Op) : Bool :=
  (x.releases && o.stage.pends) ||
    match o.stage.access? with
    | some y =>
      y.acquires || o.stage.mayAcquire || (o.stage.isLogged && y.onPage (x.va.toNat / 65536)) || x.overlaps y ||
        (s.onDevice o.ctx x.va.toNat && s.mayBeDevice o.ctx y.va.toNat)
    | none => false

/-- A `gred` command that a thread issued, before its instruction of that number where one is given, and that its home has not accepted:
a write of the thread that is not performed (R395). -/
def GredCmd.waitsFor (g : GredCmd) (tid : Nat) (before : Option Nat) : Bool :=
  !g.accepted && g.issuers.any fun p => p.1 = tid && before.all fun n => decide (p.2 < n)

/-- Some earlier `gred` command of the thread is not accepted yet (R395). -/
def State.gredWaits (s : State) (tid : Nat) (before : Option Nat) : Bool := s.engines.greds.any (·.waitsFor tid before)

/-- An access must follow an earlier `gred` command of its thread: as a release, or because it touches the result row (R125, R395). -/
def State.followsGred (s : State) (tid : Nat) (before : Option Nat) (x : Access) : Bool :=
  s.engines.greds.any fun g => g.waitsFor tid before &&
    (x.releases || (x.va.toNat < g.dst.toNat + 4 * g.nel && g.dst.toNat < x.va.toNat + x.act.width))

/-- An earlier operation or `gred` command of the thread that a new access must follow (R123, R125, R128, R229, R395). -/
def State.mustFollow (s : State) (tid : Nat) (x : Access) : Bool :=
  s.ops.any (fun o => o.tid = tid && s.follows x o) || s.followsGred tid none x

/-- The access goes into the operand log behind an earlier one of its thread to its page (R123). -/
def State.logsBehind (s : State) (tid : Nat) (x : Access) : Bool :=
  s.ops.any fun o => o.tid = tid && o.stage.isLogged && (match o.stage.access? with | some y => y.onPage (x.va.toNat / 65536) | none => false)

/-- The pages for which an operation has a place in the operand log: those of its access that were not mapped for it, or the page of
the entry it stands behind (R123, R346). -/
def State.logPages (s : State) (o : Op) : List Nat :=
  match o.stage with
  | .logged x _ => [x.va.toNat / 65536]
  | .gredLogged p _ =>
    let first := p.dst.toNat / 65536
    let before : State := { s with ops := s.ops.takeWhile (·.id ≠ o.id) }
    ((List.range ((p.dst.toNat + 4 * p.nel - 1) / 65536 + 1 - first)).map (first + ·)).filter fun v =>
      (match s.translate o.ctx (v * 65536) with | .ok l => !l.w | .error _ => true) ||
        before.logsBehind o.tid ⟨.store [], BitVec.ofNat 64 (v * 65536), 0⟩
  | .behind x _ => if { s with ops := s.ops.takeWhile (·.id ≠ o.id) }.logsBehind o.tid x then [x.va.toNat / 65536] else []
  | .traverse t => if t.token.isSome && t.record.isNone then [t.va.toNat / 65536] else []
  | _ => []

/-- Entries of a core's operand log: one for each issue and page (R123, R346). -/
def State.logEntries (s : State) (col core : Nat) : List (Nat × Nat) :=
  ((s.ops.filter fun o => o.col = col && o.core = core).flatMap fun o => (s.logPages o).map fun v => (o.stroke, v)).eraseDups

/-- An issue that needs a place in the operand log while all 64 are taken stalls (R123). -/
def State.logFull (s : State) (th : Thread) (stroke : Nat) (va : DWord) : Bool :=
  let es := s.logEntries th.col th.core
  decide (64 ≤ es.length) && !es.contains (stroke, va.toNat / 65536)

/-- The effect of issuing an access (R122 to R125): a precise fault, a place in the operand log, or the access performed with
its results waiting to be written. -/
def State.issueAccess (s : State) (c : Issue) (th : Thread) (h : Head) (x : Access) (align : Nat) : State :=
  let a := th.actor
  match s.lookupBy (s.pageAt c a.ctx x.va.toNat) a x.va x.act.width align x.act.writes x.act.deviceOk with
  | .fault cause addr => s.raise c th cause 0 addr
  | .page f =>
    if s.logFull th c.stroke x.va then s.setThread (th.stall c h s.now)
    else
      let (k, s) := s.pageFault th.ctx th.col th.core x.va x.act.kind f
      leasing h x.act.dst (.logged x k) s c th
  | .scratch =>
    if x.act.isAppend then s.raise c th 0x0B 0 x.va
    else if s.mustFollow th.id x then leasing h x.act.dst (.behind x none) s c th
    else
      let (p, s) := s.performScratch a x
      leasing h x.act.dst (stageOf x s.now p) s c th
  | .leaf l =>
    if s.reportHeld a l x.synchronises then s.setThread (th.stall c h s.now)
    else match s.accessCheck a x l with
    | (some cause, s) => s.raise c th cause 0 x.va
    | (none, s) =>
      if s.mustFollow th.id x then
        (if s.logsBehind th.id x && s.logFull th c.stroke x.va then s.setThread (th.stall c h s.now)
         else leasing h x.act.dst (.behind x (some l)) s c th)
      else
        let (p, s) := s.performMem a x l
        leasing h x.act.dst (stageOf x s.now p) s c th

/-- An earlier operation of the thread that this one must still follow (R123, R125). -/
def State.mustFollowOp (s : State) (o : Op) (x : Access) : Bool :=
  (s.ops.takeWhile (·.id ≠ o.id)).any (fun p => p.tid = o.tid && s.follows x p) || s.followsGred o.tid (some o.id) x

/-- Performing an access that waited for its page, on its new translation (R350, R351): its new stage. -/
def State.replay (s : State) (o : Op) (x : Access) : State :=
  let a := o.actor
  if s.mustFollowOp o x then s.setOp { o with stage := .behind x none }
  else match s.lookup a x.va x.act.width 0 x.act.writes x.act.deviceOk with
  | .fault cause addr => s.setOp { o with stage := .failed cause 0 (some addr) true }
  | .page f =>
    let (k, s) := s.pageFault o.ctx o.col o.core x.va x.act.kind f
    s.setOp { o with stage := .logged x k }
  | .scratch =>
    let (p, s) := s.performScratch a x
    s.setOp { o with stage := stageOf x s.now p }
  | .leaf l =>
    if s.reportHeld a l x.synchronises then s.setOp { o with stage := .behind x none }
    else match s.accessCheck a x l with
    | (some cause, s) => s.setOp { o with stage := .failed cause 0 none true }
    | (none, s) =>
      let (p, s) := s.performMem a x l
      s.setOp { o with stage := stageOf x s.now p }

/-- Performing an access that waited behind others, under the mapping it was issued under and was checked against (R122, R346, R347). -/
def State.perform (s : State) (o : Op) (x : Access) (l : Leaf) : State :=
  let (p, s) := s.performMem o.actor x l
  s.setOp { o with stage := stageOf x s.now p }

/-- Performing an access that waits at a home, under the mapping it was issued under (R347). -/
def State.retry (s : State) (o : Op) (x : Access) (l : Leaf) (since : Nat) : State :=
  let (p, s) := s.performHere o.actor x l
  s.setOp { o with stage := stageOf x since p }

/-- A barrier of a team after an arrival of count `c` (R150); an unconfigured one is unchanged. -/
def Barrier.arrive (b : Barrier) (c : Nat) : Barrier :=
  if b.expected = 0 then b
  else
    let (p, q) := Machine.arrive b.expected b.pending c
    { b with phase := (b.phase + p) % 2 ^ 16, pending := q }

/-- Changing one barrier of a team, resident or saved. -/
def State.onBarrier (s : State) (team b : Nat) (f : Barrier → Barrier) : State :=
  match s.team? team with
  | some t => s.setTeam { t with barriers := t.barriers.modify b f }
  | none =>
    { s with sched := { s.sched with saved := s.sched.saved.map fun (v : SavedTeam) =>
        if v.team.id = team then { v with team := { v.team with barriers := v.team.barriers.modify b f } } else v } }

/-- Earlier accesses of the operation's thread that are not performed (R229). -/
def State.earlierWaits (s : State) (o : Op) : Bool :=
  (s.ops.takeWhile (·.id ≠ o.id)).any (fun p => p.tid = o.tid && p.stage.pends) || s.gredWaits o.tid (some o.id)

/-- An arrival that waited for its thread's earlier accesses acts (R222, R229). -/
def State.arriveLate (s : State) (o : Op) (b c : Nat) : State :=
  if s.earlierWaits o then s else (s.onBarrier o.team b fun q => q.arrive c).dropOp o.id

/-- Accesses that wait behind others, at an empty line or for a watermark are tried again, in issue order (R123, R132, R318). -/
def State.wake (s : State) : State :=
  s.ops.foldl (fun t o =>
    match o.stage with
    | .behind x (some l) => if t.mustFollowOp o x then t else t.perform o x l
    | .behind x none => if t.mustFollowOp o x then t else t.replay o x
    | .emptyLine x l k => t.retry o x l k
    | .watermark x l => t.retry o x l t.now
    | _ => t) s

end Sys2Proof.Machine
end

