-- ==== Sys2Proof/Machine/MemInstr.lean ====
section
/-! DEFINITION. Loads, stores, prefetch, fences, MANAGED maintenance, atomics, reductions, exact sums and atomic groups
(R127 to R138, R146, R147). -/

namespace Sys2Proof.Machine

/-! ## Addresses and data of format M (R62) -/

/-- The effective address (R62). -/
def effAddr (th : Thread) (o : MF) : DWord :=
  th.pair o.a.toNat + (if o.indexed then (th.reg o.b.toNat).signExtend 64 else o.off.signExtend 64)

/-- Bytes of a width code (R62). -/
def widBytes (w : BitVec 3) : Nat :=
  match w.toNat with
  | 0 => 1 | 1 => 1 | 2 => 2 | 3 => 2 | 4 => 8 | 5 => 16 | _ => 4

/-- The width code sign-extends (R128). -/
def widSigned (w : BitVec 3) : Bool := w = 0 || w = 2

/-- The bytes of words, little-endian. -/
def bytesOfWords (ws : List Word) : List Byte := ws.flatMap fun w => leBytes 4 w.toNat

/-- The bytes a store writes, read at issue (R129). -/
def storeBytes (s : State) (th : Thread) (o : MF) : List Byte :=
  let ws := if isReg o.t then (transferRegs o).map th.reg else [srcWord s th o.t]
  (bytesOfWords ws).take (widBytes o.wid)

/-- The access of a load. -/
def loadAccess (th : Thread) (o : MF) (form : Nat) : Access :=
  ⟨.load (widBytes o.wid) (widSigned o.wid) (transferRegs o) form, effAddr th o, o.ord.toNat⟩

/-! ## Earlier accesses (R133, R229) -/

/-- Accesses of the thread that are not yet performed (R133); one whose fault has not been found counts as such, and so does a `gred`
command that is not accepted (R395). -/
def State.unperformed (s : State) (tid : Nat) : Bool :=
  s.gredWaits tid none || s.ops.any fun o => o.tid = tid &&
    match o.stage with
    | .failed _ _ _ mem => mem
    | g => g.pends

/-- The access reads its location. -/
def Action.reads : Action → Bool
  | .load _ _ _ _ => true
  | .atomic _ _ _ _ _ => true
  | .xrd _ _ _ => true
  | _ => false

/-- A read of the thread has no value yet (R229, R230). -/
def State.readsPend (s : State) (tid : Nat) : Bool :=
  s.ops.any fun o => o.tid = tid && (match o.stage.access? with | some y => y.act.reads | none => false)

/-! ## Atomic groups (R146, R147, R242) -/

/-- The word stands in a clause of class AGRP (R57). -/
def Issue.inGroup (c : Issue) : Bool := c.clause.hdr.cls = 6

/-- The buffered bytes of a group laid over bytes read from an address (R146). -/
def overlay (stores : List (DWord × List Byte × Leaf)) (va : Nat) (bytes : List Byte) : List Byte :=
  stores.foldl (fun bs st =>
    (List.range bs.length).map fun i =>
      if st.1.toNat ≤ va + i then (st.2.1[va + i - st.1.toNat]?).getD (bs.getD i 0) else bs.getD i 0) bytes

/-- An access of an atomic group (R146): its faults at the word, its wait for a page, or the leaf with the group after it. -/
inductive GroupStep where
  | fault (cause : Nat) (addr : Option DWord)
  | page (f : WalkFail)
  /-- An earlier access of the thread that it must follow is not performed yet, or its column has no room for its report. -/
  | later
  | ok (l : Leaf) (g : Group)
  deriving DecidableEq, Repr

/-- A group with nothing in it. -/
def Group.empty : Group := { lines := [], share := 0, stores := [], aborted := false }

/-- The checks of an access of a group (R122, R125, R146), with the state after the scope record's (R239). -/
def State.groupStep (s : State) (c : Issue) (th : Thread) (x : Access) : GroupStep × State :=
  match s.lookupBy (s.pageAt c th.ctx x.va.toNat) th.actor x.va x.act.width x.act.width x.act.writes x.act.deviceOk with
  | .fault c a => (.fault c (some a), s)
  | .scratch => (.fault 0x08 (some x.va), s)
  | .page f => (.page f, s)
  | .leaf l =>
    if l.cls ≠ 0 || 1 < l.share || (l.share = 0 && l.owner ≠ th.col) then (.fault 0x08 (some x.va), s)
    else
      let g := th.group.getD Group.empty
      let line := l.pa / 128
      if !g.lines.contains line && 4 ≤ g.lines.length then (.fault 0x1B none, s)
      else if s.mustFollow th.id x || s.reportHeld th.actor l x.synchronises then (.later, s)
      else match s.accessCheck th.actor x l with
      | (some cause, s) => (.fault cause (some x.va), s)
      | (none, s) =>
        (.ok l { g with lines := if g.lines.contains line then g.lines else g.lines ++ [line], share := max g.share l.share }, s)

/-- A page fault of a word that waits at its place (R146, R352): the record is posted and the thread waits. -/
def State.waitPage (s : State) (c : Issue) (th : Thread) (h : Head) (va : DWord) (kind form : Nat) (f : WalkFail) : State :=
  let (k, s) := s.pageFault th.ctx th.col th.core va kind f
  s.setThread (th.wait c h s.now (.page k va form))

/-- A load of an atomic group: its value is in place before the next word issues, and is what its registers hold from then on (R67,
R146). -/
def State.groupLoad (s : State) (c : Issue) (th : Thread) (h : Head) (o : MF) : State :=
  let x := loadAccess th o 0
  match s.groupStep c th x with
  | (.fault cause (some a), s) => s.raise c th cause 0 a
  | (.fault cause none, s) => s.raiseFree c th cause
  | (.page f, s) => s.waitPage c th h x.va 0 3 f
  | (.later, s) => s.setThread (th.stall c h s.now)
  | (.ok l g, s) =>
    if s.readMarked th.actor l x.act.width { acq := true } then leasing h x.act.dst (.failed 0x0F 0 none true) s c { th with group := some g }
    else
      let s := if x.acquires && l.share ≠ 0 then s.acquireFor th.col (l.pa / 128) else s
      let (b, s) := s.readLine th.actor l x.act.width { acq := true }
      let ws := loadWords x.act.width (widSigned o.wid) (overlay g.stores x.va.toNat b)
      s.setThread ((({ th with group := some g }).land (x.act.dst.zip ws) false).advance c h s.now)

/-- A store of an atomic group: its bytes are buffered (R146). -/
def State.groupStore (s : State) (c : Issue) (th : Thread) (h : Head) (o : MF) : State :=
  let va := effAddr th o
  let b := storeBytes s th o
  match s.groupStep c th ⟨.store b, va, o.ord.toNat⟩ with
  | (.fault cause (some a), s) => s.raise c th cause 0 a
  | (.fault cause none, s) => s.raiseFree c th cause
  | (.page f, s) => s.waitPage c th h va 1 3 f
  | (.later, s) => s.setThread (th.stall c h s.now)
  | (.ok l g, s) => s.setThread (({ th with group := some { g with stores := g.stores ++ [(va, b, l)] } }).advance c h s.now)

/-- Performing the buffered stores of a committing group, each under the mapping it was issued under (R147, R242, R347). -/
def State.commitStores (s : State) (a : Actor) : List (DWord × List Byte × Leaf) → State
  | [] => s
  | (va, b, l) :: r => (((s.writeLine a l b).clearTags a.ctx va.toNat b.length)).commitStores a r

/-- A thread's group that ends: another clause address or a commit starts the count of aborts anew (R147). -/
def Thread.endGroup (th : Thread) (head : DWord) (committed : Bool) : Thread :=
  { th with
    group := none, abortAt := head
    aborts := if committed then 0 else if th.abortAt = head then th.aborts + 1 else 1 }

/-- The group of a thread commits: its stores are performed, ordered as `.ar` at the widest scope among its lines (R147, R235, R242). -/
def State.commitGroup (s : State) (th : Thread) : State :=
  let g := th.group.getD Group.empty
  let s := (s.release th.col th.ctx g.share).commitStores th.actor g.stores
  if g.share = 0 then s else s.acquire th.col

/-- `tcom` (R147): it waits until the thread's earlier accesses are performed, unless the group has aborted. -/
def execTcom (h : Head) (o : XF) (s : State) : Host.Outcome State Fault Refusal :=
  issue (.tcom h o) h s fun s c th =>
    let done (s : State) (th : Thread) (b : Bool) : State :=
      s.setThread (((dstPred o.d b).foldl Thread.write th).advance c h s.now)
    if th.helper then done s { th with group := none } false
    else if (th.group.getD Group.empty).aborted then
      let th := th.endGroup c.clause.head false
      if 256 ≤ th.aborts then s.raiseFree c th 0x1B else done s th false
    else if s.unperformed th.id then s.setThread (th.wait c h s.now (.commit o.d))
    else done (s.commitGroup th) (th.endGroup c.clause.head true) true

/-! ## Loads, stores and prefetch -/

/-- `ld` (R128, R146). -/
def execLd (h : Head) (o : MF) (s : State) : Host.Outcome State Fault Refusal :=
  issue (.ld h o) h s fun s c th =>
    if c.inGroup then s.groupLoad c th h o
    else s.issueAccess c th h (loadAccess th o 0) (widBytes o.wid)

/-- `ldro` (R130): performed as `ld`, but for a copy of the line that is older than its thread. -/
def execLdro (h : Head) (o : MF) (s : State) : Host.Outcome State Fault Refusal :=
  issue (.ldro h o) h s fun s c th => s.issueAccess c th h (loadAccess th o 1) (widBytes o.wid)

/-- `ldw` (R132). -/
def execLdw (h : Head) (o : MF) (s : State) : Host.Outcome State Fault Refusal :=
  issue (.ldw h o) h s fun s c th => s.issueAccess c th h (loadAccess th o 2) (widBytes o.wid)

/-- `st` (R129, R146): nothing in a helper thread (R126). -/
def execSt (h : Head) (o : MF) (s : State) : Host.Outcome State Fault Refusal :=
  issue (.st h o) h s fun s c th =>
    if th.helper then s.setThread (th.advance c h s.now)
    else if c.inGroup then s.groupStore c th h o
    else s.issueAccess c th h ⟨.store (storeBytes s th o), effAddr th o, o.ord.toNat⟩ (widBytes o.wid)

/-- `pref` (R131): it changes no architectural state. -/
def execPref (h : Head) (o : MF) (s : State) : Host.Outcome State Fault Refusal :=
  issue (.pref h o) h s fun s c th => s.setThread (th.advance c h s.now)

/-! ## Fences and maintenance -/

/-- A deferred fault of an access is pending (R133). -/
def Thread.accessFault (th : Thread) : Bool := th.pending.any PendingFault.access

/-- A fault is delivered at an instruction in place of its completion: the earliest pending one, since they are delivered in issue
order (R124, R133, R160). -/
def State.deliverAt (s : State) (th : Thread) (pc head : DWord) : State :=
  match th.pending with
  | [] => s
  | f :: r =>
    s.takeTrap { th with pending := r, block := none }
      { cause := f.cause, sub := f.sub, addr := f.addr, deferred := true, pc := pc, head := head }

/-- The orderings of a fence at a scope: the release counted, the acquire's discards (R133, R235, R236). -/
def State.fenceAt (s : State) (th : Thread) (ord share : Nat) : State :=
  let s := if ord = 2 || ord = 3 then s.release th.col th.ctx share else s
  if (ord = 1 || ord = 3) && share ≠ 0 then s.acquire th.col else s

/-- SHARE at an address; scratchpad and an unmapped page count as COLUMN or narrower. -/
def State.shareAt (s : State) (ctx : Nat) (va : DWord) : Nat :=
  if inWindow va.toNat then 0 else match s.translate ctx va.toNat with | .ok l => l.scope | .error _ => 0

/-- What a fence waits for: every earlier access for a release, and the values of earlier reads for an acquire (R133, R229, R230). -/
def State.fenceWaits (s : State) (tid ord : Nat) : Bool :=
  ((ord = 2 || ord = 3) && s.unperformed tid) || ((ord = 1 || ord = 3) && s.readsPend tid)

/-- `fence` (R133). -/
def execFence (h : Head) (o : MF) (s : State) : Host.Outcome State Fault Refusal :=
  issue (.fence h o) h s fun s c th =>
    let va := effAddr th o
    let ord := o.ord.toNat
    let go (s : State) (share : Nat) : State :=
      if (ord = 2 || ord = 3) && th.accessFault then s.deliverAt th c.pc c.clause.head
      else if s.fenceWaits th.id ord then s.setThread (th.wait c h s.now (.fence va ord))
      else (s.fenceAt th ord share).setThread (th.advance c h s.now)
    match s.lookup th.actor va 1 0 false true with
    | .fault cause a => s.raise c th cause 0 a
    | .page f => s.waitPage c th h va 0 0 f
    | .scratch => go s 0
    | .leaf l =>
      if s.reportHeld th.actor l true then s.setThread (th.stall c h s.now)
      else match s.entryCheck th.actor va l true true false with
      | (some cause, s) => s.raise c th cause 0 va
      | (none, s) => go s l.scope

/-- The MANAGED copies of a column that lie within the part of a page covered by a range (R134). -/
def State.managedIn (s : State) (col ctx lo hi page : Nat) : List LineCopy :=
  let v := page * 65536
  match s.translate ctx v with
  | .error _ => []
  | .ok l =>
    if l.cls ≠ 2 then []
    else s.caches.copies.filter fun c =>
      let p := c.line * 128
      c.col = col && c.managed && l.pa ≤ p && p < l.pa + 65536 && decide (lo < v + (p - l.pa) + 128) && decide (v + (p - l.pa) < hi)

/-- Writing back a MANAGED copy's dirty bytes to its home; it stays, clean (R134, R238). -/
def State.cleanCopy (s : State) (c : LineCopy) : State :=
  ({ s with mem := mergeDirty s.mem (c.line * 128) c.dirty c.bytes, poison := mergeMarks s.poison c }).putCopy { c with dirty := 0 }

/-- `wbr` and `invr` over a range: `inv` discards the lines (R134). -/
def State.maintain (s : State) (th : Thread) (lo len : Nat) (inv : Bool) : State :=
  let pages := (List.range ((lo + len + 65535) / 65536 - lo / 65536)).map (lo / 65536 + ·)
  pages.foldl (fun t p =>
    (t.managedIn th.col th.ctx lo (lo + len) p).foldl (fun u c =>
      (if inv then u.writeBack c else u.cleanCopy c).breakGroups th.id c.line) t) s

/-- The shared effect of `wbr` and `invr`: nothing in a helper thread (R126); they wait for the thread's earlier stores, and are complete
once the writes are performed (R134). Pages that are not MANAGED are skipped, and so is the scratchpad window beyond the allocation
(notes/assumptions/60.md). -/
def maintenance (h : Head) (o : XF) (inv : Bool) (s : State) (c : Issue) (th : Thread) : State :=
  let va := th.pair o.a.toNat
  let len := (srcWord s th o.b).toNat
  if th.helper || len = 0 then s.setThread (th.advance c h s.now)
  else if !canonical va then s.raise c th 0x07 0 va
  else if s.unperformed th.id then s.setThread (th.wait c h s.now (.maintain va.toNat len inv))
  else (s.maintain th va.toNat len inv).setThread (th.advance c h s.now)

/-- `wbr` (R134). -/
def execWbr (h : Head) (o : XF) (s : State) : Host.Outcome State Fault Refusal :=
  issue (.wbr h o) h s (maintenance h o false)

/-- `invr` (R134). -/
def execInvr (h : Head) (o : XF) (s : State) : Host.Outcome State Fault Refusal :=
  issue (.invr h o) h s (maintenance h o true)

/-! ## Atomics, reductions and exact sums -/

/-- A source of an atomic, a pair for the 64-bit types (R135); an inline constant widens as its type asks (R28). -/
def atomSrc (s : State) (th : Thread) (o : XF) (c : BitVec 8) : DWord :=
  match fnAty o.fn with
  | 2 => srcTyped s th 2 c
  | 3 => srcPair s th c
  | 5 => (srcHalves s th .f16 c).zeroExtend 64
  | 6 => (srcHalves s th .bf16 c).zeroExtend 64
  | _ => (srcWord s th c).zeroExtend 64

/-- The destination registers of an atomic (R135). -/
def atomDst (o : XF) : List Nat := if atomWide o.fn then pairRegs o.d else wordRegs o.d

/-- Alignment of an atomic (R121). -/
def atomAlign (o : XF) : Nat := if atomWide o.fn then 8 else 4

/-- `atom` (R136): zero and no memory effect in a helper thread (R126). -/
def execAtom (h : Head) (o : XF) (s : State) : Host.Outcome State Fault Refusal :=
  issue (.atom h o) h s fun s c th =>
    if th.helper then leasingReady h (atomDst o) [0, 0] s c th
    else s.issueAccess c th h
      ⟨.atomic (fnAop o.fn) (fnAty o.fn) (atomSrc s th o o.b) 0 (atomDst o), th.pair o.a.toNat, fnOrd o.fn⟩ (atomAlign o)

/-- `cas` (R136): writes c where the location equals b. -/
def execCas (h : Head) (o : XF) (s : State) : Host.Outcome State Fault Refusal :=
  issue (.cas h o) h s fun s c th =>
    if th.helper then leasingReady h (atomDst o) [0, 0] s c th
    else s.issueAccess c th h
      ⟨.atomic 7 (fnAty o.fn) (atomSrc s th o o.c) (atomSrc s th o o.b) (atomDst o), th.pair o.a.toNat, fnOrd o.fn⟩
      (atomAlign o)

/-- `red` (R137). -/
def execRed (h : Head) (o : XF) (s : State) : Host.Outcome State Fault Refusal :=
  issue (.red h o) h s fun s c th =>
    if th.helper then s.setThread (th.advance c h s.now)
    else s.issueAccess c th h
      ⟨.red (fnAop o.fn) (fnAty o.fn) (atomSrc s th o o.b), th.pair o.a.toNat, fnOrd o.fn⟩ (atomAlign o)

/-- `xadd` (R138). -/
def execXadd (h : Head) (o : XF) (s : State) : Host.Outcome State Fault Refusal :=
  issue (.xadd h o) h s fun s c th =>
    if th.helper then s.setThread (th.advance c h s.now)
    else s.issueAccess c th h ⟨.xadd (srcWord s th o.b), th.pair o.a.toNat, fnOrd o.fn⟩ 64

/-- `xrd` (R138). -/
def execXrd (h : Head) (o : XF) (s : State) : Host.Outcome State Fault Refusal :=
  issue (.xrd h o) h s fun s c th =>
    if th.helper then leasingReady h (wordRegs o.d) [0] s c th
    else s.issueAccess c th h
      ⟨.xrd (o.fn.extractLsb' 5 2).toNat (o.fn.getLsbD 4) (wordRegs o.d), th.pair o.a.toNat, fnOrd o.fn⟩ 64

end Sys2Proof.Machine
end

