-- ==== Sys2Proof/Machine/Ink.lean ====
section
/-! DEFINITION. Ink regions (R139 to R145, R356 to R369): the four ink instructions, and the events at a region's home, in
the columns that hold replicas, and of system software that writes descriptors. -/

namespace Sys2Proof.Machine

/-! ## Regions -/

/-- The region of that number. -/
def State.ink? (s : State) (ctx region : Nat) : Option InkRegion := s.inks.find? fun r => r.ctx = ctx && r.region = region

/-- Replacing a region by its new record. -/
def State.setInk (s : State) (r : InkRegion) : State :=
  { s with inks := s.inks.map fun q => if q.ctx = r.ctx && q.region = r.region then r else q }

/-- The descriptor of a region as memory holds it (R357). -/
def InkRegion.desc (r : InkRegion) : Nat :=
  r.base * 2 ^ 192 + r.limit * 2 ^ 160 + r.tail * 2 ^ 128 + r.watermark * 2 ^ 96 + r.rmask * 2 ^ 64 + r.home * 2 ^ 11 +
    r.rstate * 2 + 1

/-- ITBASE of a context (R371). -/
def Context.itBase (c : Context) : Nat := field c.desc 256 64

/-- Writing bytes at a virtual address of a context at their homes, by the device; nothing where a page has no leaf. -/
def State.deviceStore (s : State) (ctx va : Nat) (bytes : List Byte) : State :=
  match s.translate ctx va with
  | .ok l => s.homeWrites s.nextId (bytes.length / 128 + 2) l.pa bytes
  | .error _ => s

/-- The memory copy of a region's descriptor is written (R356). -/
def State.writeInkCopy (s : State) (r : InkRegion) : State :=
  s.deviceStore r.ctx ((s.context r.ctx).itBase + 32 * r.region) (leBytes 32 r.desc)

/-- The memory copies of a context's descriptors are brought up to date at a launch boundary (R356). -/
def State.syncInks (s : State) (ctx : Nat) : State := (s.inks.filter (·.ctx = ctx)).foldl State.writeInkCopy s

/-- Replacing a region by its new record; its memory copy follows while no launch of the context runs (R356). -/
def State.putInk (s : State) (r : InkRegion) : State :=
  let s := s.setInk r
  if s.sched.launches.any (·.ctx = r.ctx) then s else s.writeInkCopy r

/-- A region enters FREEING: to a traversal under way it counts as not SEALED from then on (R306). -/
def State.freeingSeen (s : State) (r : InkRegion) : State :=
  { s with ops := s.ops.map fun (o : Op) =>
      match o.stage with
      | .traverse t =>
        if o.ctx = r.ctx && t.record.isSome then { o with stage := .traverse { t with freed := (r.base, r.limit) :: t.freed } } else o
      | _ => o }

/-- The region's state after its reservations changed: a seal or a free that waited for W = T goes on (R364, R368). -/
def State.settleInk (s : State) (r : InkRegion) : State :=
  if r.closing ≠ 0 && r.rstate ≠ 2 && decide (r.watermark = r.tail) then
    let s := if r.closing = 2 then s.freeingSeen r else s
    let q := if r.closing = 2 then { r with rstate := 2, closing := 0, retired := false } else { r with rstate := 1, closing := 0 }
    (s.setInk q).writeInkCopy q
  else s.setInk r

/-! ## Instructions -/

/-- `append` (R140): 0xFFFFFFFF and no reservation in a helper thread (R126). -/
def execAppend (h : Head) (o : XF) (s : State) : Host.Outcome State Fault Refusal :=
  issue (.append h o) h s fun s c th =>
    if th.helper then leasingReady h (wordRegs o.d) [0xFFFFFFFF] s c th
    else s.issueAccess c th h ⟨.append (srcRange th o.b o.fn.toNat) (wordRegs o.d), th.pair o.a.toNat, 0⟩ 0

/-- `inkstat` (R145). -/
def execInkstat (h : Head) (o : XF) (s : State) : Host.Outcome State Fault Refusal :=
  issue (.inkstat h o) h s fun s c th =>
    s.issueAccess c th h ⟨.inkstat (rangeRegs o.d 4), th.pair o.a.toNat, 0⟩ 0

/-- The region that `seal` and `inkfree` find by their address, after the checks of R122, R139 and R360, in that order
(notes/assumptions/59.md). -/
def State.findRegion (s : State) (c : Issue) (th : Thread) (h : Head) (va : DWord) (k : State → InkRegion → Leaf → State) :
    State :=
  match s.lookup th.actor va 1 0 false true with
  | .fault cause a => s.raise c th cause 0 a
  | .page f => s.waitPage c th h va 0 0 f
  | .scratch => s.raise c th 0x0B 0 va
  | .leaf l =>
    if l.share = 0 && l.owner ≠ th.col then s.raise c th 0x08 0 va
    else if l.cls ≠ 1 then s.raise c th 0x0B 0 va
    else match s.inkAt th.ctx va.toNat with
      | none => s.raise c th 0x0D 0 va
      | some r => k s r l

/-- `seal` (R142): complete at once on a SEALED region, else it waits from its request's arrival until the region is sealed. -/
def execSeal (h : Head) (o : XF) (s : State) : Host.Outcome State Fault Refusal :=
  issue (.seal h o) h s fun s c th =>
    let va := th.pair o.a.toNat
    if th.helper then s.setThread (th.advance c h s.now)
    else s.findRegion c th h va fun s r _ =>
      if r.rstate = 2 then s.raise c th 0x0D 0 va
      else if r.rstate = 1 then s.setThread (th.advance c h s.now)
      else s.setThread (th.wait c h s.now (.sealing r.region false va))

/-- The address lies in the region. -/
def InkRegion.holds (r : InkRegion) (va : Nat) : Bool := r.base ≤ va && va < r.base + r.limit

/-- An access of the thread holds back the request of its `seal` or `inkfree` of a region, which acts as a release (R142, R229, R369); a
load that waits for that region's watermark is not held against it, for the request ends that wait (R132). -/
def State.requestHeld (s : State) (tid region : Nat) : Bool :=
  s.gredWaits tid none || s.ops.any fun o => o.tid = tid &&
    match o.stage with
    | .watermark x _ => !((s.ink? o.ctx region).any fun r => r.holds x.va.toNat)
    | .failed _ _ _ mem => mem
    | g => g.pends

/-- The request of an `inkfree` at the home: the region is closed to appends, and FREEING once W = T (R143). -/
def State.freeAtHome (s : State) (r : InkRegion) : State := if r.rstate = 2 then s else s.settleInk { r with closing := 2 }

/-- `inkfree` (R143): its request closes the region to appends; it waits until the region reopens. A region that is freed at once ends
the waits of `ldw` (R132). -/
def execInkfree (h : Head) (o : XF) (s : State) : Host.Outcome State Fault Refusal :=
  issue (.inkfree h o) h s fun s c th =>
    let va := th.pair o.a.toNat
    if th.helper then s.setThread (th.advance c h s.now)
    else s.findRegion c th h va fun s r _ =>
      if s.requestHeld th.id r.region then s.setThread (th.wait c h s.now (.freeing r.region false va))
      else ((s.freeAtHome r).setThread (th.wait c h s.now (.freeing r.region true va))).wake

/-! ## At the region's home -/

/-- One request of a stroke at the home (R140): its op with an offset, a refusal, or a fault; `full` holds the regions that
already refused a lane of this stroke. -/
def State.appendOne (acc : State × List Nat) (o : Op) : State × List Nat :=
  let (s, full) := acc
  match o.stage with
  | .appendRequest va ws =>
    match s.inkAt o.ctx va.toNat with
    | none => (s.setOp { o with stage := .failed 0x0D 0 none true }, full)
    | some r =>
      if r.rstate = 2 then (s.setOp { o with stage := .failed 0x0D 0 none true }, full)
      else if r.rstate = 1 || r.closing ≠ 0 then (s.setOp { o with stage := .failed 0x0B 0 none true }, full)
      else if full.contains r.region || decide (r.limit < r.tail + 4 * ws.length) then
        (s.setOp { o with stage := .ready (o.dst.map fun d => (d, 0xFFFFFFFF)) false }, r.region :: full)
      else
        ((s.setOp { o with stage := .appendData r.region r.tail ws }).setInk
          { r with tail := r.tail + 4 * ws.length, reservations := r.reservations ++ [⟨o.id, r.tail, 4 * ws.length⟩] }, full)
  | _ => acc

/-- APPEND_REQUEST_AT_HOME: the requests of one stroke's issue, in lane order (R140). -/
def execAppendRequestAtHome (stamp : Nat) (s : State) : Host.Outcome State Fault Refusal :=
  .next ((s.ops.filter (·.stroke = stamp)).foldl State.appendOne (s, [])).1

/-- The reservation of an operation is performed, with its bytes (R361). -/
def State.endReservation (s : State) (o : Op) (region : Nat) : State :=
  match s.ink? o.ctx region with
  | some r => s.settleInk { r with reservations := r.reservations.filter (·.op ≠ o.id) }
  | none => s

/-- The byte at an offset of a region was declared lost while its page had no frame (R362). -/
def InkRegion.lostByte (r : InkRegion) (off : Nat) : Bool := r.lost.any fun p => p.1 ≤ off && off < p.1 + p.2

/-- The bytes of a reservation that are not lost, page by page: the first one whose page has no valid leaf, if any. -/
def State.firstUnmapped (s : State) (r : InkRegion) (off n : Nat) : Option (Nat × WalkFail) :=
  ((List.range n).filter fun i => i = 0 || (r.base + off + i) % 65536 = 0).findSome? fun i =>
    if r.lostByte (off + i) then none
    else match s.translate r.ctx (r.base + off + i) with
    | .ok _ => none
    | .error f => some (r.base + off + i, f)

/-- Writing a reservation's bytes at the homes of their lines, page by page. -/
def State.storeInk (s : State) (ctx va : Nat) (bytes : List Byte) : State :=
  let first := min bytes.length (65536 - va % 65536)
  let t := match s.translate ctx va with
    | .ok l => s.homeWrites s.nextId 3 l.pa (bytes.take first)
    | .error _ => s
  if bytes.length ≤ first then t
  else match t.translate ctx (va + first) with
    | .ok l => t.homeWrites t.nextId 3 l.pa (bytes.drop first)
    | .error _ => t

/-- The bytes of a reservation on marked sectors of its lines (R362). -/
def State.spoiledBytes (s : State) (ctx va n : Nat) : List Nat :=
  (List.range n).filter fun i => match s.translate ctx (va + i) with | .ok l => s.poisoned l.pa 1 | .error _ => false

/-- Marking the sectors of lost bytes whose page has a frame. -/
def State.markLost (s : State) (ctx va : Nat) (lost : List Nat) : State :=
  lost.foldl (fun s i => match s.translate ctx (va + i) with | .ok l => s.markPoison l.pa 1 | .error _ => s) s

/-- A reservation ends: its bytes are performed, and its offset is the result. With bytes lost those are zero and marked poisoned, W
passes them, the lane faults, a translation fault at its first such byte, and a record is written (R350, R361, R362, R412). -/
def State.landAppend (s : State) (o : Op) (r : InkRegion) (off : Nat) (ws : List Word) (lost : List Nat) (cause : Nat) : State :=
  let va := r.base + off
  let bytes := (bytesOfWords ws).mapIdx fun i b => if lost.contains i then 0 else b
  let t := (s.storeInk o.ctx va bytes).markLost o.ctx va lost
  if lost.isEmpty then
    ((t.setOp { o with stage := .ready (o.dst.map fun d => (d, BitVec.ofNat 32 off)) false }).endReservation o r.region).wake
  else
    let unplaced := lost.filter fun i => match s.translate o.ctx (va + i) with | .ok _ => false | .error _ => true
    let kept := r.lost.filter fun p => p.1 < off || off + 4 * ws.length ≤ p.1
    let t := t.setInk { r with lost := kept ++ unplaced.map fun i => (off + i, 1) }
    let first : DWord := BitVec.ofNat 64 (va + lost.headD 0)
    (((t.record { t.actorRecord o.actor 6 cause true with addr := first, item := lost.length }).setOp
      { o with stage := .failed cause 0 (if cause = 0x07 then some first else none) true }).endReservation o r.region).wake

/-- APPEND_DATA_PERFORMED: the reservation's bytes land, the watermark may advance, and the offset is the result; a page fault
only delays it, and so does the record of bytes that were lost, until it has room (R361, R362, R413). -/
def execAppendDataPerformed (op : Nat) (s : State) : Host.Outcome State Fault Refusal :=
  .next <| match s.op? op with
  | some o =>
    match o.stage with
    | .appendData region off ws =>
      match s.ink? o.ctx region with
      | none => s.setOp { o with stage := .failed 0x0D 0 none true }
      | some r =>
        match s.firstUnmapped r off (4 * ws.length) with
        | some (va, f) => (s.pageFault o.ctx o.col o.core (BitVec.ofNat 64 va) 1 f).2
        | none =>
          let lost := (List.range (4 * ws.length)).filter fun i => r.lostByte (off + i)
          if !lost.isEmpty && s.recordsFull o.col then s else s.landAppend o r off ws lost 0x07
    | _ => s
  | none => s

/-- The page of some bytes of a reservation is declared unresolvable: those bytes, which have no frame, are lost (R350, R362). -/
def State.losePage (s : State) (o : Op) (page : Nat) : State :=
  match o.stage with
  | .appendData region off ws =>
    match s.ink? o.ctx region with
    | none => s
    | some r =>
      let gone := (List.range (4 * ws.length)).filter fun i =>
        (r.base + off + i) / 65536 = page && !r.lostByte (off + i) && !(s.translate o.ctx (r.base + off + i)).isOk
      s.setInk { r with lost := r.lost ++ gone.map fun i => (off + i, 1) }
  | _ => s

/-- APPEND_DATA_LOST: a line of the reservation is an uncorrectable error at its home (R362). -/
def execAppendDataLost (op : Nat) (s : State) : Host.Outcome State Fault Refusal :=
  .next <| match s.op? op with
  | some o =>
    match o.stage with
    | .appendData region off ws =>
      match s.ink? o.ctx region with
      | some r =>
        let lost := s.spoiledBytes o.ctx (r.base + off) (4 * ws.length)
        if (s.firstUnmapped r off (4 * ws.length)).isNone && !lost.isEmpty && !s.recordsFull o.col then
          s.landAppend o r off ws lost 0x0F
        else s
      | none => s
    | _ => s
  | none => s

/-- The request of an `inkfree` that was held back reaches the home (R143). -/
def State.freeLate (s : State) (th : Thread) (b : Block) (region : Nat) (va : DWord) : State :=
  match s.ink? th.ctx region with
  | none => s.takeTrap { th with block := none } ⟨0x0D, 0, va, false, th.pc, th.head⟩
  | some r => ((s.freeAtHome r).setThread { th with block := some { b with wait := .freeing region true va } }).wake

/-- The request of a `seal` reaches the home: the tail is frozen, and the region is sealed once W = T; a region that is being freed
faults (R142, R364). -/
def State.sealAtHome (s : State) (th : Thread) (b : Block) (region : Nat) (va : DWord) : State :=
  match s.ink? th.ctx region with
  | none => s.takeTrap { th with block := none } ⟨0x0D, 0, va, false, th.pc, th.head⟩
  | some r =>
    if r.rstate = 2 then s.takeTrap { th with block := none } ⟨0x0D, 0, va, false, th.pc, th.head⟩
    else
      let s := s.setThread { th with block := some { b with wait := .sealing region true va } }
      (if r.rstate = 0 then s.settleInk { r with closing := max r.closing 1 } else s).wake

/-- SEAL_REQUEST_AT_HOME: a request is sent once no earlier access of the thread holds it back (R142, R229, R364). -/
def execSealRequestAtHome (tid : Nat) (s : State) : Host.Outcome State Fault Refusal :=
  .next <| match s.thread? tid with
  | some th =>
    match th.block with
    | some b =>
      match b.wait with
      | .sealing region false va => if s.requestHeld th.id region || th.parked then s else s.sealAtHome th b region va
      | _ => s
    | none => s
  | none => s

/-- LDW_TIMEOUT: an `ldw` has waited 110,000 cycles from issue (R132). -/
def execLdwTimeout (op : Nat) (s : State) : Host.Outcome State Fault Refusal :=
  .next <| match s.op? op with
  | some o =>
    match o.stage with
    | .watermark _ _ => if o.issued + 110000 ≤ s.now then s.setOp { o with stage := .failed 0x0C 0 none true } else s
    | _ => s
  | none => s

/-! ## Descriptors written by system software (R357 to R359) -/

/-- Every page of a range is INK with one SHARE; the leaf of its first page is returned (R358). -/
def State.inkRange (s : State) (ctx base limit : Nat) : Option Leaf :=
  match s.translate ctx base with
  | .error _ => none
  | .ok l =>
    if (List.range (limit / 65536)).all fun i =>
        (match s.translate ctx (base + i * 65536) with
         | .ok m => m.cls = 1 && m.share = l.share
         | .error _ => false) then some l else none

/-- The descriptor is valid as a creation (R357, R358). -/
def State.inkDescOk (s : State) (ctx region : Nat) (d : BitVec 256) : Bool :=
  let base := field d 192 64
  let limit := field d 160 32
  let tail := field d 128 32
  d.getLsbD 0 && field d 16 48 = 0 && field d 3 8 = 0 && field d 1 2 ≤ 1 && base % 65536 = 0 &&
    canonical (BitVec.ofNat 64 base) && limit % 65536 = 0 && 65536 ≤ limit && limit ≤ 1073741824 && tail ≤ limit &&
    tail % 4 = 0 && (s.inkRange ctx base limit).isSome &&
    !s.inks.any fun r => r.ctx = ctx && r.region ≠ region && r.base < base + limit && base < r.base + r.limit

/-- Zeroing the bytes of a region from an offset on, at their homes (R359). -/
def State.zeroFrom (s : State) (ctx base from_ limit : Nat) : State :=
  (List.range (limit / 65536)).foldl (fun t i =>
    if (i + 1) * 65536 ≤ from_ then t
    else match t.translate ctx (base + i * 65536) with
      | .error _ => t
      | .ok l =>
        let lo := max from_ (i * 65536) - i * 65536
        t.homeZero (l.pa + lo) (65536 - lo)) s

/-- The fields of a descriptor that the device writes: W, RMASK and HOME (R357). -/
def inkReadOnly : BitVec 256 := BitVec.ofNat 256 (maskBits 64 64 + maskBits 11 5)

/-- The memory copy of a descriptor that is not valid: VALID reads 0, and a write of a field that the device writes is ignored
(R357, R358). -/
def State.refuseInk (s : State) (ctx region : Nat) (desc : BitVec 256) : State :=
  let at_ := (s.context ctx).itBase + 32 * region
  match s.translate ctx at_ with
  | .ok l =>
    let d := (desc &&& ~~~inkReadOnly &&& ~~~1) ||| (BitVec.ofNat 256 (s.peekNat l.pa 32) &&& inkReadOnly)
    s.deviceStore ctx at_ (leBytes 32 d.toNat)
  | .error _ => s

/-- A descriptor is taken as a creation; an invalid one counts as VALID 0, which its memory copy shows (R358, R359). -/
def State.createInk (s : State) (ctx region : Nat) (desc : BitVec 256) : State :=
  if s.inkDescOk ctx region desc then
    let base := field desc 192 64
    let limit := field desc 160 32
    let tail := field desc 128 32
    let l := (s.inkRange ctx base limit).getD ⟨0, 0, 0, 0, false, false, 0, 0, 0, 0⟩
    let r : InkRegion :=
      { ctx := ctx, region := region, base := base, limit := limit, tail := tail, rmask := 0, home := l.home, share := l.share
        rstate := field desc 1 2, closing := 0, acks := [], peers := [], leaving := false, retired := false, reservations := [], lost := [] }
    let s := s.zeroFrom ctx base tail limit
    ({ s with inks := s.inks ++ [r] }).writeInkCopy r
  else s.refuseInk ctx region desc

/-! ## Freeing (R368) -/

/-- The physical pages of a region that are mapped. -/
def State.inkPages (s : State) (r : InkRegion) : List Nat :=
  (List.range (r.limit / 65536)).filterMap fun i =>
    match s.translate r.ctx (r.base + i * 65536) with
    | .ok l => some l.pa
    | .error _ => none

/-- Every column's copies of lines of the pages are discarded, and their scope records with them (R239, R368). -/
def State.dropPages (s : State) (pages : List Nat) : State :=
  let hit (line : Nat) : Bool := pages.any fun p => p ≤ line * 128 && line * 128 < p + 65536
  { s with caches := { s.caches with
      copies := s.caches.copies.filter fun c => !hit c.line
      scopes := s.caches.scopes.filter fun r => !hit r.line } }

/-- Who beside the columns acknowledges the retirement of a SYSTEM region: the two host dies, numbered 32 and 33, and every peer package
that can be reached, its number after them (R368, R393). -/
def State.outsideAcks (s : State) (r : InkRegion) : List Nat :=
  if r.share = 2 then [32, 33] ++ ((s.platform.settings.routes.map (·.1)).filter s.reaches).eraseDups.map (34 + ·) else []

/-- INK_RETIREMENT: the home of a FREEING region sends a retirement, and every column discards its replicas and lines (R368). -/
def execInkRetirement (ctx region : Nat) (s : State) : Host.Outcome State Fault Refusal :=
  .next <| match s.ink? ctx region with
  | some r =>
    if r.rstate = 2 && !r.retired then
      let s := s.dropPages (s.inkPages r)
      let s := s.setInk { r with retired := true, acks := List.range 32 ++ s.outsideAcks r, peers := if r.share = 2 then s.peersDown.map (·.1) else [] }
      let t : State := { s with replicas := s.replicas.filter fun q => !(q.ctx = ctx && q.region = region) }
      t.wake
    else s
  | none => s

/-- Zeroing whole 64 KiB pages of physical memory with their poison marks. -/
def State.zeroPages (s : State) (pages : List Nat) : State :=
  pages.foldl (fun t p => t.homeZero p 65536) s

/-- Threads whose `inkfree` waits on the region complete (R143); each is a release at the region's scope (R369). -/
def State.completeFrees (s : State) (r : InkRegion) : State :=
  s.threads.foldl (fun t th =>
    match th.block with
    | some b =>
      match b.wait with
      | .freeing region true _ =>
        if th.ctx = r.ctx && region = r.region then (t.release th.col th.ctx r.share).setThread (th.complete t.now []) else t
      | _ => t
    | none => t) s

/-- The last acknowledgement has come: the region is zeroed and reopens, or is released when it is being destroyed, its memory copy's
VALID 0, before a descriptor written over it is taken (R359, R368). -/
def State.reopen (s : State) (r : InkRegion) : State :=
  let s := s.zeroPages (s.inkPages r)
  let q := { r with tail := 0, rmask := 0, rstate := 0, closing := 0, retired := false, reservations := [], lost := [], readers := [] }
  let s := (s.setInk q).completeFrees q
  if r.leaving then
    let s := { s with inks := s.inks.filter fun i => !(i.ctx = r.ctx && i.region = r.region) }
    (match r.heir with
     | some d => s.createInk r.ctx r.region d
     | none => s.deviceStore r.ctx ((s.context r.ctx).itBase + 32 * r.region) (leBytes 32 (q.desc - 1))).wake
  else (s.writeInkCopy q).wake

/-- RETIREMENT_ACKNOWLEDGEMENT of a column, once every load of the column that returned bytes has been written, or of a host die or a
peer package (R368, R393). -/
def execRetirementAcknowledgement (ctx region col : Nat) (s : State) : Host.Outcome State Fault Refusal :=
  .next <| match s.ink? ctx region with
  | some r =>
    let busy := s.ops.any fun o => o.ctx = ctx && o.col = col && (match o.stage with | .ready _ _ => true | _ => false)
    if r.rstate = 2 && r.retired && !busy then
      let r := { r with acks := r.acks.filter (· ≠ col) }
      if r.acks.isEmpty && r.peers.isEmpty then s.reopen r else s.setInk r
    else s
  | none => s

/-! ## Replicas (R365 to R367) -/

/-- INKPOOL of a column. -/
def State.inkpool (s : State) (col : Nat) : DWord := s.inkpools.getD col 0

/-- Frames of a column's replica pool while it is enabled. -/
def State.poolPages (s : State) (col : Nat) : Nat := if (s.inkpool col).getLsbD 0 then field (s.inkpool col) 44 20 else 0

/-- A column that holds no replica of a region any more clears its bit at the home (R367). -/
def State.clearReplicaBit (s : State) (col ctx region : Nat) : State :=
  match s.ink? ctx region with
  | some r =>
    if s.replicas.any fun q => q.col = col && q.ctx = ctx && q.region = region then s
    else s.putInk { r with rmask := if r.rmask.testBit col then r.rmask ^^^ 2 ^ col else r.rmask }
  | none => s

/-- REPLICA_GRANT_REQUEST: a column that has read a line of a page of the region may take the page. The request is refused unless the
region is SEALED; a granted column takes the page while its pool has room, which counts as an event (R365, R416). -/
def execReplicaGrantRequest (col ctx region page : Nat) (s : State) : Host.Outcome State Fault Refusal :=
  .next <| match s.ink? ctx region with
  | some r =>
    let held := s.replicas.filter (·.col = col)
    if r.rstate = 1 && r.share ≠ 0 && r.home ≠ col && r.readers.contains (col, page) && col < 32 && decide (page * 65536 < r.limit) &&
        decide (held.length < s.poolPages col) && !s.replicas.contains ⟨col, ctx, region, page⟩ then
      let t : State := { s with replicas := s.replicas ++ [⟨col, ctx, region, page⟩] }
      (t.putInk { r with rmask := r.rmask ||| 2 ^ col }).count col 0x033 (some ctx) 1
    else s
  | none => s

/-- REPLICA_DROP: the column's least recently used replica goes (R367); the list holds them in order of use (`State.touchReplica`). -/
def execReplicaDrop (col : Nat) (s : State) : Host.Outcome State Fault Refusal :=
  .next <| match s.replicas.find? (·.col = col) with
  | some q => { s with replicas := s.replicas.erase q }
  | none => s

/-- REPLICA_CLEAR: the clear of a column that holds no replica of the region reaches the home (R367). -/
def execReplicaClear (col ctx region : Nat) (s : State) : Host.Outcome State Fault Refusal :=
  .next (s.clearReplicaBit col ctx region)

/-! ## Descriptors over valid ones (R359) -/

/-- The destruction of a region begins: replicas are retired and pages zeroed as `inkfree` does, and then the region is released. -/
def State.leaveInk (s : State) (r : InkRegion) (heir : Option (BitVec 256)) : State :=
  let r := { r with leaving := true, heir := heir }
  if r.rstate = 2 then s.setInk r else s.settleInk { r with closing := 2 }

/-- A write over a valid descriptor while a launch of the context runs: every access uses the whole old descriptor or the whole new one
(R249, R359). The old region is retired, zeroed and released in one step, appends under way having landed before it, and the new
descriptor, if there is one, is taken at once (DEDUCED, notes/assumptions/89.md). -/
def State.replaceInk (s : State) (r : InkRegion) (heir : Option (BitVec 256)) : State :=
  let s : State := { s with
    replicas := s.replicas.filter fun q => !(q.ctx = r.ctx && q.region = r.region)
    ops := (s.freeingSeen r).ops.map fun (o : Op) =>
      match o.stage with
      | .appendData region off _ =>
        if o.ctx = r.ctx && region = r.region then { o with stage := .ready (o.dst.map fun d => (d, BitVec.ofNat 32 off)) false } else o
      | _ => o }
  (s.dropPages (s.inkPages r)).reopen { r with leaving := true, heir := heir }

/-- A descriptor changes nothing of a region: BASE and LIMIT stay, and the other fields are not written (R357, R359). -/
def InkRegion.keeps (r : InkRegion) (desc : BitVec 256) : Bool :=
  !r.leaving && desc.getLsbD 0 && field desc 192 64 = r.base && field desc 160 32 = r.limit && field desc 16 48 = 0 && field desc 3 8 = 0

/-- The destruction of a region, which what comes after it follows: with steps of its own, or in one while a launch runs (R359). -/
def State.endInk (s : State) (r : InkRegion) (heir : Option (BitVec 256)) : State :=
  if s.sched.launches.any (·.ctx = r.ctx) then s.replaceInk r heir else s.leaveInk r heir

/-- INK_REGION_CREATE: a descriptor is written where no region is valid; over a valid one, a change of BASE or LIMIT is a destruction and
then a creation (R359). -/
def execInkRegionCreate (ctx region : Nat) (desc : BitVec 256) (s : State) : Host.Outcome State Fault Refusal :=
  .next <|
  if 65536 ≤ region || !(s.context ctx).desc.getLsbD 0 then s
  else match s.ink? ctx region with
  | none => s.createInk ctx region desc
  | some r => if r.keeps desc then s else s.endInk r (some desc)

/-- INK_REGION_DESTROY: a write of VALID = 0 (R359). -/
def execInkRegionDestroy (ctx region : Nat) (s : State) : Host.Outcome State Fault Refusal :=
  .next <| match s.ink? ctx region with
  | some r => s.endInk r none
  | none => s

/-! ## INKPOOL (R366) -/

/-- Setting INKPOOL of a column. -/
def State.setInkpool (s : State) (col : Nat) (v : DWord) : State := { s with inkpools := s.inkpools.set col v }

/-- The pool that a value describes lies in the column's own stack (R366). -/
def poolOk (col : Nat) (v : DWord) : Bool :=
  let base := field v 16 28 * 65536
  let size := field v 44 20
  base / 2 ^ 37 = col && size ≤ 732421 && decide (base % 2 ^ 37 + size * 65536 ≤ hbmSize)

/-- INKPOOL_ENABLE: a write with EN = 1 (R366); a change of SIZE or BASE while EN = 1 is ignored. -/
def execInkpoolEnable (col : Nat) (value : BitVec 64) (s : State) : Host.Outcome State Fault Refusal :=
  .next <|
  if col < 32 && value.getLsbD 0 && field value 1 15 = 0 && !(s.inkpool col).getLsbD 0 && poolOk col value then
    s.setInkpool col value
  else s

/-- INKPOOL_DISABLE: every replica of the column is dropped, the pool's frames are zeroed with their marks, and EN reads 0; a write that
also changes SIZE or BASE is ignored while EN is 1 (R366, R367). -/
def execInkpoolDisable (col : Nat) (value : BitVec 64) (s : State) : Host.Outcome State Fault Refusal :=
  .next <|
  if 32 ≤ col || value.getLsbD 0 || field value 1 15 ≠ 0 then s
  else if (s.inkpool col).getLsbD 0 then
    let p := s.inkpool col
    if field value 16 48 ≠ field p 16 48 then s else
    let base := field p 16 28 * 65536
    let n := field p 44 20 * 65536
    let mine := s.replicas.filter (·.col = col)
    let s := ({ s with replicas := s.replicas.filter (·.col ≠ col) }).homeZero base n
    (mine.foldl (fun t q => t.clearReplicaBit col q.ctx q.region) s).setInkpool col (p &&& ~~~1#64)
  else s.setInkpool col value

end Sys2Proof.Machine
end

