-- ==== Sys2Proof/Machine/Flags.lean ====
section
/-! DEFINITION. Conditions, carries and class words: what the instructions that write predicates compute (R84, R93, R99,
R100, R110). The device has no other flags (R31). -/

namespace Sys2Proof.Machine

/-- COND of `cmp` and `cmpi` (R93) on the integers compared. -/
def intCond (cond : Nat) (a b : Int) : Bool :=
  match cond with
  | 0 => a = b
  | 1 => a ≠ b
  | 2 => a < b
  | 3 => a ≤ b
  | 4 => a > b
  | _ => a ≥ b

/-- BOP of `cmp` and `fcmp` (R93): the combination with the predicate source. -/
def combine (bop : Nat) (c p : Bool) : Bool :=
  match bop with
  | 0 => c && p
  | 1 => c || p
  | _ => c != p

/-- COND of `fcmp` (R99): −0 equals +0, and a NaN is unordered with every value. -/
def floatCond (cond : Nat) (a b : Val) : Bool :=
  let uno := a.isNan || b.isNan
  let k := a.compare b
  match cond with
  | 0 => !uno && k = 0
  | 1 => uno || k ≠ 0
  | 2 => !uno && k < 0
  | 3 => !uno && k ≤ 0
  | 4 => !uno && k > 0
  | 5 => !uno && k ≥ 0
  | 6 => !uno
  | 7 => uno
  | 8 => uno || k < 0
  | 9 => uno || k ≤ 0
  | 10 => uno || k > 0
  | 11 => uno || k ≥ 0
  | _ => uno || k = 0

/-- The sum and carry out of `addc` (R84). -/
def addCarry (a b : Word) (ci : Bool) : Word × Bool :=
  let t := a.toNat + b.toNat + ci.toNat
  (BitVec.ofNat 32 t, decide (2 ^ 32 ≤ t))

/-- The difference and borrow out of `subb` (R84). -/
def subBorrow (a b : Word) (ci : Bool) : Word × Bool :=
  let t : Int := (a.toNat : Int) - b.toNat - ci.toNat
  (BitVec.ofInt 32 t, decide (t < 0))

/-- The number of the one bit that `fclass` sets (R100), for the formats of TY 8 to 10. -/
def classBit (f : Fmt) (code : Nat) : Nat :=
  let c := code % 2 ^ f.bits
  let neg := decide (f.signBit ≤ c)
  let mag := c % f.signBit
  let ex := mag / 2 ^ f.frac
  let fr := mag % 2 ^ f.frac
  if f.maxCode < mag then
    (if fr = 0 then (if neg then 2 else 9) else if fr < 2 ^ (f.frac - 1) then 0 else 1)
  else if ex = 0 then
    (if fr = 0 then (if neg then 5 else 6) else if neg then 4 else 7)
  else if neg then 3 else 8

end Sys2Proof.Machine
end

