-- ==== Sys2Proof/Machine/Integer.lean ====
section
/-! DEFINITION. Integer arithmetic, bit operations and immediate forms (R82 to R92), and the integer compare (R93). -/

namespace Sys2Proof.Machine

/-! ## Values -/

/-- SAT of an integer MOD (R82). -/
def intSat (o : RRR) : Bool := o.mod.getLsbD 4

/-- An exact result wrapped or clamped to the type (R82). -/
def intResult (ty : BitVec 4) (sat : Bool) (x : Int) : DWord :=
  tyWrite ty (if sat then clampInt (tyMin ty) (tyMax ty) x else x)

/-- The high w bits of the product (R82). -/
def mulHigh (ty : BitVec 4) (a b : Int) : Int := a * b / 2 ^ tyWidth ty

/-- The integer an `i32` or `n32` word source holds (R83). -/
def wordInt (ty : BitVec 4) (v : Word) : Int := if ty = 0 then v.toInt else v.toNat

/-- A shift left, by n, of a w-bit value (R86). -/
def shlVal (ty : BitVec 4) (a : DWord) (n : Nat) : DWord := if tyWidth ty ≤ n then 0 else a <<< n

/-- A logical shift right (R86). -/
def shrVal (ty : BitVec 4) (a : DWord) (n : Nat) : DWord := if tyWidth ty ≤ n then 0 else a >>> n

/-- A 32- or 64-bit value with its sign carried to 64 bits. -/
def sextTy (ty : BitVec 4) (a : DWord) : DWord := if wide ty then a else (a.extractLsb' 0 32).signExtend 64

/-- An arithmetic shift right (R86). -/
def sarVal (ty : BitVec 4) (a : DWord) (n : Nat) : DWord := (sextTy ty a).sshiftRight (min n (tyWidth ty - 1))

/-- A rotation left (R86). -/
def rotVal (ty : BitVec 4) (a : DWord) (n : Nat) : DWord :=
  if wide ty then a.rotateLeft n else ((a.extractLsb' 0 32).rotateLeft n).zeroExtend 64

/-- The low `n` bits of a value. -/
def lowBits (n : Nat) (a : DWord) : DWord := a &&& BitVec.ofNat 64 (2 ^ n - 1)

/-- `bfx` (R87). -/
def extractField (ty : BitVec 4) (sx : Bool) (a : DWord) (f : Word) : DWord :=
  let w := tyWidth ty
  let pos := (f.extractLsb' 0 8).toNat
  let len := (f.extractLsb' 8 8).toNat
  if len = 0 || w ≤ pos then 0
  else
    let x := (if wide ty then a else lowBits 32 a) >>> pos
    let x := if len < w then lowBits len x else x
    if sx && len ≤ w && x.getLsbD (len - 1) then x ||| ~~~(BitVec.ofNat 64 (2 ^ len - 1)) else x

/-- `bfi` (R87). -/
def insertField (ty : BitVec 4) (a c : DWord) (f : Word) : DWord :=
  let w := tyWidth ty
  let pos := (f.extractLsb' 0 8).toNat
  let len := min (f.extractLsb' 8 8).toNat (w - pos)
  let m := BitVec.ofNat 64 (maskBits pos len)
  (c &&& ~~~m) ||| ((a <<< pos) &&& m)

/-- The number of leading zeros of the low `w` bits (R88). -/
def leadZeros (a : DWord) : Nat → Nat
  | 0 => 0
  | w + 1 => if a.getLsbD w then 0 else 1 + leadZeros a w

/-- The number of one bits among the low `w` (R88). -/
def popCount (a : DWord) (w : Nat) : Nat := ((List.range w).filter fun i => a.getLsbD i).length

/-- The low `w` bits reversed (R88). -/
def reverseBits (w : Nat) (a : DWord) : DWord :=
  BitVec.ofNat 64 ((List.range w).foldl (fun n i => 2 * n + (a.getLsbD i).toNat) 0)

/-- One result byte of `bpick` (R89). -/
def pickByte (a b : Word) (s : BitVec 8) : BitVec 8 :=
  let src := (s.extractLsb' 0 3).toNat
  let y := ((b ++ a) >>> (8 * src)).extractLsb' 0 8
  let y := if s.getLsbD 5 then (reverseBits 8 (y.zeroExtend 64)).extractLsb' 0 8 else y
  match (s.extractLsb' 3 2).toNat with
  | 0 => y
  | 1 => 0x00
  | 2 => 0xFF
  | _ => if y.getLsbD 7 then 0xFF else 0x00

/-- `bpick` (R89). -/
def pickBytes (a b c : Word) : Word :=
  pickByte a b (c.extractLsb' 24 8) ++ pickByte a b (c.extractLsb' 16 8) ++
    pickByte a b (c.extractLsb' 8 8) ++ pickByte a b (c.extractLsb' 0 8)

/-- The exact four-byte dot product (R91). -/
def dotBytes (signed : Bool) (a b : Word) : Int :=
  let byte (v : Word) (i : Nat) : Int :=
    let x := v.extractLsb' (8 * i) 8
    if signed then x.toInt else x.toNat
  byte a 0 * byte b 0 + byte a 1 * byte b 1 + byte a 2 * byte b 2 + byte a 3 * byte b 3

/-! ## Shapes shared by the entries -/

/-- An entry of R82: the exact function of the typed sources, wrapped or clamped, 4 cycles later. -/
def intOp (o : RRR) (sat : Bool) (f : Int → Int → Int → Int) (s : State) (_ : Issue) (th : Thread) : List Dest :=
  let rd (c : BitVec 8) : Int := tyRead o.ty (srcTyped s th o.ty c)
  dstTyped o.ty o.d (intResult o.ty sat (f (rd o.a) (rd o.b) (rd o.c)))

/-- A typed result of typed sources as bits (R85 to R88). -/
def bitOp (o : RRR) (f : DWord → DWord → DWord → DWord) (s : State) (_ : Issue) (th : Thread) : List Dest :=
  dstTyped o.ty o.d (f (srcTyped s th o.ty o.a) (srcTyped s th o.ty o.b) (srcTyped s th o.ty o.c))

/-- A typed result of a typed source and a word source (R86, R87). -/
def shiftOp (o : RRR) (f : DWord → Word → DWord) (s : State) (_ : Issue) (th : Thread) : List Dest :=
  dstTyped o.ty o.d (f (srcTyped s th o.ty o.a) (srcWord s th o.b))

/-- A word result of three word sources. -/
def wordOp (o : RRR) (f : Word → Word → Word → Word) (s : State) (_ : Issue) (th : Thread) : List Dest :=
  dstWord o.d (f (srcWord s th o.a) (srcWord s th o.b) (srcWord s th o.c))

/-- An immediate form (R92). -/
def immOp (o : RI) (f : Word → BitVec 27 → Word) (s : State) (_ : Issue) (th : Thread) : List Dest :=
  dstWord o.d (f (srcWord s th o.a) o.imm)

/-! ## Meanings -/

/-- `add` (R82). -/
def execAdd (h : Head) (o : RRR) (s : State) : Host.Outcome State Fault Refusal :=
  issue (.add h o) h s (fixed h 4 (intOp o (intSat o) fun a b _ => a + b))

/-- `sub` (R82). -/
def execSub (h : Head) (o : RRR) (s : State) : Host.Outcome State Fault Refusal :=
  issue (.sub h o) h s (fixed h 4 (intOp o (intSat o) fun a b _ => a - b))

/-- CI and CN: the carry in (R84). -/
def carryIn (o : RRR) (th : Thread) : Bool := th.pred (o.mod.extractLsb' 3 3).toNat != o.mod.getLsbD 6

/-- A carry operation: the word and the carry predicate CO (R84). -/
def carryOp (o : RRR) (f : Word → Word → Bool → Word × Bool) (s : State) (_ : Issue) (th : Thread) : List Dest :=
  let r := f (srcWord s th o.a) (srcWord s th o.b) (carryIn o th)
  dstWord o.d r.1 ++ dstPred ((o.mod.extractLsb' 0 3).zeroExtend 8) r.2

/-- `addc` (R84). -/
def execAddc (h : Head) (o : RRR) (s : State) : Host.Outcome State Fault Refusal :=
  issue (.addc h o) h s (fixed h 4 (carryOp o addCarry))

/-- `subb` (R84). -/
def execSubb (h : Head) (o : RRR) (s : State) : Host.Outcome State Fault Refusal :=
  issue (.subb h o) h s (fixed h 4 (carryOp o subBorrow))

/-- `mul` (R82). -/
def execMul (h : Head) (o : RRR) (s : State) : Host.Outcome State Fault Refusal :=
  issue (.mul h o) h s (fixed h 4 (intOp o false fun a b _ => a * b))

/-- `mulhi` (R82). -/
def execMulhi (h : Head) (o : RRR) (s : State) : Host.Outcome State Fault Refusal :=
  issue (.mulhi h o) h s (fixed h 4 (intOp o false fun a b _ => mulHigh o.ty a b))

/-- The widening product plus an addend, as 64 bits (R83). -/
def wideOp (o : RRR) (addend : DWord) (s : State) (th : Thread) : List Dest :=
  dstPair o.d (BitVec.ofInt 64 (wordInt o.ty (srcWord s th o.a) * wordInt o.ty (srcWord s th o.b)) + addend)

/-- `mulw` (R83). -/
def execMulw (h : Head) (o : RRR) (s : State) : Host.Outcome State Fault Refusal :=
  issue (.mulw h o) h s (fixed h 4 fun s _ th => wideOp o 0 s th)

/-- `mad` (R82). -/
def execMad (h : Head) (o : RRR) (s : State) : Host.Outcome State Fault Refusal :=
  issue (.mad h o) h s (fixed h 4 (intOp o false fun a b c => a * b + c))

/-- `madw` (R83). -/
def execMadw (h : Head) (o : RRR) (s : State) : Host.Outcome State Fault Refusal :=
  issue (.madw h o) h s (fixed h 4 fun s _ th => wideOp o (srcPair s th o.c) s th)

/-- `add3` (R82). -/
def execAdd3 (h : Head) (o : RRR) (s : State) : Host.Outcome State Fault Refusal :=
  issue (.add3 h o) h s (fixed h 4 (intOp o (intSat o) fun a b c => a + b + c))

/-- `min` (R82). -/
def execMin (h : Head) (o : RRR) (s : State) : Host.Outcome State Fault Refusal :=
  issue (.min h o) h s (fixed h 4 (intOp o false fun a b _ => Min.min a b))

/-- `max` (R82). -/
def execMax (h : Head) (o : RRR) (s : State) : Host.Outcome State Fault Refusal :=
  issue (.max h o) h s (fixed h 4 (intOp o false fun a b _ => Max.max a b))

/-- `abs` (R82). -/
def execAbs (h : Head) (o : RRR) (s : State) : Host.Outcome State Fault Refusal :=
  issue (.abs h o) h s (fixed h 4 (intOp o (intSat o) fun a _ _ => a.natAbs))

/-- `neg` (R82). -/
def execNeg (h : Head) (o : RRR) (s : State) : Host.Outcome State Fault Refusal :=
  issue (.neg h o) h s (fixed h 4 (intOp o (intSat o) fun a _ _ => -a))

/-- `and` (R85). -/
def execAnd (h : Head) (o : RRR) (s : State) : Host.Outcome State Fault Refusal :=
  issue (.and h o) h s (fixed h 4 (bitOp o fun a b _ => a &&& b))

/-- `or` (R85). -/
def execOr (h : Head) (o : RRR) (s : State) : Host.Outcome State Fault Refusal :=
  issue (.or h o) h s (fixed h 4 (bitOp o fun a b _ => a ||| b))

/-- `xor` (R85). -/
def execXor (h : Head) (o : RRR) (s : State) : Host.Outcome State Fault Refusal :=
  issue (.xor h o) h s (fixed h 4 (bitOp o fun a b _ => a ^^^ b))

/-- `not` (R85). -/
def execNot (h : Head) (o : RRR) (s : State) : Host.Outcome State Fault Refusal :=
  issue (.not h o) h s (fixed h 4 (bitOp o fun a _ _ => ~~~a))

/-- `andn` (R85). -/
def execAndn (h : Head) (o : RRR) (s : State) : Host.Outcome State Fault Refusal :=
  issue (.andn h o) h s (fixed h 4 (bitOp o fun a b _ => a &&& ~~~b))

/-- `shl` (R86). -/
def execShl (h : Head) (o : RRR) (s : State) : Host.Outcome State Fault Refusal :=
  issue (.shl h o) h s (fixed h 4 (shiftOp o fun a n => shlVal o.ty a n.toNat))

/-- `shr` (R86). -/
def execShr (h : Head) (o : RRR) (s : State) : Host.Outcome State Fault Refusal :=
  issue (.shr h o) h s (fixed h 4 (shiftOp o fun a n => shrVal o.ty a n.toNat))

/-- `sar` (R86). -/
def execSar (h : Head) (o : RRR) (s : State) : Host.Outcome State Fault Refusal :=
  issue (.sar h o) h s (fixed h 4 (shiftOp o fun a n => sarVal o.ty a n.toNat))

/-- `rot` (R86). -/
def execRot (h : Head) (o : RRR) (s : State) : Host.Outcome State Fault Refusal :=
  issue (.rot h o) h s (fixed h 4 (shiftOp o fun a n => rotVal o.ty a n.toNat))

/-- `bfx` (R87). -/
def execBfx (h : Head) (o : RRR) (s : State) : Host.Outcome State Fault Refusal :=
  issue (.bfx h o) h s (fixed h 4 (shiftOp o fun a f => extractField o.ty (o.mod.getLsbD 0) a f))

/-- `bfi` (R87). -/
def execBfi (h : Head) (o : RRR) (s : State) : Host.Outcome State Fault Refusal :=
  issue (.bfi h o) h s (fixed h 4 fun s _ th =>
    dstTyped o.ty o.d (insertField o.ty (srcTyped s th o.ty o.a) (srcTyped s th o.ty o.c) (srcWord s th o.b)))

/-- `clz` (R88). -/
def execClz (h : Head) (o : RRR) (s : State) : Host.Outcome State Fault Refusal :=
  issue (.clz h o) h s (fixed h 4 fun s _ th =>
    dstWord o.d (BitVec.ofNat 32 (leadZeros (srcTyped s th o.ty o.a) (tyWidth o.ty))))

/-- `popc` (R88). -/
def execPopc (h : Head) (o : RRR) (s : State) : Host.Outcome State Fault Refusal :=
  issue (.popc h o) h s (fixed h 4 fun s _ th =>
    dstWord o.d (BitVec.ofNat 32 (popCount (srcTyped s th o.ty o.a) (tyWidth o.ty))))

/-- `brev` (R88). -/
def execBrev (h : Head) (o : RRR) (s : State) : Host.Outcome State Fault Refusal :=
  issue (.brev h o) h s (fixed h 4 (bitOp o fun a _ _ => reverseBits (tyWidth o.ty) a))

/-- `bpick` (R89). -/
def execBpick (h : Head) (o : RRR) (s : State) : Host.Outcome State Fault Refusal :=
  issue (.bpick h o) h s (fixed h 4 (wordOp o pickBytes))

/-- `lea` (R90). -/
def execLea (h : Head) (o : RRR) (s : State) : Host.Outcome State Fault Refusal :=
  issue (.lea h o) h s (fixed h 4 fun s _ th =>
    let b := srcWord s th o.b
    let x : DWord := if o.mod.getLsbD 3 then b.zeroExtend 64 else b.signExtend 64
    dstPair o.d (srcPair s th o.a + (x <<< (o.mod.extractLsb' 0 3).toNat)))

/-- `dp4` (R91). -/
def execDp4 (h : Head) (o : RRR) (s : State) : Host.Outcome State Fault Refusal :=
  issue (.dp4 h o) h s (fixed h 4 (wordOp o fun a b c =>
    (intResult 0 (intSat o) (c.toInt + dotBytes (decide (o.ty = 6)) a b)).extractLsb' 0 32))

/-- `addi` (R92). -/
def execAddi (h : Head) (o : RI) (s : State) : Host.Outcome State Fault Refusal :=
  issue (.addi h o) h s (fixed h 4 (immOp o fun a i => a + i.signExtend 32))

/-- `muli` (R92). -/
def execMuli (h : Head) (o : RI) (s : State) : Host.Outcome State Fault Refusal :=
  issue (.muli h o) h s (fixed h 4 (immOp o fun a i => a * i.signExtend 32))

/-- `andi` (R92). -/
def execAndi (h : Head) (o : RI) (s : State) : Host.Outcome State Fault Refusal :=
  issue (.andi h o) h s (fixed h 4 (immOp o fun a i => a &&& i.signExtend 32))

/-- `ori` (R92). -/
def execOri (h : Head) (o : RI) (s : State) : Host.Outcome State Fault Refusal :=
  issue (.ori h o) h s (fixed h 4 (immOp o fun a i => a ||| i.signExtend 32))

/-- `xori` (R92). -/
def execXori (h : Head) (o : RI) (s : State) : Host.Outcome State Fault Refusal :=
  issue (.xori h o) h s (fixed h 4 (immOp o fun a i => a ^^^ i.signExtend 32))

/-- `shli` (R92). -/
def execShli (h : Head) (o : RI) (s : State) : Host.Outcome State Fault Refusal :=
  issue (.shli h o) h s (fixed h 4 (immOp o fun a i => a <<< i.toNat))

/-- `shri` (R92). -/
def execShri (h : Head) (o : RI) (s : State) : Host.Outcome State Fault Refusal :=
  issue (.shri h o) h s (fixed h 4 (immOp o fun a i => a >>> i.toNat))

/-- `sari` (R92). -/
def execSari (h : Head) (o : RI) (s : State) : Host.Outcome State Fault Refusal :=
  issue (.sari h o) h s (fixed h 4 (immOp o fun a i => a.sshiftRight i.toNat))

/-- The compare of `cmpi` with its immediate: U, COND and IMM23 (R92). -/
def cmpImm (a : Word) (i : BitVec 27) : Bool :=
  let k := i.extractLsb' 0 23
  let cond := (i.extractLsb' 23 3).toNat
  if i.getLsbD 26 then intCond cond a.toNat k.toNat else intCond cond a.toInt k.toInt

/-- `cmpi` (R92). -/
def execCmpi (h : Head) (o : RI) (s : State) : Host.Outcome State Fault Refusal :=
  issue (.cmpi h o) h s (fixed h 4 fun s _ th => dstPred o.d (cmpImm (srcWord s th o.a) o.imm))

/-- COND of a compare's MOD (R93, R99). -/
def condOf (o : RRR) : Nat := (o.mod.extractLsb' 0 4).toNat

/-- BOP of a compare's MOD (R93, R99). -/
def bopOf (o : RRR) : Nat := (o.mod.extractLsb' 5 2).toNat

/-- `cmp` (R93): b32 and b64 compare as unsigned values. -/
def execCmp (h : Head) (o : RRR) (s : State) : Host.Outcome State Fault Refusal :=
  issue (.cmp h o) h s (fixed h 4 fun s _ th =>
    let rd (c : BitVec 8) : Int := tyRead o.ty (srcTyped s th o.ty c)
    dstPred o.d (combine (bopOf o) (intCond (condOf o) (rd o.a) (rd o.b)) (th.pred o.c.toNat)))

end Sys2Proof.Machine
end

