-- ==== Sys2Proof/Machine/Trans.lean ====
section
/-! DEFINITION. The transcendental functions of R40. Each is evaluated in fixed point with 720 fraction bits, far beyond
the distance of any binary32 result from a rounding boundary, after the exact cases have been set apart; one rounding
follows (notes/assumptions/5.md). -/

namespace Sys2Proof.Machine

/-- Fraction bits of the fixed-point values. -/
def fixBits : Nat := 720

/-- One in fixed point. -/
def fixOne : Nat := 2 ^ 720

/-- π in fixed point. -/
def fixPi : Nat :=
  0x3243f6a8885a308d313198a2e03707344a4093822299f31d0082efa98ec4e6c89452821e638d01377be5466cf34e90c6cc0ac29b7c97c50dd3f84d5b5b54709179216d5d98979fb1bd1310ba698dfb5ac2ffd72dbd01adfb7b8e1

/-- ln 2 in fixed point. -/
def fixLn2 : Nat :=
  0xb17217f7d1cf79abc9e3b39803f2f6af40f343267298b62d8a0d175b8baafa2be7b876206debac98559552fb4afa1b10ed2eae35c138214427573b291169b8253e96ca16224ae8c51acbda11317c387eb9ea9bc3b136603b256f

/-- The product of two fixed-point values. -/
def fixMul (a b : Nat) : Nat := a * b / fixOne

/-- The sum of the exponential series from term `k` on: `term` is tᵏ⁻¹/(k−1)!. -/
def expSeries (t : Nat) : Nat → Nat → Nat → Nat
  | 0, _, term => term
  | n + 1, k, term => term + expSeries t n (k + 1) (fixMul term t / k)

/-- exp t for a fixed-point t below 1. -/
def fixExp (t : Nat) : Nat := expSeries t 160 1 fixOne

/-- The even and odd parts of the alternating series of sine and cosine in the square `q` of the angle: `term` is the
term before index `k`. -/
def trigSeries (q : Nat) : Nat → Nat → Int → Int
  | 0, _, term => term
  | n + 1, k, term => term + trigSeries q n (k + 2) (-(term * q / fixOne / (k * (k + 1) : Nat)))

/-- sin t for a fixed-point angle up to 2. -/
def fixSin (t : Nat) : Nat := (trigSeries (fixMul t t) 90 2 t).toNat

/-- cos t for a fixed-point angle up to 2. -/
def fixCos (t : Nat) : Nat := (trigSeries (fixMul t t) 90 1 fixOne).toNat

/-- The series of atanh in z: `p` is the odd power of z with exponent `k`. -/
def atanhSeries (q : Nat) : Nat → Nat → Nat → Nat
  | 0, _, _ => 0
  | n + 1, k, p => p / k + atanhSeries q n (k + 2) (fixMul p q)

/-- ln(num / den) for 1 ≤ num / den < 2. -/
def fixLn (num den : Nat) : Nat :=
  let z := (num - den) * fixOne / (num + den)
  2 * atanhSeries (fixMul z z) 240 1 z

/-- A fixed-point value rounded to binary32. -/
def fixRound (mode : Nat) (neg : Bool) (v : Nat) : Nat := roundFrac .f32 mode neg v fixOne

/-- The code of 1.0. -/
def oneCode : Nat := 0x3F800000

/-- The canonical binary32 NaN (R39). -/
def nan32 : Nat := 0x7FC00000

/-- 2^x (R40). Integer exponents are exact; beyond the range of the format the result is rounded from a power of two that
overflows, or from a positive value below every subnormal. -/
def exp2Round (mode : Nat) : Val → Nat
  | .nan => nan32
  | .inf neg => if neg then 0 else 0x7F800000
  | .fin neg m e =>
    let (n, d) := fracOf m e
    let q := n / d
    if 200 ≤ q then (if neg then roundFrac .f32 mode false 1 (2 ^ 200) else roundFrac .f32 mode false (2 ^ 200) 1)
    else if n % d = 0 then (if neg then roundFrac .f32 mode false 1 (2 ^ q) else roundFrac .f32 mode false (2 ^ q) 1)
    else
      -- ±n/d = k + r with 0 < r < 1
      let r := if neg then d - n % d else n % d
      let y := fixExp (fixMul (r * fixOne / d) fixLn2)
      if neg then roundFrac .f32 mode false y (fixOne * 2 ^ (q + 1)) else roundFrac .f32 mode false (y * 2 ^ q) fixOne

/-- log₂ x (R40). Powers of two are exact. -/
def log2Round (mode : Nat) : Val → Nat
  | .nan => nan32
  | .inf neg => if neg then nan32 else 0x7F800000
  | .fin neg m e =>
    if m = 0 then 0xFF800000
    else if neg then nan32
    else
      let (n, d) := fracOf m e
      let k := leadExp n d
      let (a, b) := if 0 ≤ k then (n, d * 2 ^ k.toNat) else (n * 2 ^ (-k).toNat, d)
      if a = b then roundFrac .f32 mode (decide (k < 0)) k.natAbs 1
      else
        let v : Int := k * fixOne + ((fixLn a b * fixOne / fixLn2 : Nat) : Int)
        fixRound mode (decide (v < 0)) v.natAbs

/-- sin(π·n/d) for 0 < n/d < 1, rounded with a sign. -/
def sinPiRound (mode : Nat) (neg : Bool) (n d : Nat) : Nat :=
  let r := if d < 2 * n then d - n else n      -- sin(π(1 − r)) = sin(πr), 0 < r ≤ 1/2
  if 2 * r = d then roundFrac .f32 mode neg 1 1
  else if 4 * r ≤ d then fixRound mode neg (fixSin (fixPi * r / d))
  else fixRound mode neg (fixCos (fixPi * (d - 2 * r) / (2 * d)))

/-- sin(πx) (R40). -/
def sinpiRound (mode : Nat) : Val → Nat
  | .nan => nan32
  | .inf _ => nan32
  | .fin neg m e =>
    let (n, d) := fracOf m e
    let p := n % (2 * d)
    if p % d = 0 then signed .f32 neg 0
    else if p < d then sinPiRound mode neg p d
    else sinPiRound mode (!neg) (p - d) d

/-- cos(πx) (R40), as sin(π(x + 1/2)). -/
def cospiRound (mode : Nat) : Val → Nat
  | .nan => nan32
  | .inf _ => nan32
  | .fin _ m e =>
    let (n, d) := fracOf m e
    let p := (2 * n + d) % (4 * d)
    if p % (2 * d) = 0 then 0
    else if p < 2 * d then sinPiRound mode false p (2 * d)
    else sinPiRound mode true (p - 2 * d) (2 * d)

/-- tanh x (R40). Above 64 the value lies between 1 − 2⁻¹⁰⁰ and 1. -/
def tanhRound (mode : Nat) : Val → Nat
  | .nan => nan32
  | .inf neg => signed .f32 neg oneCode
  | .fin neg m e =>
    let (n, d) := fracOf m e
    if m = 0 then signed .f32 neg 0
    else if 64 * d ≤ n then roundFrac .f32 mode neg (2 ^ 100 - 1) (2 ^ 100)
    else
      -- exp(2x) = 2^k · exp(t) with t = 2x − k·ln 2
      let x2 := 2 * n * fixOne / d
      let k := x2 / fixLn2
      let y := fixExp (x2 % fixLn2) * 2 ^ k
      roundFrac .f32 mode neg (y - fixOne) (y + fixOne)

end Sys2Proof.Machine
end

