-- ==== Sys2Proof/Machine/Floating.lean ====
section
/-! DEFINITION. Floating-point arithmetic, compares, packed halves and conversions (R95 to R107). -/

namespace Sys2Proof.Machine

/-! ## Fields of MOD (R65, R103) -/

/-- RND (R35). -/
def rndOf (o : RRR) : Nat := (o.mod.extractLsb' 5 2).toNat

/-- SAT, or CS on a conversion (R37, R103). -/
def satOf (o : RRR) : Bool := o.mod.getLsbD 4

/-- SEL of a conversion (R103). -/
def selOf (o : RRR) : Nat := (o.mod.extractLsb' 0 3).toNat

/-- Source A's modifiers, AA then NA (R38). -/
def modA (f : Fmt) (o : RRR) (c : Nat) : Nat := modCode f (o.mod.getLsbD 1) (o.mod.getLsbD 3) c

/-- Source B's modifiers, AB then NB (R38). -/
def modB (f : Fmt) (o : RRR) (c : Nat) : Nat := modCode f (o.mod.getLsbD 0) (o.mod.getLsbD 2) c

/-- A rounded code, clamped to [0, 1] when SAT is set (R37). -/
def finish (f : Fmt) (o : RRR) (c : Nat) : Nat := if satOf o then satUnit f c else c

/-! ## Scalar functions on codes, generic in the format where packed halves share them (R95, R96, R101) -/

/-- a + b, or a − b (R36, R40). -/
def addCodes (f : Fmt) (mode : Nat) (sub : Bool) (a b : Nat) : Nat :=
  roundVal f mode (sumVals mode [unpack f a, if sub then (unpack f b).neg else unpack f b])

/-- a × b (R40). -/
def mulCodes (f : Fmt) (mode : Nat) (a b : Nat) : Nat := roundVal f mode ((unpack f a).mul (unpack f b))

/-- a × b + c with one rounding (R40). -/
def fmaCodes (f : Fmt) (mode : Nat) (a b c : Nat) : Nat :=
  roundVal f mode (sumVals mode [(unpack f a).mul (unpack f b), unpack f c])

/-- √a, with the special values of R40. -/
def sqrtCode (mode : Nat) (a : Nat) : Nat :=
  match unpack .f32 a with
  | .nan => nan32
  | .inf neg => if neg then nan32 else 0x7F800000
  | .fin neg m e =>
    if m = 0 then signed .f32 neg 0
    else if neg then nan32
    else sqrtRound .f32 mode (fracOf m e).1 (fracOf m e).2

/-- 1 ÷ √a, with the special values of R40. -/
def rsqrtCode (mode : Nat) (a : Nat) : Nat :=
  match unpack .f32 a with
  | .nan => nan32
  | .inf neg => if neg then nan32 else 0
  | .fin neg m e =>
    if m = 0 then infResult .f32 neg
    else if neg then nan32
    else sqrtRound .f32 mode (fracOf m e).2 (fracOf m e).1

/-- a × 2^b with one rounding (R95). The exponent is bounded where the result no longer changes. -/
def scaleCode (mode : Nat) (a : Nat) (b : Int) : Nat :=
  match unpack .f32 a with
  | .fin neg m e => roundVal .f32 mode (.fin neg m (e + clampInt (-1000) 1000 b))
  | v => roundVal .f32 mode v

/-- `frnd` (R95). -/
def integralCode (mode : Nat) (a : Nat) : Nat := roundVal .f32 mode (roundIntegral mode (unpack .f32 a))

/-- The exact two-element dot product plus an addend, rounded once (R102). -/
def dot2Code (f : Fmt) (mode : Nat) (a b : Word) (c : Nat) : Nat :=
  let el (v : Word) (i : Nat) : Val := unpack f (v.extractLsb' (16 * i) 16).toNat
  roundVal .f32 mode (sumVals mode [(el a 0).mul (el b 0), (el a 1).mul (el b 1), unpack .f32 c])

/-- A packed pair made of the results of a function on each half (R41). -/
def onHalves (f : Nat → Nat → Nat → Nat) (a b c : Word) : Word :=
  let lo (v : Word) : Nat := (v.extractLsb' 0 16).toNat
  let hi (v : Word) : Nat := (v.extractLsb' 16 16).toNat
  BitVec.ofNat 32 (f (hi a) (hi b) (hi c) % 65536 * 65536 + f (lo a) (lo b) (lo c) % 65536)

/-! ## Shapes shared by the entries -/

/-- A binary32 result of two modified sources (R95). -/
def floatOp2 (o : RRR) (f : Nat → Nat → Nat) (s : State) (th : Thread) : Word :=
  BitVec.ofNat 32 (finish .f32 o (f (modA .f32 o (srcWord s th o.a).toNat) (modB .f32 o (srcWord s th o.b).toNat)))

/-- A binary32 result of one modified source (R95). -/
def floatOp1 (o : RRR) (f : Nat → Nat) (s : State) (th : Thread) : Word :=
  BitVec.ofNat 32 (finish .f32 o (f (modA .f32 o (srcWord s th o.a).toNat)))

/-- The effect of a fixed-latency floating instruction with a word destination. -/
def floatFixed (h : Head) (d : BitVec 8) (v : State → Thread → Word) : State → Issue → Thread → State :=
  fixed h 5 fun s _ th => dstWord d (v s th)

/-- The effect of a variable-latency floating instruction (R97): the value waits to be written. -/
def floatVar (h : Head) (d : BitVec 8) (v : State → Thread → Word) (s : State) (c : Issue) (th : Thread) : State :=
  leasingReady h (wordRegs d) [v s th] s c th

/-- NC of `ffma`, `hfma2` and `fdot2`: MOD[1] (R95, R101, R102). -/
def modC (f : Fmt) (o : RRR) (c : Nat) : Nat := modCode f false (o.mod.getLsbD 1) c

/-- Source A of the three-source forms: MOD[1] is NC there, so A has no absolute value (R95). -/
def modA3 (f : Fmt) (o : RRR) (c : Nat) : Nat := modCode f false (o.mod.getLsbD 3) c

/-- Source B of the three-source forms (R95). -/
def modB3 (f : Fmt) (o : RRR) (c : Nat) : Nat := modCode f false (o.mod.getLsbD 2) c

/-- A packed result of two packed sources (R101). -/
def halfOp2 (o : RRR) (g : Fmt → Nat → Nat → Nat) (s : State) (th : Thread) : Word :=
  let f := fmtOf o.ty.toNat
  onHalves (fun a b _ => finish f o (g f (modA f o a) (modB f o b)))
    (srcHalves s th f o.a) (srcHalves s th f o.b) 0

/-! ## Meanings -/

/-- `fadd` (R95). -/
def execFadd (h : Head) (o : RRR) (s : State) : Host.Outcome State Fault Refusal :=
  issue (.fadd h o) h s (floatFixed h o.d (floatOp2 o (addCodes .f32 (rndOf o) false)))

/-- `fsub` (R95). -/
def execFsub (h : Head) (o : RRR) (s : State) : Host.Outcome State Fault Refusal :=
  issue (.fsub h o) h s (floatFixed h o.d (floatOp2 o (addCodes .f32 (rndOf o) true)))

/-- `fmul` (R95). -/
def execFmul (h : Head) (o : RRR) (s : State) : Host.Outcome State Fault Refusal :=
  issue (.fmul h o) h s (floatFixed h o.d (floatOp2 o (mulCodes .f32 (rndOf o))))

/-- `ffma` (R95). -/
def execFfma (h : Head) (o : RRR) (s : State) : Host.Outcome State Fault Refusal :=
  issue (.ffma h o) h s (floatFixed h o.d fun s th =>
    BitVec.ofNat 32 (finish .f32 o (fmaCodes .f32 (rndOf o) (modA3 .f32 o (srcWord s th o.a).toNat)
      (modB3 .f32 o (srcWord s th o.b).toNat) (modC .f32 o (srcWord s th o.c).toNat))))

/-- `fmin` (R96). -/
def execFmin (h : Head) (o : RRR) (s : State) : Host.Outcome State Fault Refusal :=
  issue (.fmin h o) h s (floatFixed h o.d (floatOp2 o (minMax .f32 false)))

/-- `fmax` (R96). -/
def execFmax (h : Head) (o : RRR) (s : State) : Host.Outcome State Fault Refusal :=
  issue (.fmax h o) h s (floatFixed h o.d (floatOp2 o (minMax .f32 true)))

/-- `fdiv` (R95, R97). -/
def execFdiv (h : Head) (o : RRR) (s : State) : Host.Outcome State Fault Refusal :=
  issue (.fdiv h o) h s (floatVar h o.d (floatOp2 o fun a b => divRound .f32 (rndOf o) (unpack .f32 a) (unpack .f32 b)))

/-- `fsqrt` (R95, R97). -/
def execFsqrt (h : Head) (o : RRR) (s : State) : Host.Outcome State Fault Refusal :=
  issue (.fsqrt h o) h s (floatVar h o.d (floatOp1 o (sqrtCode (rndOf o))))

/-- `frcp` (R95, R97). -/
def execFrcp (h : Head) (o : RRR) (s : State) : Host.Outcome State Fault Refusal :=
  issue (.frcp h o) h s (floatVar h o.d (floatOp1 o fun a => divRound .f32 (rndOf o) (.fin false 1 0) (unpack .f32 a)))

/-- `frsq` (R95, R97). -/
def execFrsq (h : Head) (o : RRR) (s : State) : Host.Outcome State Fault Refusal :=
  issue (.frsq h o) h s (floatVar h o.d (floatOp1 o (rsqrtCode (rndOf o))))

/-- `fexp2` (R95, R97). -/
def execFexp2 (h : Head) (o : RRR) (s : State) : Host.Outcome State Fault Refusal :=
  issue (.fexp2 h o) h s (floatVar h o.d (floatOp1 o fun a => exp2Round (rndOf o) (unpack .f32 a)))

/-- `flog2` (R95, R97). -/
def execFlog2 (h : Head) (o : RRR) (s : State) : Host.Outcome State Fault Refusal :=
  issue (.flog2 h o) h s (floatVar h o.d (floatOp1 o fun a => log2Round (rndOf o) (unpack .f32 a)))

/-- `fsinpi` (R95, R97). -/
def execFsinpi (h : Head) (o : RRR) (s : State) : Host.Outcome State Fault Refusal :=
  issue (.fsinpi h o) h s (floatVar h o.d (floatOp1 o fun a => sinpiRound (rndOf o) (unpack .f32 a)))

/-- `fcospi` (R95, R97). -/
def execFcospi (h : Head) (o : RRR) (s : State) : Host.Outcome State Fault Refusal :=
  issue (.fcospi h o) h s (floatVar h o.d (floatOp1 o fun a => cospiRound (rndOf o) (unpack .f32 a)))

/-- `ftanh` (R95, R97). -/
def execFtanh (h : Head) (o : RRR) (s : State) : Host.Outcome State Fault Refusal :=
  issue (.ftanh h o) h s (floatVar h o.d (floatOp1 o fun a => tanhRound (rndOf o) (unpack .f32 a)))

/-- `frnd` (R95). -/
def execFrnd (h : Head) (o : RRR) (s : State) : Host.Outcome State Fault Refusal :=
  issue (.frnd h o) h s (floatFixed h o.d (floatOp1 o (integralCode (rndOf o))))

/-- `fscl` (R95): b is an integer and takes no modifier. -/
def execFscl (h : Head) (o : RRR) (s : State) : Host.Outcome State Fault Refusal :=
  issue (.fscl h o) h s (floatFixed h o.d fun s th =>
    BitVec.ofNat 32 (finish .f32 o (scaleCode (rndOf o) (modA .f32 o (srcWord s th o.a).toNat) (srcWord s th o.b).toInt)))

/-- `fcmp` (R99). -/
def execFcmp (h : Head) (o : RRR) (s : State) : Host.Outcome State Fault Refusal :=
  issue (.fcmp h o) h s (fixed h 5 fun s _ th =>
    dstPred o.d (combine (bopOf o)
      (floatCond (condOf o) (unpack .f32 (srcWord s th o.a).toNat) (unpack .f32 (srcWord s th o.b).toNat)) (th.pred o.c.toNat)))

/-- `fclass` (R100). -/
def execFclass (h : Head) (o : RRR) (s : State) : Host.Outcome State Fault Refusal :=
  issue (.fclass h o) h s (floatFixed h o.d fun s th =>
    BitVec.ofNat 32 (2 ^ classBit (fmtOf o.ty.toNat) (srcWord s th o.a).toNat))

/-- `hadd2` (R101). -/
def execHadd2 (h : Head) (o : RRR) (s : State) : Host.Outcome State Fault Refusal :=
  issue (.hadd2 h o) h s (floatFixed h o.d (halfOp2 o fun f => addCodes f (rndOf o) false))

/-- `hmul2` (R101). -/
def execHmul2 (h : Head) (o : RRR) (s : State) : Host.Outcome State Fault Refusal :=
  issue (.hmul2 h o) h s (floatFixed h o.d (halfOp2 o fun f => mulCodes f (rndOf o)))

/-- `hfma2` (R101). -/
def execHfma2 (h : Head) (o : RRR) (s : State) : Host.Outcome State Fault Refusal :=
  issue (.hfma2 h o) h s (floatFixed h o.d fun s th =>
    let f := fmtOf o.ty.toNat
    onHalves (fun a b c => finish f o (fmaCodes f (rndOf o) (modA3 f o a) (modB3 f o b) (modC f o c)))
      (srcHalves s th f o.a) (srcHalves s th f o.b) (srcHalves s th f o.c))

/-- `hmin2` (R101). -/
def execHmin2 (h : Head) (o : RRR) (s : State) : Host.Outcome State Fault Refusal :=
  issue (.hmin2 h o) h s (floatFixed h o.d (halfOp2 o fun f => minMax f false))

/-- `hmax2` (R101). -/
def execHmax2 (h : Head) (o : RRR) (s : State) : Host.Outcome State Fault Refusal :=
  issue (.hmax2 h o) h s (floatFixed h o.d (halfOp2 o fun f => minMax f true))

/-- A packed source with a negation on both halves (R101, R102). -/
def negHalves (n : Bool) (v : Word) : Word := if n then v ^^^ 0x80008000 else v

/-- `fdot2` (R102). -/
def execFdot2 (h : Head) (o : RRR) (s : State) : Host.Outcome State Fault Refusal :=
  issue (.fdot2 h o) h s (floatFixed h o.d fun s th =>
    let f := fmtOf o.ty.toNat
    BitVec.ofNat 32 (finish .f32 o (dot2Code f (rndOf o) (negHalves (o.mod.getLsbD 3) (srcHalves s th f o.a))
      (negHalves (o.mod.getLsbD 2) (srcHalves s th f o.b)) (modC .f32 o (srcWord s th o.c).toNat))))

/-- `fcvt` (R104). -/
def execFcvt (h : Head) (o : RRR) (s : State) : Host.Outcome State Fault Refusal :=
  issue (.fcvt h o) h s (floatFixed h o.d fun s th =>
    BitVec.ofNat 32 (convert (fmtOf o.ty.toNat) (rndOf o) (satOf o) (unpack .f32 (srcWord s th o.a).toNat)))

/-- `i2f` (R105). -/
def execI2f (h : Head) (o : RRR) (s : State) : Host.Outcome State Fault Refusal :=
  issue (.i2f h o) h s (floatFixed h o.d fun s th =>
    BitVec.ofNat 32 (roundVal .f32 (rndOf o) (ofInt (tyRead o.ty (srcTyped s th o.ty o.a)))))

/-- `f2i` (R105). -/
def execF2i (h : Head) (o : RRR) (s : State) : Host.Outcome State Fault Refusal :=
  issue (.f2i h o) h s (fixed h 5 fun s _ th =>
    dstTyped o.ty o.d (tyWrite o.ty (toInt o.ty (rndOf o) (unpack .f32 (srcWord s th o.a).toNat))))

/-- Two codes of `w` bits placed at elements 2·SEL and 2·SEL + 1 of a base (R106). -/
def packPair (w sel : Nat) (base : Word) (a b : Nat) : Word :=
  let m := BitVec.ofNat 32 (maskBits (2 * sel * w) (2 * w))
  (base &&& ~~~m) ||| ((BitVec.ofNat 32 (a % 2 ^ w + b % 2 ^ w * 2 ^ w)) <<< (2 * sel * w))

/-- `fpk` (R106). -/
def execFpk (h : Head) (o : RRR) (s : State) : Host.Outcome State Fault Refusal :=
  issue (.fpk h o) h s (floatFixed h o.d fun s th =>
    let f := fmtOf o.ty.toNat
    let cv (c : BitVec 8) : Nat := convert f (rndOf o) (satOf o) (unpack .f32 (srcWord s th c).toNat)
    packPair f.bits (selOf o) (srcWord s th o.c) (cv o.a) (cv o.b))

/-- `fupk` (R107). -/
def execFupk (h : Head) (o : RRR) (s : State) : Host.Outcome State Fault Refusal :=
  issue (.fupk h o) h s (floatFixed h o.d fun s th =>
    let f := fmtOf o.ty.toNat
    BitVec.ofNat 32 (roundVal .f32 0 (unpack f ((srcWord s th o.a) >>> (selOf o * f.bits)).toNat)))

/-- KM[2] is SAT and KM[1:0] RND in the immediate forms (R98). -/
def immFloat (o : KF) (c : Nat) : Word := BitVec.ofNat 32 (if o.km.getLsbD 2 then satUnit .f32 c else c)

/-- `faddk` (R98). -/
def execFaddk (h : Head) (o : KF) (s : State) : Host.Outcome State Fault Refusal :=
  issue (.faddk h o) h s (floatFixed h o.d fun s th =>
    immFloat o (addCodes .f32 (o.km.extractLsb' 0 2).toNat false (srcWord s th o.d).toNat o.imm.toNat))

/-- `fmulk` (R98). -/
def execFmulk (h : Head) (o : KF) (s : State) : Host.Outcome State Fault Refusal :=
  issue (.fmulk h o) h s (floatFixed h o.d fun s th =>
    immFloat o (mulCodes .f32 (o.km.extractLsb' 0 2).toNat (srcWord s th o.d).toNat o.imm.toNat))

end Sys2Proof.Machine
end

