-- ==== Sys2Proof/Machine/Room.lean ====
section
/-! DEFINITION. Fields of launch records, plans and pipelines (R255, R330 to R333), the resources of a core, and who may take them
(R15, R29, R206, R258, R337, R339). -/

namespace Sys2Proof.Machine

/-! ## Fields of a launch -/

/-- KIND (R330). -/
def Launch.kind (l : Launch) : Nat := field l.record 0 4
/-- PRIO. -/
def Launch.prio (l : Launch) : Nat := field l.record 4 3
/-- ORD; a DRAW is ordered. -/
def Launch.ord (l : Launch) : Bool := l.kind = 2 || l.record.getLsbD 7
/-- CE. -/
def Launch.ce (l : Launch) : Bool := l.record.getLsbD 10
/-- REGS. -/
def Launch.regs (l : Launch) : Nat := field l.record 26 3
/-- Cohort size. -/
def Launch.cohort (l : Launch) : Nat := field l.record 29 7 + 1
/-- ACC. -/
def Launch.accTiles (l : Launch) : Nat := field l.record 36 9
/-- SCR. -/
def Launch.scr (l : Launch) : Nat := field l.record 45 8
/-- ENTRY of a KERNEL; GENTRY of a DRAW's pipeline. -/
def Launch.entry (l : Launch) : DWord :=
  if l.kind = 2 then l.pipe.extractLsb' 0 64 else l.record.extractLsb' 384 64
/-- PENTRY. -/
def Launch.pentry (l : Launch) : DWord := l.pipe.extractLsb' 64 64
/-- Grid extents. -/
def Launch.grid (l : Launch) : Nat × Nat × Nat := (field l.record 576 32, field l.record 608 32, field l.record 640 32)
/-- Teams of the launch. -/
def Launch.total (l : Launch) : Nat := l.grid.1 * l.grid.2.1 * l.grid.2.2
/-- Team shape. -/
def Launch.shape (l : Launch) : Nat × Nat × Nat :=
  (field l.record 672 10 + 1, field l.record 682 10 + 1, field l.record 692 10 + 1)
/-- Team size. -/
def Launch.size (l : Launch) : Nat := l.shape.1 * l.shape.2.1 * l.shape.2.2
/-- The spawn bin timer (R331). -/
def Launch.bint (l : Launch) : Nat := if field l.record 704 16 = 0 then 256 else field l.record 704 16
/-- The gather window (R331). -/
def Launch.gwin (l : Launch) : Nat := if field l.record 720 16 = 0 then 512 else field l.record 720 16
/-- AGE of a cohort launch (R331). -/
def Launch.age (l : Launch) : Nat := if field l.record 832 32 = 0 then 110000 else field l.record 832 32
/-- A plan is named. -/
def Launch.planned (l : Launch) : Bool := field l.record 512 64 ≠ 0
/-- The base of stack window 0, the stride, and the spill size of a plan (R333). -/
def Launch.stack (l : Launch) : DWord × Nat × Nat :=
  if l.planned then (l.plan.extractLsb' 1024 64, field l.plan 1088 32, 64 * field l.plan 1120 16) else (0, 0, 0)
/-- Pixel team size (R255, R262). -/
def Launch.pteam (l : Launch) : Nat := 32 * (field l.pipe 144 5 + 1)
/-- PSCR. -/
def Launch.pscr (l : Launch) : Nat := field l.pipe 136 8
/-- PREGS. -/
def Launch.pregs (l : Launch) : Nat := field l.pipe 128 3

/-- A context may dispatch and run teams now: it is live, and its function holds the time slice or is the physical one. -/
def State.mayRun (s : State) (ctx : Nat) : Bool :=
  let c := s.context ctx
  s.power = .on && c.desc.getLsbD 0 && !c.desc.getLsbD 3 && (c.func = 0 || (c.func = s.sched.holder && !s.sched.switching))

/-! ## Resources of a core (R15, R29, R206, R337) -/

/-- The slots of a lane that are taken. -/
def State.slotsUsed (s : State) (col core lane : Nat) : List Nat :=
  (s.threads.filter fun t => t.col = col && t.core = core && t.lane = lane).map Thread.slot

/-- The lowest free slot of a lane (R206). -/
def State.lowestSlot (s : State) (col core lane : Nat) : Option Nat :=
  (List.range 32).find? fun i => !(s.slotsUsed col core lane).contains i

/-- Threads of a team of `n` that are homed on the lane at place `k` of `m` granted lanes (R29, R337). -/
def laneShare (n m k : Nat) : Nat := (n + m - 1 - k) / m

/-- Threads of a pixel team on a lane whose quads it has not started: quad q stands on lanes 4(q mod |L|/4) onwards. -/
def Team.heldOn (t : Team) (lane : Nat) : Nat :=
  if t.kind = .pixel then
    match t.lanes.idxOf? lane with
    | some k => laneShare t.size t.lanes.length k - laneShare (t.started / 4) (t.lanes.length / 4) (k / 4)
    | none => 0
  else 0

/-- The teams on a core. -/
def State.teamsOn (s : State) (col core : Nat) : List Team := s.teams.filter fun t => t.col = col && t.core = core

/-- Slots of a lane held for threads of pixel teams to come. -/
def State.slotsHeld (s : State) (col core lane : Nat) : Nat := ((s.teamsOn col core).map fun t => t.heldOn lane).sum

/-- Blocks granted to pixel teams for threads that they have not started (R262, R337). -/
def State.blocksHeld (s : State) (col core lane : Nat) : Nat :=
  ((s.teamsOn col core).map fun t => t.heldOn lane * ((s.launch? t.launch).map Launch.pregs |>.getD 0)).sum

/-- Free blocks of a lane's pool: neither a thread's nor granted to a team for threads to come (R15). -/
def State.pool (s : State) (col core lane : Nat) : Nat :=
  96 - ((s.threads.filter fun t => t.col = col && t.core = core && t.lane = lane).map Thread.allot).sum - s.blocksHeld col core lane

/-- What a team needs on a core, or has reserved there: team places, thread slots and blocks by lane, scratchpad units and accumulator
tiles. -/
structure Claim where
  col : Nat
  core : Nat
  teams : Nat
  lanes : List (Nat × Nat × Nat)
  scr : Nat
  acc : Nat
  deriving DecidableEq, Repr

/-- The lanes of a mask of pens in ascending order. -/
def lanesOf (pens : Nat) : List Nat := (List.range 128).filter fun l => pens.testBit (l / 32)

/-- What a team of `n` threads needs at a place. -/
def Reserve.claim (r : Reserve) (n regs scr acc : Nat) : Claim :=
  let ls := lanesOf r.pens
  ⟨r.col, r.core, 1, ls.zipIdx.map fun l => (l.1, laneShare n ls.length l.2, laneShare n ls.length l.2 * regs), scr, acc⟩

/-- What a team of a launch needs at a place. -/
def Launch.claim (l : Launch) (r : Reserve) : Claim := r.claim l.size l.regs l.scr l.accTiles

/-- What a pixel team of a draw needs at a place. -/
def Launch.pixelClaim (l : Launch) (r : Reserve) : Claim := r.claim l.pteam l.pregs l.pscr 0

/-- What a cohort has reserved at the place of one of its teams. -/
def Held.claim (h : Held) : Claim :=
  ⟨h.place.col, h.place.core, if h.team then 1 else 0,
    (lanesOf h.place.pens).zipIdx.map fun l => (l.1, h.slots.getD l.2 0, h.blocks.getD l.2 0), h.scr, h.acc⟩

/-- Slots and blocks of a claim on a lane. -/
def Claim.onLane (c : Claim) (lane : Nat) : Nat × Nat := ((c.lanes.find? (·.1 = lane)).map (·.2)).getD (0, 0)

/-- The pixel team that stands at a reserved place is resident. -/
def State.atReserve (s : State) (l : Launch) (r : Reserve) : Bool :=
  s.teams.any fun t => t.launch = l.id && t.kind = .pixel && t.col = r.col && t.core = r.core && t.lanes = lanesOf r.pens

/-- A team of launch `m` must leave what launch `k` has reserved alone (R258, R339). -/
def respects (now : Nat) (m k : Launch) : Bool :=
  m.id ≠ k.id && (k.kind = 2 || !(k.prio < m.prio ||
    (k.prio = m.prio && decide (m.cohort < k.cohort) && (match k.target with | some (_, since) => decide (now < since + k.age) | none => true))))

/-- The claims that a team of a launch must respect; its own launch's draw reserves count, and what its own cohort holds does not. -/
def State.claims (s : State) (m : Launch) : List Claim :=
  s.sched.launches.flatMap fun k =>
    if k.kind = 2 then (k.reserved.filter fun r => !s.atReserve k r).map k.pixelClaim
    else if respects s.now m k then k.held.map Held.claim else []

/-- The claims that a thread of a team must leave alone when it takes a slot or blocks: what its own launch's next cohort holds among
them. -/
def State.claimsOf (s : State) (team : Nat) : List Claim :=
  match (s.teams.find? (·.id = team)).bind fun t => s.launch? t.launch with
  | some l => s.claims l ++ l.held.map Held.claim
  | none => []

/-- Those of the claims that lie on a core. -/
def claimsAt (col core : Nat) (cs : List Claim) : List Claim := cs.filter fun o => o.col = col && o.core = core

/-- Team places of a core that are free beside claims (R337). -/
def State.teamRoom (s : State) (col core : Nat) (cs : List Claim) : Nat :=
  64 - (s.teamsOn col core).length - ((claimsAt col core cs).map Claim.teams).sum

/-- Scratchpad units of a core that are free beside claims. -/
def State.scrRoom (s : State) (col core : Nat) (cs : List Claim) : Nat :=
  128 - ((s.teamsOn col core).map fun t => t.scratchSize / 4096).sum - ((claimsAt col core cs).map Claim.scr).sum

/-- Accumulator tiles of a core that are free beside claims. -/
def State.accRoom (s : State) (col core : Nat) (cs : List Claim) : Nat :=
  256 - ((s.teamsOn col core).map Team.accTiles).sum - ((claimsAt col core cs).map Claim.acc).sum

/-- Thread slots of a lane that are free beside claims. -/
def State.slotRoom (s : State) (col core lane : Nat) (cs : List Claim) : Nat :=
  32 - (s.slotsUsed col core lane).length - s.slotsHeld col core lane - ((claimsAt col core cs).map fun o => (o.onLane lane).1).sum

/-- Blocks of a lane's pool that are free beside claims. -/
def State.blockRoom (s : State) (col core lane : Nat) (cs : List Claim) : Nat :=
  s.pool col core lane - ((claimsAt col core cs).map fun o => (o.onLane lane).2).sum

/-- The claim can be met on its core beside the teams there and other claims (R337). -/
def State.fits (s : State) (c : Claim) (others : List Claim) : Bool :=
  c.col < 32 && c.core < 128 && !c.lanes.isEmpty && decide (c.teams ≤ s.teamRoom c.col c.core others) &&
    decide (c.scr ≤ s.scrRoom c.col c.core others) && decide (c.acc ≤ s.accRoom c.col c.core others) &&
    c.lanes.all fun l =>
      decide (l.2.1 ≤ s.slotRoom c.col c.core l.1 others) && decide (l.2.2 ≤ s.blockRoom c.col c.core l.1 others)

/-- What a team of a cohort can have reserved at its place beside other claims: of each resource no more than it needs (R339). -/
def State.gatherAt (s : State) (l : Launch) (r : Reserve) (others : List Claim) : Held :=
  let c := l.claim r
  { place := r, team := decide (0 < s.teamRoom c.col c.core others), scr := min c.scr (s.scrRoom c.col c.core others)
    acc := min c.acc (s.accRoom c.col c.core others)
    slots := c.lanes.map fun x => min x.2.1 (s.slotRoom c.col c.core x.1 others)
    blocks := c.lanes.map fun x => min x.2.2 (s.blockRoom c.col c.core x.1 others) }

/-- The part of one reservation that another also has. -/
def Held.common (a b : Held) : Held :=
  { a with
    team := a.team && b.team, scr := min a.scr b.scr, acc := min a.acc b.acc
    slots := List.zipWith min a.slots b.slots, blocks := List.zipWith min a.blocks b.blocks }

/-- Resources reserved, counted. -/
def Held.count (h : Held) : Nat := (if h.team then 1 else 0) + h.scr + h.acc + h.slots.sum + h.blocks.sum

/-- Everything that the team needs at its place is reserved. -/
def Held.full (l : Launch) (h : Held) : Bool := h.claim = l.claim h.place

/-- What a cohort holds now of what it had reserved; the rest has been taken and lapses (R339). -/
def State.keep (s : State) (l : Launch) : List Held :=
  l.held.foldl (fun kept h => kept ++ [h.common (s.gatherAt l h.place (s.claims l ++ kept.map Held.claim))]) []

/-- Reservations of cohorts whose resources have been taken lapse (R339). -/
def State.lapse (s : State) : State :=
  { s with sched := { s.sched with launches := s.sched.launches.map fun k => { k with held := s.keep k } } }

end Sys2Proof.Machine
end

