-- ==== Sys2Proof/Machine/Moves.lean ====
section
/-! DEFINITION. Moves, constants, predicates and special registers (R94, R108 to R115), and the quad instructions (R116 to
R118). -/

namespace Sys2Proof.Machine

/-- `mov` (R108). -/
def execMov (h : Head) (o : RRR) (s : State) : Host.Outcome State Fault Refusal :=
  issue (.mov h o) h s (fixed h 4 (bitOp o fun a _ _ => a))

/-- What `movk` writes under each KM (R109). -/
def movkResult (o : KF) : List Dest :=
  match o.km.toNat with
  | 0 => dstWord o.d o.imm
  | 1 => dstPair o.d (o.imm.signExtend 64)
  | 2 => dstPair o.d (o.imm.zeroExtend 64)
  | _ => if isReg o.d then [.reg (o.d.toNat + 1) o.imm] else []

/-- `movk` (R109). -/
def execMovk (h : Head) (o : KF) (s : State) : Host.Outcome State Fault Refusal :=
  issue (.movk h o) h s (fixed h 4 fun _ _ _ => movkResult o)

/-- `sel` (R94). -/
def execSel (h : Head) (o : RRR) (s : State) : Host.Outcome State Fault Refusal :=
  issue (.sel h o) h s (fixed h 4 fun s _ th =>
    dstTyped o.ty o.d (srcTyped s th o.ty (if th.pred o.c.toNat != o.mod.getLsbD 0 then o.a else o.b)))

/-- A predicate result of two predicates with their inversions (R110). -/
def predOp (o : RRR) (f : Bool → Bool → Bool) (_ : State) (_ : Issue) (th : Thread) : List Dest :=
  dstPred o.d (f (th.pred o.a.toNat != o.mod.getLsbD 3) (th.pred o.b.toNat != o.mod.getLsbD 2))

/-- `pand` (R110). -/
def execPand (h : Head) (o : RRR) (s : State) : Host.Outcome State Fault Refusal :=
  issue (.pand h o) h s (fixed h 4 (predOp o fun a b => a && b))

/-- `por` (R110). -/
def execPor (h : Head) (o : RRR) (s : State) : Host.Outcome State Fault Refusal :=
  issue (.por h o) h s (fixed h 4 (predOp o fun a b => a || b))

/-- `pxor` (R110). -/
def execPxor (h : Head) (o : RRR) (s : State) : Host.Outcome State Fault Refusal :=
  issue (.pxor h o) h s (fixed h 4 (predOp o fun a b => a != b))

/-- `pnot` (R110). -/
def execPnot (h : Head) (o : RRR) (s : State) : Host.Outcome State Fault Refusal :=
  issue (.pnot h o) h s (fixed h 4 fun _ _ th => dstPred o.d (!th.pred o.a.toNat))

/-- `prd` (R111): bit 7 is p7. -/
def execPrd (h : Head) (o : RRR) (s : State) : Host.Outcome State Fault Refusal :=
  issue (.prd h o) h s (fixed h 4 fun _ _ th => dstWord o.d ((1#1 ++ th.preds).zeroExtend 32))

/-- The predicates `pwr` writes: those whose mask bit is 1 (R111). -/
def pwrResult (a b : Word) : List Dest :=
  ((List.range 7).filter fun i => b.getLsbD i).map fun i => .pred i (a.getLsbD i)

/-- `pwr` (R111). -/
def execPwr (h : Head) (o : RRR) (s : State) : Host.Outcome State Fault Refusal :=
  issue (.pwr h o) h s (fixed h 4 fun s _ th => pwrResult (srcWord s th o.a) (srcWord s th o.b))

/-- `nop` (R112). -/
def execNop (h : Head) (o : XF) (s : State) : Host.Outcome State Fault Refusal :=
  issue (.nop h o) h s (fixed h 4 fun _ _ _ => [])

/-! ## Special registers (R113) -/

/-- The base of the scratchpad window (R120). -/
def scratchBase : Nat := 0x00FFFFFFFFF80000

/-- The special register that FN selects (R113). -/
def specialReg (s : State) (c : Issue) (th : Thread) (fn : Nat) : Word :=
  let ofTeam (f : Team → Word) : Word := match s.team? th.team with | some t => f t | none => 0
  match fn with
  | 0x000 => c.clause.head.extractLsb' 0 32
  | 0x001 => c.clause.head.extractLsb' 32 32
  | 0x002 => BitVec.ofNat 32 th.allot
  | 0x003 => BitVec.ofNat 32 (th.spills * 65536 + th.stack.length)
  | 0x004 => BitVec.ofNat 32 (((List.range 8).filter fun j => s.slotSet th.id j).map (2 ^ ·)).sum
  | 0x005 => BitVec.ofNat 32 (s.pool th.col th.core th.lane)
  | 0x006 => ofTeam Team.item
  | 0x007 => ofTeam Team.itemEnd
  | 0x008 => BitVec.ofNat 32 scratchBase
  | 0x009 => BitVec.ofNat 32 (scratchBase / 2 ^ 32)
  | 0x00A => ofTeam fun t => BitVec.ofNat 32 t.scratchSize
  | 0x00B => ofTeam fun t => BitVec.ofNat 32 t.extent.1
  | 0x00C => ofTeam fun t => BitVec.ofNat 32 t.extent.2.1
  | 0x00D => ofTeam fun t => BitVec.ofNat 32 t.extent.2.2
  | _ => BitVec.ofNat 32 ((s.context th.ctx).smrep.toNat * 2 + (s.context th.ctx).chksb.toNat)

/-- `rds` (R113). -/
def execRds (h : Head) (o : XF) (s : State) : Host.Outcome State Fault Refusal :=
  issue (.rds h o) h s (fixed h 4 fun s c th => dstWord o.d (specialReg s c th o.fn.toNat))

/-- `wrs` (R113, R114): the team's item counter. -/
def execWrs (h : Head) (o : XF) (s : State) : Host.Outcome State Fault Refusal :=
  issue (.wrs h o) h s fun s c th =>
    let v := srcWord s th o.a
    let s := match s.team? th.team with
      | some t => s.setTeam (if o.fn = 6 then { t with item := v } else { t with itemEnd := v })
      | none => s
    s.setThread (th.advance c h s.now)

/-! ## Quad instructions (R116) -/

/-- The value position `i` supplies from source A: +0 where the member has exited or faults at the word, else what it would
read now (R116). Under the checking scoreboard a member whose guard fails does not fault at an A that a fixed-latency write is still to
reach, and supplies the value that A has now (DESIGN CHOICE, notes/assumptions/85.md). -/
def State.supply (s : State) (c : Issue) (th : Thread) (a : BitVec 8) (i : Nat) : Word :=
  match s.quadMember th i with
  | none => 0
  | some m =>
    if m.id = th.id then srcWord s th a
    else if c.faulting.contains m.id then 0
    else srcWord s (m.settle s.now) a

/-- The effect of a quad instruction: its own result, from what the members supply, is written 6 cycles later. -/
def quadOp (h : Head) (o : RRR) (res : (Nat → Word) → Nat → Word) : State → Issue → Thread → State :=
  fixed h 6 fun s c th => dstWord o.d (res (s.supply c th o.a) (th.quad.getD 0))

/-- The rounded difference of two supplied values under the modifiers of R117: FINE is bit 0 and bit 2 is zero. -/
def quadDiff (o : RRR) (x y : Word) : Word :=
  let m (v : Word) : Nat := modCode .f32 (o.mod.getLsbD 1) (o.mod.getLsbD 3) v.toNat
  BitVec.ofNat 32 (finish .f32 o (addCodes .f32 (rndOf o) true (m x) (m y)))

/-- `ddx` (R117). -/
def execDdx (h : Head) (o : RRR) (s : State) : Host.Outcome State Fault Refusal :=
  issue (.ddx h o) h s fun s c th =>
    if th.quad.isNone then fixed h 6 (fun _ _ _ => dstWord o.d 0) s c th
    else quadOp h o (fun v i => if o.mod.getLsbD 0 && 2 ≤ i then quadDiff o (v 3) (v 2) else quadDiff o (v 1) (v 0)) s c th

/-- `ddy` (R117). -/
def execDdy (h : Head) (o : RRR) (s : State) : Host.Outcome State Fault Refusal :=
  issue (.ddy h o) h s fun s c th =>
    if th.quad.isNone then fixed h 6 (fun _ _ _ => dstWord o.d 0) s c th
    else quadOp h o (fun v i => if o.mod.getLsbD 0 && i % 2 = 1 then quadDiff o (v 3) (v 1) else quadDiff o (v 2) (v 0)) s c th

/-- The source position of a member at position `i` (R118). -/
def swizzle (mod : BitVec 7) (i : Nat) : Nat :=
  match (mod.extractLsb' 0 2).toNat with
  | 0 => i ^^^ 1
  | 1 => i ^^^ 2
  | 2 => i ^^^ 3
  | _ => (mod.extractLsb' 2 2).toNat

/-- `qswz` (R118). -/
def execQswz (h : Head) (o : RRR) (s : State) : Host.Outcome State Fault Refusal :=
  issue (.qswz h o) h s (quadOp h o fun v i => v (swizzle o.mod i))

end Sys2Proof.Machine
end

