-- ==== Sys2Proof/Machine/Sync.lean ====
section
/-! DEFINITION. Queues, barriers, convergence registers and thread control (R148 to R161), with the deadlock traps (R221,
R222), spawn bins (R216 to R218), and the end of threads and teams (R12, R156). -/

namespace Sys2Proof.Machine

/-! ## Waiting (R150, R151) -/

/-- A wait for phase t is satisfied: (phase − t) mod 2^16 as a signed value is at least zero (R150). -/
def phaseReached (phase target : Nat) : Bool := decide ((phase + 65536 - target % 65536) % 65536 < 32768)

/-- Barrier `b` of a team; one that is absent is unconfigured. -/
def Team.barrier (t : Team) (b : Nat) : Barrier := t.barriers.getD b ⟨0, 0, 0, false⟩

/-- Ring `q` of a team. -/
def Team.ring (t : Team) (q : Nat) : Option Ring := t.queues.getD q none

/-- Replacing ring `q` of a team. -/
def Team.setRing (t : Team) (q : Nat) (r : Ring) : Team := { t with queues := t.queues.set q (some r) }

/-- Some lane of the core has a free thread slot beside reserved ones (R222). -/
def State.slotFree (s : State) (cs : List Claim) (col core : Nat) : Bool :=
  (List.range 128).any fun l => decide (0 < s.slotRoom col core l cs)

/-- The thread is blocked in the sense of the team deadlock rule (R152, R222). -/
def State.teamBlocked (s : State) (tm : Team) (t : Thread) : Bool :=
  t.hold.isNone && t.trap.isNone && !t.parked &&
    match t.block.map Block.wait with
    | some (.qpush q _) => (match tm.ring q with | some r => r.count = r.slots | none => true)
    | some (.qpop q _) => (match tm.ring q with | some r => r.count = 0 | none => true)
    | some (.bwait b n _) => !phaseReached (tm.barrier b).phase n
    | some (.barrw b n _) => !phaseReached (tm.barrier b).phase n
    | some (.spawnRoom _ _) => !s.unperformed t.id && !s.slotFree (s.claimsOf tm.id) t.col t.core
    | _ => false

/-- An arrival on the team's barriers is outstanding (R222). -/
def State.arrivalDue (s : State) (team : Nat) : Bool :=
  (s.engines.ops.any fun e => e.team = team && (e.bar.isSome ||
      match e.engine with
      | .copy j => (match j.phase with | .failed _ _ _ => true | _ => false)
      | _ => false)) ||
    s.ops.any fun o => o.team = team && (match o.stage with | .arrival _ _ => true | _ => false)

/-- The earlier of two blocked threads: by issue of the blocking instruction, then lane, then slot (R222). -/
def earlierBlocked (a b : Thread) : Bool :=
  let x (t : Thread) : Nat := ((t.block.map Block.since).getD 0 * 128 + t.lane) * 32 + t.slot
  decide (x a ≤ x b)

/-- A blocked thread's wait is withdrawn before its trap: it leaves its ring's line, and an arrival that its `barrw` made in
the present phase is taken back, since the trapped instruction has not acted (R222, notes/assumptions/15.md). -/
def State.withdraw (s : State) (t : Thread) : State :=
  match t.block.map Block.wait, s.team? t.team with
  | some (.barrw b _ _), some tm =>
    s.setTeam { tm with barriers := tm.barriers.modify b fun q => { q with pending := min q.expected (q.pending + 1) } }
  | _, some tm =>
    s.setTeam { tm with queues := tm.queues.map (Option.map fun r => { r with waiters := r.waiters.filter (· ≠ t.id) }) }
  | _, none => s

/-- A waiting thread takes a precise fault at its blocking instruction. -/
def State.faultWaiting (s : State) (t : Thread) (cause : Nat) (addr : DWord) : State :=
  s.takeTrap { t with block := none } { cause := cause, sub := 0, addr := addr, deferred := false, pc := t.pc, head := t.head }

/-- A trap of a blocked thread, precise at its instruction, with an address the spec does not state (notes/assumptions/6.md). -/
def State.trapBlocked (s : State) (t : Thread) (cause : Nat) : State :=
  let (v, s) := (s.withdraw t).free
  s.faultWaiting t cause v

/-- The thread is in its handler after a team deadlock trap (R222). -/
def Thread.deadlocked (t : Thread) : Bool := t.inHandler && t.trapInfo.toNat % 256 = 0x17

/-- The thread that takes the team deadlock trap: the one that is in its handler for such a trap, which is escalated, else the one
that blocked first (R222). -/
def deadlockVictim (ths : List Thread) : Option Thread :=
  (ths.find? Thread.deadlocked).orElse fun _ => ths.find? fun t => ths.all (earlierBlocked t)

/-- The team deadlock rule: when it is met, one thread traps (R152, R222). -/
def State.checkTeam (s : State) (team : Nat) : State :=
  match s.team? team with
  | none => s
  | some tm =>
    let ths := s.threads.filter (·.team = team)
    if ths.isEmpty || !ths.all (s.teamBlocked tm) || s.arrivalDue team then s
    else match deadlockVictim ths with
      | some t => s.trapBlocked t 0x17
      | none => s

/-! ## Queues (R148, R149) -/

/-- The ring that a queue instruction names, if the operand's form matches its entry size (R148). -/
def State.ringFor (s : State) (th : Thread) (q : Nat) (c : BitVec 8) : Option Ring :=
  match (s.team? th.team).bind fun t => t.ring q with
  | none => none
  | some r => if (if r.entry = 16 then rangeCode c 4 4 else even c || !isReg c) then some r else none

/-- The words of an entry source (R148). -/
def entryWords (s : State) (th : Thread) (r : Ring) (c : BitVec 8) : List Word :=
  if r.entry = 16 then srcRange th c 4
  else let v := srcPair s th c; [v.extractLsb' 0 32, v.extractLsb' 32 32]

/-- Writing an entry at the tail (R149). -/
def State.pushEntry (s : State) (team q : Nat) (words : List Word) : State :=
  match s.team? team with
  | none => s
  | some t =>
    match t.ring q with
    | none => s
    | some r =>
      let at_ := r.offset + r.entry * r.tail
      s.setTeam { t.setRing q { r with tail := (r.tail + 1) % r.slots, count := r.count + 1 } with
        scratch := writeBytes t.scratch at_ (bytesOfWords words) }

/-- The address of the entry at the head. -/
def Ring.headAddr (r : Ring) : DWord := BitVec.ofNat 64 (windowBase + r.offset + r.entry * r.head)

/-- A byte of the entry at the head lies in a marked sector: a pop then takes the poison consumed fault, precise at the word, and nothing
moves (R405, R406, notes/assumptions/63.md). -/
def Team.headMarked (t : Team) (r : Ring) : Bool :=
  let at_ := r.offset + r.entry * r.head
  t.scratchPoison.any fun k => k * 32 < at_ + r.entry && at_ < k * 32 + 32

/-- The same of a ring of a team: the address of the marked entry. -/
def State.popMarked (s : State) (team q : Nat) : Option DWord :=
  (s.team? team).bind fun t => (t.ring q).bind fun r => if t.headMarked r then some r.headAddr else none

/-- Reading the entry at the head and advancing it (R149). -/
def State.popEntry (s : State) (team q : Nat) : List Word × State :=
  match s.team? team with
  | none => ([], s)
  | some t =>
    match t.ring q with
    | none => ([], s)
    | some r =>
      (loadWords r.entry false (readBytes t.scratch (r.offset + r.entry * r.head) r.entry),
        s.setTeam (t.setRing q { r with head := (r.head + 1) % r.slots, count := r.count - 1 }))

/-- A thread joins the line of a ring. -/
def State.lineUp (s : State) (team q tid : Nat) : State :=
  match s.team? team with
  | none => s
  | some t =>
    match t.ring q with
    | none => s
    | some r => s.setTeam (t.setRing q { r with waiters := r.waiters ++ [tid] })

/-- What a thread in a ring's line waits to do: to push, or to pop. -/
def State.lineKind (s : State) (tid : Nat) : Option Bool :=
  match (s.thread? tid).bind fun t => t.block.map Block.wait with
  | some (.qpush _ _) => some true
  | some (.qpop _ _) => some false
  | _ => none

/-- Results written at once into the thread (R68). -/
def Thread.put (th : Thread) (ds : List Dest) : Thread := ds.foldl Thread.write th

/-- The first thread in a ring's line whose entry can move: a push while there is room, a pop while there is an entry (R149). -/
def State.nextServed (s : State) (r : Ring) : Option Nat :=
  r.waiters.find? fun t =>
    match s.lineKind t with
    | some true => decide (r.count < r.slots)
    | some false => decide (0 < r.count)
    | none => false

/-- The first thread in the line of a ring that can moves its entry (R149). -/
def State.serveFirst (s : State) (team q : Nat) : State :=
  match (s.team? team).bind fun tm => (tm.ring q).map fun r => (tm, r) with
  | none => s
  | some (tm, r) =>
    match (s.nextServed r).bind s.thread? with
    | none => s
    | some th =>
      let t := s.setTeam (tm.setRing q { r with waiters := r.waiters.filter (· ≠ th.id) })
      match th.block.map Block.wait with
      | some (.qpush _ ws) => (t.pushEntry team q ws).setThread (th.complete s.now [])
      | some (.qpop _ dst) =>
        if tm.headMarked r then t.faultWaiting th 0x0F r.headAddr
        else
          let (ws, t) := t.popEntry team q
          t.setThread (th.complete s.now ((dst.zip ws).map fun p => .reg p.1 p.2))
      | _ => s

/-- Up to `n` threads in the line of a ring are served. -/
def State.serveLine (s : State) (team q : Nat) : Nat → State
  | 0 => s
  | n + 1 => (s.serveFirst team q).serveLine team q n

/-- The threads in a ring's line that can move their entries do, before a request that arrives after them (R149). -/
def State.serveRing (s : State) (team q : Nat) : State :=
  s.serveLine team q ((((s.team? team).bind fun t => t.ring q).map fun r => r.waiters.length).getD 0)

/-- The ring has room for an entry. -/
def State.hasRoom (s : State) (team q : Nat) : Bool := ((s.team? team).bind fun t => t.ring q).any fun r => decide (r.count < r.slots)

/-- The ring has an entry. -/
def State.hasEntry (s : State) (team q : Nat) : Bool := ((s.team? team).bind fun t => t.ring q).any fun r => decide (0 < r.count)

/-- The entry's destination registers with words. -/
def entryDest (r : Ring) (c : BitVec 8) (ws : List Word) : List Dest :=
  ((entryRegs r.entry c).zip ws).map fun p => .reg p.1 p.2

/-- FN[3:0]. -/
def fnIdx (o : XF) : Nat := (o.fn.extractLsb' 0 4).toNat

/-- `qpush` (R149). A push whose thread has earlier accesses to be performed joins the line only once they are, and a push that comes
meanwhile goes before it: the spec does not say whether a push arrives at its issue or when it can act as a release
(notes/assumptions/74.md). -/
def execQpush (h : Head) (o : XF) (s : State) : Host.Outcome State Fault Refusal :=
  issue (.qpush h o) h s fun s c th =>
    match s.ringFor th (fnIdx o) o.a with
    | none => s.raiseFree c th 0x14
    | some r =>
      let ws := entryWords s th r o.a
      if th.helper then s.setThread (th.advance c h s.now)
      else if s.unperformed th.id then s.setThread (th.wait c h s.now (.pushHeld (fnIdx o) ws none))
      else
        let s := s.serveRing th.team (fnIdx o)
        if s.hasRoom th.team (fnIdx o) then (s.pushEntry th.team (fnIdx o) ws).setThread (th.advance c h s.now)
        else ((s.lineUp th.team (fnIdx o) th.id).setThread (th.wait c h s.now (.qpush (fnIdx o) ws))).checkTeam th.team

/-- `qpop` (R149): zero in a helper thread (R126). -/
def execQpop (h : Head) (o : XF) (s : State) : Host.Outcome State Fault Refusal :=
  issue (.qpop h o) h s fun s c th =>
    match s.ringFor th (fnIdx o) o.d with
    | none => s.raiseFree c th 0x14
    | some r =>
      if th.helper then s.setThread ((th.put (entryDest r o.d [0, 0, 0, 0])).advance c h s.now)
      else
        let s := s.serveRing th.team (fnIdx o)
        if s.hasEntry th.team (fnIdx o) then
          match s.popMarked th.team (fnIdx o) with
          | some va => s.raise c th 0x0F 0 va
          | none =>
            let (ws, s) := s.popEntry th.team (fnIdx o)
            s.setThread ((th.put (entryDest r o.d ws)).advance c h s.now)
        else
        ((s.lineUp th.team (fnIdx o) th.id).setThread
          (th.wait c h s.now (.qpop (fnIdx o) (entryRegs r.entry o.d)))).checkTeam th.team

/-- `qtry` (R149): false in a helper thread (R126). FN[4] is DIR. -/
def execQtry (h : Head) (o : XF) (s : State) : Host.Outcome State Fault Refusal :=
  issue (.qtry h o) h s fun s c th =>
    let pop := o.fn.getLsbD 4
    match s.ringFor th (fnIdx o) (if pop then o.d else o.a) with
    | none => s.raiseFree c th 0x14
    | some r =>
      let done (s : State) (b : Bool) (ds : List Dest) : State :=
        s.setThread ((th.put (ds ++ dstPred o.c b)).advance c h s.now)
      if th.helper then done s false []
      else if pop then
        let s := s.serveRing th.team (fnIdx o)
        if s.hasEntry th.team (fnIdx o) then
          match s.popMarked th.team (fnIdx o) with
          | some va => s.raise c th 0x0F 0 va
          | none =>
            let (ws, s) := s.popEntry th.team (fnIdx o)
            done s true (entryDest r o.d ws)
        else done s false []
      else if s.unperformed th.id then s.setThread (th.wait c h s.now (.pushHeld (fnIdx o) (entryWords s th r o.a) (some o.c)))
      else
        let s := s.serveRing th.team (fnIdx o)
        if s.hasRoom th.team (fnIdx o) then done (s.pushEntry th.team (fnIdx o) (entryWords s th r o.a)) true []
        else done s false []

/-- A push that waited for its thread's earlier accesses acts, as at its issue (R149, R229): `tried` is the predicate of a `qtry`. -/
def State.pushNow (s : State) (th : Thread) (b : Block) (q : Nat) (ws : List Word) (tried : Option (BitVec 8)) : State :=
  let s := s.serveRing th.team q
  let room := s.hasRoom th.team q
  let s := if room then s.pushEntry th.team q ws else s
  match tried with
  | some d => s.setThread (th.complete s.now (dstPred d room))
  | none =>
    if room then s.setThread (th.complete s.now [])
    else ((s.lineUp th.team q th.id).setThread { th with block := some { b with wait := .qpush q ws } }).checkTeam th.team

/-- QUEUE_WAITER_SERVED: the first thread in the line of a ring that can moves its entry (R149). -/
def execQueueWaiterServed (team q : Nat) (s : State) : Host.Outcome State Fault Refusal := .next (s.serveFirst team q)

/-! ## Barriers (R150 to R152) -/

/-- `barr` (R150): an arrival that waits for the thread's earlier accesses (R152, R229). -/
def execBarr (h : Head) (o : XF) (s : State) : Host.Outcome State Fault Refusal :=
  issue (.barr h o) h s fun s c th =>
    let n := (srcWord s th o.b).toNat
    match s.team? th.team with
    | none => s.raiseFree c th 0x15
    | some tm =>
      if n = 0 || (tm.barrier (fnIdx o)).expected = 0 then s.raiseFree c th 0x15
      else if s.unperformed th.id then leasing h [] (.arrival (fnIdx o) n) s c th
      else (s.onBarrier th.team (fnIdx o) fun b => b.arrive n).setThread (th.advance c h s.now)

/-- A wait on a team barrier for a phase: complete at once when satisfied, else the thread waits (R150, R152). -/
def State.waitPhase (s : State) (c : Issue) (th : Thread) (h : Head) (b target : Nat) (d : BitVec 8) (w : Wait) : State :=
  match s.team? th.team with
  | none => s.raiseFree c th 0x15
  | some tm =>
    if phaseReached (tm.barrier b).phase target then
      s.setThread ((th.put (dstPred d (tm.barrier b).err)).advance c h s.now)
    else (s.setThread (th.wait c h s.now w)).checkTeam th.team

/-- `bwait` (R23, R150). -/
def execBwait (h : Head) (o : XF) (s : State) : Host.Outcome State Fault Refusal :=
  issue (.bwait h o) h s fun s c th =>
    let t := (srcWord s th o.a).toNat % 65536
    if (((s.team? th.team).map fun tm => (tm.barrier (fnIdx o)).expected).getD 0) = 0 then s.raiseFree c th 0x15
    else s.waitPhase c th h (fnIdx o) t o.d (.bwait (fnIdx o) t o.d.toNat)

/-- `barrw` (R150): an arrival of count 1 in phase p, and a wait for p + 1. -/
def execBarrw (h : Head) (o : XF) (s : State) : Host.Outcome State Fault Refusal :=
  issue (.barrw h o) h s fun s c th =>
    match s.team? th.team with
    | none => s.raiseFree c th 0x15
    | some tm =>
      let b := tm.barrier (fnIdx o)
      if b.expected = 0 then s.raiseFree c th 0x15
      else if s.unperformed th.id then s.setThread (th.wait c h s.now (.barrwHeld (fnIdx o) o.d))
      else
        let t := (b.phase + 1) % 65536
        (s.onBarrier th.team (fnIdx o) fun q => q.arrive 1).waitPhase c th h (fnIdx o) t o.d (.barrw (fnIdx o) t o.d.toNat)

/-- A `barrw` that waited for its thread's earlier accesses acts: its arrival is counted, and the wait for the next phase begins
(R150, R229). -/
def State.arriveNow (s : State) (th : Thread) (k : Block) (b : Nat) (d : BitVec 8) : State :=
  match s.team? th.team with
  | none => s
  | some tm =>
    let t := ((tm.barrier b).phase + 1) % 65536
    let s := s.onBarrier th.team b fun q => q.arrive 1
    let now := (((s.team? th.team).map fun m => m.barrier b).getD ⟨0, 0, 0, false⟩)
    if phaseReached now.phase t then s.setThread (th.complete s.now (dstPred d now.err))
    else (s.setThread { th with block := some { k with wait := .barrw b t d.toNat } }).checkTeam th.team

/-- `bcfg` (R150). -/
def execBcfg (h : Head) (o : XF) (s : State) : Host.Outcome State Fault Refusal :=
  issue (.bcfg h o) h s fun s c th =>
    let a := (srcWord s th o.a).toNat
    if a = 0 || 2 ^ 24 ≤ a then s.raiseFree c th 0x15
    else
      ((s.onBarrier th.team (fnIdx o) fun _ => ⟨0, a, a, false⟩).setThread (th.advance c h s.now)).checkTeam th.team

/-- `mbarr` (R151): nothing in a helper thread (R126). -/
def execMbarr (h : Head) (o : XF) (s : State) : Host.Outcome State Fault Refusal :=
  issue (.mbarr h o) h s fun s c th =>
    let n := srcWord s th o.b
    if th.helper then s.setThread (th.advance c h s.now)
    else if n = 0 then s.raiseFree c th 0x15
    else s.issueAccess c th h ⟨.mbarr n, th.pair o.a.toNat, 0⟩ 8

/-- What a look at a barrier object gives: its value, with the scope and line at which an acquire reads it, a wait for its page or for
room for a report, or a fault. -/
inductive Peek where
  | value (v share line : Nat)
  | hold
  | page (f : WalkFail)
  | fault (cause : Nat) (addr : DWord)
  deriving DecidableEq, Repr

/-- Reading the barrier object of `mbwait` (R122, R151); a marked one is a precise poison consumed fault (notes/assumptions/63.md). -/
def State.readObject (s : State) (th : Thread) (va : DWord) : Peek × State :=
  match s.lookup th.actor va 8 8 false false with
  | .fault c a => (.fault c a, s)
  | .page f => (.page f, s)
  | .scratch =>
    match s.team? th.team with
    | some t =>
      let off := va.toNat - windowBase
      if t.scratchPoison.any fun k => k * 32 < off + 8 && off < k * 32 + 32 then (.fault 0x0F va, s)
      else (.value (leNat (readBytes t.scratch off 8)) 0 0, s)
    | none => (.fault 0x07 va, s)
  | .leaf l =>
    if s.reportHeld th.actor l true then (.hold, s)
    else match s.entryCheck th.actor va l true false false with
    | (some cause, s) => (.fault cause va, s)
    | (none, s) =>
      if s.readMarked th.actor l 8 { acq := true } || !s.served l.pa then (.fault 0x0F va, s)
      else
        let (b, s) := s.readLine th.actor l 8 { acq := true }
        (.value (leNat b) l.share (l.pa / 128), s)

/-- A satisfied `mbwait` acts as an acquire at the page's scope (R151). -/
def State.acquireAt (s : State) (col share line : Nat) : State := if share = 0 then s else s.acquireFor col line

/-- `mbwait` (R151): the wait is for the phase in B[15:0]. -/
def execMbwait (h : Head) (o : XF) (s : State) : Host.Outcome State Fault Refusal :=
  issue (.mbwait h o) h s fun s c th =>
    let va := th.pair o.a.toNat
    let t := (srcWord s th o.b).toNat % 65536
    if s.mustFollow th.id ⟨.load 8 false [] 0, va, 1⟩ then s.setThread (th.wait c h s.now (.mbwait va t))
    else match s.readObject th va with
    | (.fault cause a, s) => s.raise c th cause 0 a
    | (.page f, s) => s.waitPage c th h va 0 0 f
    | (.hold, s) => s.setThread (th.stall c h s.now)
    | (.value v share line, s) =>
      if v / 2 ^ 24 % 2 ^ 24 = 0 then s.raiseFree c th 0x15
      else if phaseReached (v / 2 ^ 48) t then (s.acquireAt th.col share line).setThread (th.advance c h s.now)
      else s.setThread (th.wait c h s.now (.mbwait va t))

/-! ## Spawn bins (R155, R216, R217) -/

/-- The bin of a context and an entry on a core. -/
def State.bin? (s : State) (col core ctx : Nat) (entry : DWord) : Option Bin :=
  s.bins.find? fun b => b.col = col && b.core = core && b.ctx = ctx && b.entry = entry

/-- The lowest-numbered free bin of a core (R216). -/
def State.freeBin (s : State) (col core : Nat) : Option Nat :=
  (List.range 16).find? fun i => !s.bins.any fun b => b.col = col && b.core = core && b.index = i

/-- The length of the run of lanes with a free slot that starts at a lane of a pen, up to `n` (R217). -/
def State.runFrom (s : State) (cs : List Claim) (col core : Nat) : Nat → Nat → Nat
  | 0, _ => 0
  | n + 1, lane =>
    if 0 < s.slotRoom col core lane cs then
      (if lane % 32 = 31 then 1 else 1 + s.runFrom cs col core n (lane + 1))
    else 0

/-- The run that a release takes: the longest, up to the number of requests, at the lowest pen and lane (R217). -/
def State.bestRun (s : State) (cs : List Claim) (col core n : Nat) : Nat × Nat :=
  (List.range 128).foldl (fun b l => let k := s.runFrom cs col core n l; if b.2 < k then (l, k) else b) (0, 0)

/-- What a release of a bin must leave alone: the reservations that the team of its first request respects (R258, R339,
notes/assumptions/57.md). -/
def State.binClaims (s : State) (b : Bin) : List Claim := ((b.requests.head?).map fun r => s.claimsOf r.team).getD []

/-- The window base of a thread's slot (R333). -/
def Team.window (t : Team) (lane slot : Nat) : DWord :=
  t.stackBase + BitVec.ofNat 64 ((((t.col * 128 + t.core) * 128 + lane) * 32 + slot) * t.stackStride)

/-- A new thread of a team at a lane and slot (R16, R19, R206, R218). -/
def Team.newThread (t : Team) (now id lane slot : Nat) (kind : ThreadKind) (allot : Nat) (entry : DWord) : Thread where
  id := id
  ctx := t.ctx
  team := t.id
  kind := kind
  col := t.col
  core := t.core
  lane := lane
  slot := slot
  begun := now
  regs := []
  allot := allot
  preds := 0
  pc := entry
  head := entry
  entering := false
  stack := []
  spills := 0
  window := t.window lane slot
  spillSize := t.spillSize
  tid := notApplicable
  tx := notApplicable
  ty := notApplicable
  tz := notApplicable
  quad := none
  quadId := 0
  helper := false
  px := notApplicable
  py := notApplicable
  prim := notApplicable
  seq := notApplicable
  nbin := notApplicable
  item := notApplicable
  trapPc := 0
  trapHead := 0
  trapAddr := 0
  trapInfo := 0
  inHandler := false
  trap := none
  pending := []
  hold := none
  flights := []
  nextIssue := now
  readySince := now
  yieldMark := false
  yieldIn := none
  trapYield := none
  block := none
  mask := none
  poisoned := []
  group := none
  aborts := 0
  abortAt := 0
  ticket := none
  ordered := false
  parked := false
  wholeSave := false

/-- The stack windows of a team's threads belong to its launch, which has them until it is over (R6, R333). -/
def State.useWindows (s : State) (team : Nat) : State :=
  match s.team? team with
  | some t =>
    if t.stackStride = 0 then s
    else
      let new := (s.threads.filter (·.team = team)).map Thread.window
      { s with sched := { s.sched with launches := s.sched.launches.map fun (k : Launch) =>
          if k.id = t.launch then { k with windows := (k.windows ++ new).eraseDups } else k } }
  | none => s

/-- Writing words into consecutive registers from `n` on. -/
def Thread.setRegs (th : Thread) : Nat → List Word → Thread
  | _, [] => th
  | n, w :: ws => (th.setReg n w).setRegs (n + 1) ws

/-- One request of a bin becomes a thread on a lane (R155, R217, R218). -/
def State.spawnOn (s : State) (b : Bin) (r : SpawnRequest) (lane : Nat) : State :=
  match s.team? r.team, s.lowestSlot b.col b.core lane with
  | some t, some slot =>
    let (id, s) := s.newId
    let th := t.newThread s.now id lane slot .spawned 0 b.entry
    let th : Thread := { th with nbin := BitVec.ofNat 32 b.index, parked := t.marked.isSome, wholeSave := t.marked.isSome }
    ({ s with threads := s.threads ++ [th.setRegs 0 r.args] }).useWindows t.id
  | _, _ => s

/-- Requests placed on consecutive lanes. -/
def State.spawnRun (s : State) (b : Bin) : Nat → List SpawnRequest → State
  | _, [] => s
  | lane, r :: rs => (s.spawnOn b r lane).spawnRun b (lane + 1) rs

/-- A release of a bin: its requests take the best run of lanes; those left over stay released (R217). An empty bin is free. -/
def State.releaseBin (s : State) (b : Bin) : State :=
  let (lane, n) := s.bestRun (s.binClaims b) b.col b.core b.requests.length
  let t := s.spawnRun b lane (b.requests.take n)
  let same (x : Bin) : Bool := x.col = b.col && x.core = b.core && x.index = b.index
  if b.requests.length ≤ n then { t with bins := t.bins.filter fun x => !same x }
  else { t with bins := t.bins.map fun (x : Bin) => if same x then { b with requests := b.requests.drop n, released := true } else x }

/-- A slot of a core has freed: the bins whose release has begun take the slots that are free, in the order in which they were keyed
(R217, notes/assumptions/57.md). -/
def State.releaseWaiting (s : State) (col core : Nat) : State :=
  s.bins.foldl (fun t b => if b.col = col && b.core = core && b.released && t.slotFree (t.binClaims b) col core then t.releaseBin b else t) s

/-- A request enters the bin of its entry, which is released when it is full; none if no bin takes it (R155, R216, R217). -/
def State.enterBin (s : State) (th : Thread) (entry : DWord) (args : List Word) : Option State :=
  match s.bin? th.col th.core th.ctx entry with
  | some b =>
    if 32 ≤ b.requests.length then none
    else
      let b := { b with requests := b.requests ++ [⟨th.team, args⟩] }
      let s := { s with bins := s.bins.map fun (x : Bin) =>
        if x.col = b.col && x.core = b.core && x.index = b.index then b else x }
      some (if 32 ≤ b.requests.length then s.releaseBin b else s)
  | none =>
    (s.freeBin th.col th.core).map fun i =>
      { s with bins := s.bins ++ [(⟨th.col, th.core, i, th.ctx, entry, [⟨th.team, args⟩],
                                    s.now + (match s.team? th.team with | some t => t.binTimer | none => 256), false⟩ : Bin)] }

/-- `spawn` (R155): nothing in a helper thread (R126). -/
def execSpawn (h : Head) (o : XF) (s : State) : Host.Outcome State Fault Refusal :=
  issue (.spawn h o) h s fun s c th =>
    let entry := th.pair o.a.toNat
    if th.helper then s.setThread (th.advance c h s.now)
    else
      let args := if isReg o.b then srcRange th o.b 4 else [0, 0, 0, 0]
      if s.unperformed th.id then s.setThread (th.wait c h s.now (.spawnRoom entry args))
      else match s.enterBin th entry args with
      | some s => s.setThread (th.advance c h s.now)
      | none => (s.setThread (th.wait c h s.now (.spawnRoom entry args))).checkTeam th.team

/-- BIN_TIMER_EXPIRY (R217). -/
def execBinTimerExpiry (col core bin : Nat) (s : State) : Host.Outcome State Fault Refusal :=
  .next <| match s.bins.find? fun b => b.col = col && b.core = core && b.index = bin with
  | some b => if b.expires ≤ s.now && !b.released then s.releaseBin { b with released := true } else s
  | none => s

/-! ## The end of a thread (R12, R156) -/

/-- Replacing a launch by its new record. -/
def State.setLaunch (s : State) (l : Launch) : State :=
  { s with sched := { s.sched with launches := s.sched.launches.map fun m => if m.id = l.id then l else m } }

/-- A unit of work of a launch is recorded as failed (R336). -/
def State.failLaunch (s : State) (l : Nat) : State :=
  match s.launch? l with
  | some r => s.setLaunch { r with failed := true }
  | none => s

/-- A thread ends failed, or a deferred fault of it is discarded: a record of kind 1, and its launch fails (R12, R412). -/
def State.recordThread (s : State) (th : Thread) (cause sub : Nat) (addr pc : DWord) (deferred : Bool) : State :=
  (s.record { s.threadRecord th 1 with addr := addr, pc := pc, info := th.recordInfo cause sub deferred, item := th.tid.toNat }).failLaunch
    (((s.team? th.team).map Team.launch).getD 0)

/-- The ticket of a pixel thread takes a new state, leaving the ordered region it is in (R181 to R183, R263). -/
def State.endTicket (s : State) (k : Option Nat) (st : TicketState) (ordered : Bool) : State :=
  match k with
  | none => s
  | some i =>
    { s with raster := { s.raster with
        tickets := s.raster.tickets.map fun t => if t.id = i && t.state = .waiting then { t with state := st, left := t.left || ordered } else t } }

/-- The operation still has something to perform or to report when its thread has gone: an access, an arrival, an append, a part of
a `gred`, a store or atomic on a surface, a traversal, which writes its record, or a fault that has not been found (R12). -/
def Stage.outlives (g : Stage) : Bool :=
  g.access?.isSome ||
    match g with
    | .texel a => a.form = 1 || a.form = 2
    | .traverse _ => true
    | .failed _ _ _ _ => true
    | .appendRequest _ _ => true
    | .appendData _ _ _ => true
    | .arrival _ _ => true
    | _ => false

/-- The thread is gone: its blocks and slot are free, its queued requests are withdrawn, accesses that set no slot stay under way, and
bins that wait for a slot are served (R12, R156, R217). -/
def State.endThread (s : State) (th : Thread) : State :=
  let s := s.endTicket th.ticket .retired th.ordered
  ({ s with
    threads := s.threads.filter (·.id ≠ th.id)
    ops := s.ops.filter fun o => o.tid ≠ th.id || o.stage.outlives
    locks := s.locks.filter fun l => !s.ops.any fun o => o.tid = th.id && o.id = l.owner && !o.stage.outlives
    blkgets := s.blkgets.filter (·.tid ≠ th.id)
    issuing := s.issuing.filter (·.2 ≠ th.id) }).releaseWaiting th.col th.core

/-- The thread's slots are clear, and inside an ordered region its surface writes are performed (R156, R183). -/
def State.mayEnd (s : State) (th : Thread) : Bool := s.slotsClear th.id && !(th.ordered && s.writesWait th.id)

/-- Handles a launch binds: targets 0 to 7, then depth (R331). -/
def Launch.target_ (l : Launch) (t : Nat) : Nat := field l.record (768 + 32 * t) 32
/-- The depth surface's handle. -/
def Launch.depth (l : Launch) : Nat := field l.record 736 32

/-- The handles of the surfaces that a draw binds, targets first. -/
def Launch.handles (l : Launch) : List Nat := ((List.range 8).map l.target_ ++ [l.depth]).filter (· ≠ 0xFFFFFFFF)

/-- The fragment of a removed thread is recorded as failed. The record names the one surface that the draw binds; of several, the
spec does not state which, so a free value stands there (R263, R412, notes/assumptions/6.md). -/
def State.recordLost (s : State) (th : Thread) : State :=
  if s.raster.tickets.any fun t => some t.id = th.ticket && t.state = .waiting then
    let (v, s) := match ((s.team? th.team).bind fun t => s.launch? t.launch).map Launch.handles with
      | some [h] => (BitVec.ofNat 64 h, s)
      | _ => s.free
    s.record { s.threadRecord th 2 with addr := v, lane := 0, slot := 0, core := 0x7F
                                        item := th.px.toNat % 65536 + th.py.toNat % 65536 * 65536 }
  else s

/-- The pending deferred faults of a thread at its end are recorded while its column has room: the state with those records, and the
faults that are left (R12, R156, R413). -/
def State.reportPending (s : State) (th : Thread) : State × List PendingFault :=
  th.pending.foldl (fun p f =>
    if !p.2.isEmpty || p.1.recordsFull th.col then (p.1, p.2 ++ [f])
    else (p.1.recordThread th f.cause f.sub f.addr f.pc true, p.2)) (s, [])

/-- A thread that waits at its end goes once its slots are clear and its column has taken its records (R156, R413). -/
def State.leave (s : State) (th : Thread) : State :=
  if !s.mayEnd th then s.setThread th
  else
    let r := s.reportPending th
    if r.2.isEmpty && !r.1.recordsOver th.col then (r.1.endThread th).checkTeam th.team else r.1.setThread { th with pending := r.2 }

/-- A thread is ended without `exit`, as `exit` would end it: it is recorded as failed, its ticket retires as killed, and it
goes once its slots are clear (R263, R377). -/
def State.terminateThread (s : State) (th : Thread) (cause sub : Nat) (addr pc : DWord) (deferred : Bool) : State :=
  let s := ((s.withdraw th).recordThread th cause sub addr pc deferred).recordLost th
  let s := s.endTicket th.ticket .killed (th.ordered && !s.writesWait th.id)
  let th := { th with trap := none, hold := none, group := none, mask := none, parked := false }
  ({ s with blkgets := s.blkgets.filter (·.tid ≠ th.id), issuing := s.issuing.filter (·.2 ≠ th.id) }).leave
    { th with block := some { wait := .exit, since := s.now, next := th.pc, nextHead := th.head, mask := none } }

/-- `exit` (R156): the thread ends once its slots are clear, and leaves its ordered region after its surface writes (R183). A mask word
with undefined values after it is met first (R72, notes/assumptions/53.md). -/
def execExit (h : Head) (o : XF) (s : State) : Host.Outcome State Fault Refusal :=
  issue (.exit h o) h s fun s c th =>
    if c.badMask h then s.setThread (th.advance c h s.now) else s.leave (th.wait c h s.now .exit)

/-! ## Items, register blocks and the rest (R157 to R160) -/

/-- `refill` (R157). -/
def execRefill (h : Head) (o : XF) (s : State) : Host.Outcome State Fault Refusal :=
  issue (.refill h o) h s fun s c th =>
    match s.team? th.team with
    | some t =>
      if t.item < t.itemEnd then
        (s.setTeam { t with item := t.item + 1 }).setThread
          (({ th with item := t.item }.put (dstPred o.d true)).advance c h s.now)
      else s.setThread ((th.put (dstPred o.d false)).advance c h s.now)
    | none => s.setThread ((th.put (dstPred o.d false)).advance c h s.now)

/-- FN[2:0] of `blkget` and `blkput`. -/
def blkCount (o : XF) : Nat := (o.fn.extractLsb' 0 3).toNat

/-- The register deadlock rule: every resident thread of a lane waits in `blkget`, and the head of the lane's queue traps
(R221). -/
def State.checkLane (s : State) (col core lane : Nat) : State :=
  let here (t : Thread) : Bool := t.col = col && t.core = core && t.lane = lane
  let waits (t : Thread) : Bool := match t.block.map Block.wait with | some (.blkget _) => true | _ => false
  match s.blkgets.find? fun q => q.col = col && q.core = core && q.lane = lane with
  | none => s
  | some q =>
    match s.thread? q.tid with
    | none => s
    | some th =>
      let n := match th.block.map Block.wait with | some (.blkget n) => n | _ => 0
      if (s.threads.filter here).all waits && decide (s.blockRoom col core lane (s.claimsOf th.team) < n) then
        ({ s with blkgets := s.blkgets.filter (·.tid ≠ q.tid) }).trapBlocked th 0x16
      else s

/-- `blkget` (R158): the request joins its lane's queue. -/
def execBlkget (h : Head) (o : XF) (s : State) : Host.Outcome State Fault Refusal :=
  issue (.blkget h o) h s fun s c th =>
    if 7 < th.allot + blkCount o then s.raiseFree c th 0x03
    else
      (({ s with blkgets := s.blkgets ++ [(⟨th.col, th.core, th.lane, th.id⟩ : BlkRequest)] }).setThread
        (th.wait c h s.now (.blkget (blkCount o)))).checkLane th.col th.core th.lane

/-- BLKGET_SERVED: the head request of a lane is served when the pool holds its blocks (R158, R220). -/
def execBlkgetServed (col core lane : Nat) (s : State) : Host.Outcome State Fault Refusal :=
  .next <| match s.blkgets.find? fun q => q.col = col && q.core = core && q.lane = lane with
  | none => s
  | some q =>
    let s' := { s with blkgets := s.blkgets.filter (·.tid ≠ q.tid) }
    match s.thread? q.tid with
    | none => s'
    | some th =>
      match th.block.map Block.wait with
      | some (.blkget n) =>
        if n ≤ s.blockRoom col core lane (s.claimsOf th.team) then
          let lo := 16 + 16 * th.allot
          s'.setThread ({ th with allot := th.allot + n, regs := cellClear lo (16 * n) th.regs
                                  poisoned := th.poisoned.filter fun r => !(lo ≤ r && r < lo + 16 * n) }.complete s.now [])
        else s
      | _ => s'

/-- `blkput` (R159, R20): flights and values of the released registers go with them. -/
def execBlkput (h : Head) (o : XF) (s : State) : Host.Outcome State Fault Refusal :=
  issue (.blkput h o) h s fun s c th =>
    let n := blkCount o
    if th.allot < n then s.raiseFree c th 0x03
    else
      let lo := 16 + 16 * (th.allot - n)
      if s.leased th.id ((List.range (16 * n)).map (lo + ·)) then s.raiseFree c th 0x04
      else
        let out (r : Nat) : Bool := lo ≤ r && r < lo + 16 * n
        s.setThread ({ th with
          allot := th.allot - n, regs := cellClear lo (16 * n) th.regs, poisoned := th.poisoned.filter fun r => !out r
          flights := th.flights.filter fun f => match f.dest with | .reg r _ => !out r | .pred _ _ => true }.advance c h s.now)

/-- `yield` (R160): the end of this clause gives the thread a yield mark (R71, R209). -/
def execYield (h : Head) (o : XF) (s : State) : Host.Outcome State Fault Refusal :=
  issue (.yield h o) h s fun s c th => s.setThread ({ th with yieldIn := some c.clause.head }.advance c h s.now)

/-- `nap` (R160): the thread is ready again `a` cycles after the issue (notes/assumptions/58.md). -/
def execNap (h : Head) (o : XF) (s : State) : Host.Outcome State Fault Refusal :=
  issue (.nap h o) h s fun s c th =>
    let a := (srcWord s th o.a).toNat
    if a = 0 then s.setThread (th.advance c h s.now)
    else s.setThread (th.wait c h s.now (.nap (s.now + a)))

/-- The faulting instruction set a slot of the mask (R160). -/
def PendingFault.inSlots (f : PendingFault) (m : BitVec 8) : Bool := match f.slot with | some j => m.getLsbD j | none => false

/-- A fault is pending for an instruction that set a slot of the mask (R160). -/
def Thread.maskFault (th : Thread) (m : BitVec 8) : Bool :=
  th.pending.any (·.inSlots m)

/-- Every slot of the mask is clear (R160). -/
def State.maskClear (s : State) (tid : Nat) (m : BitVec 8) : Bool :=
  (List.range 8).all fun j => !(m.getLsbD j && s.slotSet tid j)

/-- `sbw` (R160). -/
def execSbw (h : Head) (o : XF) (s : State) : Host.Outcome State Fault Refusal :=
  issue (.sbw h o) h s fun s c th =>
    let m := o.fn.extractLsb' 0 8
    if th.maskFault m then s.deliverAt th c.pc c.clause.head
    else if s.maskClear th.id m then s.setThread (th.advance c h s.now)
    else s.setThread (th.wait c h s.now (.sbw m))

/-- NAP_EXPIRY (R160). -/
def execNapExpiry (tid : Nat) (s : State) : Host.Outcome State Fault Refusal :=
  .next <| match s.thread? tid with
  | some th =>
    match th.block.map Block.wait with
    | some (.nap till) => if till ≤ s.now then s.setThread (th.complete s.now []) else s
    | _ => s
  | none => s

end Sys2Proof.Machine
end

