-- ==== Sys2Proof/Machine/Control.lean ====
section
/-! DEFINITION. Branches, calls and the return stack, traps and their records (R25, R58, R59, R64, R162 to R165, R203,
R205), and words of unlisted opcodes (R75). -/

namespace Sys2Proof.Machine

/-! ## Targets (R58, R59) -/

/-- What the fetch of a clause header at an address would meet. -/
inductive Target where
  | ok
  /-- The word is no header. -/
  | bad
  /-- Not fetchable, with the cause and the address of the fault. -/
  | fault (cause : Nat) (addr : DWord)
  | page (f : WalkFail)
  deriving DecidableEq, Repr

/-- A fetch at an address for a thread (R58, R59): canonical, mapped, executable, and in the thread's column for a COLUMN
page, which takes the share violation of an access otherwise (notes/assumptions/61.md). -/
def State.fetchAt (s : State) (th : Thread) (t : DWord) : Target ⊕ Leaf :=
  if !canonical t || inWindow t.toNat then .inl (.fault 0x07 t)
  else match s.translate th.ctx t.toNat with
    | .error f => .inl (.page f)
    | .ok l =>
      if !l.x then .inl (.fault 0x07 t)
      else if l.share = 0 && l.owner ≠ th.col then .inl (.fault 0x08 t)
      else .inr l

/-- The checks of a branch's target (R58, R59); a marked sector is met at the header (R406). -/
def State.target (s : State) (th : Thread) (t : DWord) : Target :=
  match s.fetchAt th t with
  | .inl x => x
  | .inr l =>
    if t.toNat % 8 ≠ 0 then .bad
    else if s.poisoned l.pa 8 || isHeader (BitVec.ofNat 64 (s.peekNat l.pa 8)) then .ok
    else .bad

/-- A transfer to a target after its checks, with the thread as it becomes (R58, R59, R64). -/
def State.transfer (s : State) (c : Issue) (th : Thread) (h : Head) (t : DWord) (k : State → State) : State :=
  match s.target th t with
  | .ok => k s
  | .bad => s.raiseFree c th 0x1E
  | .fault cause a => s.raise c th cause 0 a
  | .page f => s.waitPage c th h t 3 1 f

/-! ## The return stack (R25) -/

/-- The address of spill entry `k`. -/
def Thread.spillAt (th : Thread) (k : Nat) : DWord := th.window + BitVec.ofNat 64 (8 * k)

/-- A spill store or reload at its place: a wait, a fault of the return stack, or the bytes read and the state after. One at an address of
the second tier or of a peer that has no answer ends as a request without one does (R390, R392, notes/assumptions/75.md). -/
def State.stackAccess (s : State) (c : Issue) (th : Thread) (h : Head) (x : Access) (k : State → List Word → State) : State :=
  let a := th.actor
  if s.mustFollow th.id x then s.setThread (th.stall c h s.now)
  else
    let land (p : Performed) (s : State) : State :=
      match p with
      | .done vals => k s vals
      | .fault 0x0F => s.raise c th 0x0F 0 x.va
      | .fault _ => s.raise c th 0x1C 0 x.va
      | _ => s.setThread (th.stall c h s.now)
    match s.lookup a x.va 8 8 x.act.writes true with
    | .fault _ f => s.raise c th 0x1C 0 f
    | .page f => s.waitPage c th h x.va (if x.act.writes then 1 else 0) 2 f
    | .scratch =>
      let (p, s) := s.performScratch a x
      land p s
    | .leaf l =>
      match s.accessCheck a x l with
      | (some _, s) => s.raise c th 0x1C 0 x.va
      | (none, s) =>
        if !s.served l.pa then (if x.act.writes then k (s.recordThread th 0 0 x.va c.pc false) [] else s.raise c th 0x0F 0 x.va)
        else
          let (p, s) := s.performHere a x l
          land p s

/-- Pushing a return address and transferring; the oldest of eight entries is spilled first (R25). The list holds the newest
entry first. The target's faults come before those of the spill (notes/assumptions/62.md). -/
def State.callTo (s : State) (c : Issue) (th : Thread) (h : Head) (t : DWord) : State :=
  let ra := c.clause.after
  s.transfer c th h t fun s =>
    if th.stack.length < 8 then s.setThread ({ th with stack := ra :: th.stack }.jump c h s.now t)
    else if th.spillSize < 8 * (th.spills + 1) then s.raise c th 0x1C 0 th.stackBase
    else
      let oldest := th.stack.getLastD 0
      s.stackAccess c th h ⟨.store (leBytes 8 oldest.toNat), th.spillAt th.spills, 0⟩ fun s _ =>
        s.setThread ({ th with stack := ra :: th.stack.dropLast, spills := th.spills + 1 }.jump c h s.now t)

/-- The target of `bra` and `call`, from the clause's header (R64). -/
def braTarget (c : Issue) (o : BF) : DWord := c.clause.head + (o.off.signExtend 64 <<< 3)

/-- The target of `brx` and `callx` (R64). -/
def brxTarget (th : Thread) (o : BF) : DWord := th.pair o.l.toNat + (o.off.signExtend 64 <<< 3)

/-- `bra` (R64, R162). -/
def execBra (h : Head) (o : BF) (s : State) : Host.Outcome State Fault Refusal :=
  issue (.bra h o) h s fun s c th =>
    s.transfer c th h (braTarget c o) fun s => s.setThread (th.jump c h s.now (braTarget c o))

/-- `brx` (R64, R162). -/
def execBrx (h : Head) (o : BF) (s : State) : Host.Outcome State Fault Refusal :=
  issue (.brx h o) h s fun s c th =>
    s.transfer c th h (brxTarget th o) fun s => s.setThread (th.jump c h s.now (brxTarget th o))

/-- `call` (R25, R64). -/
def execCall (h : Head) (o : BF) (s : State) : Host.Outcome State Fault Refusal :=
  issue (.call h o) h s fun s c th => s.callTo c th h (braTarget c o)

/-- `callx` (R25, R64). -/
def execCallx (h : Head) (o : BF) (s : State) : Host.Outcome State Fault Refusal :=
  issue (.callx h o) h s fun s c th => s.callTo c th h (brxTarget th o)

/-- `ret` (R25): from the newest entry, else from the spill area. -/
def execRet (h : Head) (o : BF) (s : State) : Host.Outcome State Fault Refusal :=
  issue (.ret h o) h s fun s c th =>
    match th.stack with
    | t :: rest => s.transfer c th h t fun s => s.setThread ({ th with stack := rest }.jump c h s.now t)
    | [] =>
      if th.spills = 0 then s.raise c th 0x1C 0 0
      else
        s.stackAccess c th h ⟨.load 8 false [] 0, th.spillAt (th.spills - 1), 0⟩ fun s vals =>
          let t : DWord := vals.getD 1 0 ++ vals.getD 0 0
          s.transfer c th h t fun s => s.setThread ({ th with spills := th.spills - 1 }.jump c h s.now t)

/-! ## Traps (R163 to R165) -/

/-- `trap` (R163). -/
def execTrap (h : Head) (o : XF) (s : State) : Host.Outcome State Fault Refusal :=
  issue (.trap h o) h s fun s c th =>
    let v : DWord := if o.a = 0xF0 then 0 else (srcWord s th o.a).zeroExtend 64
    let at_ := if c.badMask h then c.next h else (c.clause.after, c.clause.after)
    s.takeTrap (th.advance c h s.now) { cause := 0x18, sub := 0, addr := v, deferred := false, pc := at_.1, head := at_.2 }

/-- `brk` (R163). -/
def execBrk (h : Head) (o : XF) (s : State) : Host.Outcome State Fault Refusal :=
  issue (.brk h o) h s fun s c th =>
    s.takeTrap (th.advance c h s.now)
      { cause := 0x19, sub := 0, addr := o.fn.zeroExtend 64, deferred := false, pc := (c.next h).1, head := (c.next h).2 }

/-- `tret` (R165): the count of aborted groups begins anew (R147), and a clause resumed within knows whether it had issued `yield`
(R160). -/
def execTret (h : Head) (o : XF) (s : State) : Host.Outcome State Fault Refusal :=
  issue (.tret h o) h s fun s c th =>
    if !th.inHandler then s.raiseFree c th 0x01
    else
      let back (p q : DWord) (s : State) : State :=
        let u := { th.advance c h s.now with inHandler := false, aborts := 0, yieldIn := if p = q then none else th.trapYield, trapYield := none }
        s.setThread (if c.badMask h then u else { u with pc := p, head := q })
      if o.a = 0xF0 then
        if th.trapPc = th.trapHead then s.transfer c th h th.trapPc (back th.trapPc th.trapPc)
        else back th.trapPc th.trapHead s
      else s.transfer c th h (th.pair o.a.toNat) (back (th.pair o.a.toNat) (th.pair o.a.toNat))

/-- `tinfo` (R205). -/
def execTinfo (h : Head) (o : XF) (s : State) : Host.Outcome State Fault Refusal :=
  issue (.tinfo h o) h s (fixed h 4 fun _ _ th =>
    match o.fn.toNat with
    | 0 => dstPair o.d th.trapPc
    | 1 => dstWord o.d (if th.inHandler then th.trapInfo ||| 0x200 else th.trapInfo)
    | _ => dstPair o.d th.trapAddr)

/-- `rdtime` (R203). -/
def execRdtime (h : Head) (o : XF) (s : State) : Host.Outcome State Fault Refusal :=
  issue (.rdtime h o) h s (fixed h 4 fun s _ _ => dstPair o.d (BitVec.ofNat 64 s.time))

/-- UNLISTED_OPCODE_ISSUE: a word whose OP is not listed (R75). -/
def execUnlistedOpcodeIssue (word : BitVec 64) (s : State) : Host.Outcome State Fault Refusal :=
  issue (.unlistedOpcodeIssue word) (headOf word) s fun s c th => s.raiseFree c th 0x01

end Sys2Proof.Machine
end

