-- ==== Sys2Proof/Machine/Exact.lean ====
section
/-! DEFINITION. Exact rational arithmetic with infinities, NaN and signed zeros, for texel conversions, blending,
interpolation and ray tests (R172, R177, R261, R265, R298 to R303), and the sRGB curve (R172). -/

namespace Sys2Proof.Machine

/-- An exact value: a rational with a sign (which tells −0 from +0), an infinity, or NaN. -/
inductive XQ where
  | nan
  | inf (neg : Bool)
  | fin (q : ℚ) (neg : Bool)
  deriving DecidableEq, Repr

/-- A rational as a value. -/
def XQ.of (q : ℚ) : XQ := .fin q (decide (q < 0))

/-- m × 2^e with a sign, as a rational. -/
def ratOf (neg : Bool) (m : Nat) (e : Int) : ℚ :=
  let q : ℚ := if 0 ≤ e then ((m * 2 ^ e.toNat : Nat) : ℚ) else mkRat m (2 ^ (-e).toNat)
  if neg then -q else q

/-- A floating value as an exact value. -/
def Val.xq : Val → XQ
  | .nan => .nan
  | .inf n => .inf n
  | .fin n m e => .fin (ratOf n m e) n

/-- A binary32 code as an exact value. -/
def xq32 (w : Word) : XQ := (unpack .f32 w.toNat).xq

/-- A finite binary32 code as a rational; 0 for the others. -/
def rat32 (w : Word) : ℚ := match xq32 w with | .fin q _ => q | _ => 0

/-- A binary32 code is finite. -/
def finite32 (w : Word) : Bool := match unpack .f32 w.toNat with | .fin _ _ _ => true | _ => false

/-- The exact product; a zero times an infinity is NaN. -/
def XQ.mul : XQ → XQ → XQ
  | .nan, _ => .nan
  | _, .nan => .nan
  | .inf a, .inf b => .inf (a != b)
  | .inf a, .fin q b => if q = 0 then .nan else .inf (a != b)
  | .fin q a, .inf b => if q = 0 then .nan else .inf (a != b)
  | .fin p a, .fin q b => .fin (p * q) (a != b)

/-- The exact sum; a difference of like infinities is NaN, and a zero sum is −0 only of two negative zeros. -/
def XQ.add : XQ → XQ → XQ
  | .nan, _ => .nan
  | _, .nan => .nan
  | .inf a, .inf b => if a = b then .inf a else .nan
  | .inf a, .fin _ _ => .inf a
  | .fin _ _, .inf b => .inf b
  | .fin p a, .fin q b => .fin (p + q) (if p + q = 0 then a && b else decide (p + q < 0))

/-- Negation. -/
def XQ.neg : XQ → XQ
  | .nan => .nan
  | .inf a => .inf !a
  | .fin q a => .fin (-q) !a

/-- The order of two values that are not NaN, −0 below +0 (R96). -/
def XQ.less : XQ → XQ → Bool
  | .inf a, .inf b => a && !b
  | .inf a, _ => a
  | _, .inf b => !b
  | .fin p a, .fin q b => p < q || (p = 0 && q = 0 && a && !b)
  | _, _ => false

/-- Minimum and maximum under R96: of one NaN the other value, of two NaN. -/
def XQ.pick (hi : Bool) (a b : XQ) : XQ :=
  match a, b with
  | .nan, x => x
  | x, .nan => x
  | x, y => if x.less y != hi then x else y

/-- Rounding to a format in nearest-even (R36). -/
def XQ.round (f : Fmt) : XQ → Nat
  | .nan => f.nanCode
  | .inf n => infResult f n
  | .fin q n => roundFrac f 0 n q.num.natAbs q.den

/-- `convert` in nearest-even with saturation (R42). -/
def XQ.convert (f : Fmt) (sat : Bool) (x : XQ) : Nat :=
  if sat then
    match x with
    | .nan => f.nanCode
    | .inf n => signed f n f.maxCode
    | .fin q n => if q = 0 then signed f n 0 else signed f n (min (roundMag f 0 n q.num.natAbs q.den) f.maxCode)
  else x.round f

/-- Clamping to [0, 1]; NaN gives 0 (R37). -/
def XQ.unit : XQ → ℚ
  | .nan => 0
  | .inf n => if n then 0 else 1
  | .fin q _ => if q < 0 then 0 else if 1 < q then 1 else q

/-- The binary32 code of a rational, rounded once. -/
def round32 (q : ℚ) : Word := BitVec.ofNat 32 ((XQ.of q).round .f32)

/-- The integer nearest to a rational that is not negative, ties to even. -/
def nearestNat (q : ℚ) : Nat := roundInt 0 false (q.num.natAbs / q.den) (q.num.natAbs % q.den) q.den

/-! ## sRGB (R172) -/

/-- The integer fifth root, bit by bit. -/
def root5From (n : Nat) : Nat → Nat → Nat
  | 0, r => r
  | k + 1, r => root5From n k (if (r + 2 ^ k) ^ 5 ≤ n then r + 2 ^ k else r)

/-- decode(k ÷ 255) of IEC 61966-2-1: exact on the linear part; on the other its fifth root is taken to 500 bits, far finer
than any rounding here needs (notes/assumptions/16.md). -/
def srgbDecode (k : Nat) : ℚ :=
  if k ≤ 10 then mkRat (k * 100) (255 * 1292)
  else mkRat (root5From ((1000 * k + 14025) ^ 12 * 2 ^ 2500 / 269025 ^ 12) 502 0) (2 ^ 500)

/-- The code whose decoded value is nearest to a clamped value; ties go to the even code (R172). -/
def srgbEncode (x : ℚ) : Nat :=
  (List.range 256).foldl (fun best k =>
    let d (i : Nat) : ℚ := |srgbDecode i - x|
    if d k < d best || (d k = d best && k % 2 = 0) then k else best) 0

end Sys2Proof.Machine
end

