-- ==== Sys2Proof/Machine/Surface.lean ====
section
/-! DEFINITION. Surfaces (R244 to R253): formats and texels, the surface table, the Blotter, and the surface and texture
instructions (R166 to R178). -/

namespace Sys2Proof.Machine

/-! ## Formats (R172, R246) -/

/-- Encoding of a channel. -/
inductive Chan where
  | unorm | srgb | float (f : Fmt) | bits | stencil
  deriving DecidableEq, Repr

/-- Bytes of a channel. -/
def Chan.size : Chan → Nat
  | .unorm => 1 | .srgb => 1 | .stencil => 1 | .bits => 4
  | .float f => f.bits / 8

/-- Channels of a format code (R246). -/
def channels (fmt : Nat) : List Chan :=
  match fmt with
  | 0x01 => [.unorm] | 0x02 => [.unorm, .unorm] | 0x03 => [.unorm, .unorm, .unorm, .unorm]
  | 0x04 => [.srgb, .srgb, .srgb, .unorm]
  | 0x05 => [.float .f16] | 0x06 => [.float .f16, .float .f16]
  | 0x07 => [.float .f16, .float .f16, .float .f16, .float .f16]
  | 0x08 => [.float .bf16] | 0x09 => [.float .bf16, .float .bf16, .float .bf16, .float .bf16]
  | 0x0A => [.bits] | 0x0B => [.bits, .bits] | 0x0C => [.bits, .bits, .bits, .bits]
  | 0x0D => [.bits] | 0x0E => [.bits]
  | 0x0F => [.float .e4m3, .float .e4m3, .float .e4m3, .float .e4m3]
  | 0x10 => [.bits] | 0x11 => [.bits, .stencil]
  | _ => []

/-- Texel size TB (R246). -/
def texelSize (fmt : Nat) : Nat := if fmt = 0x11 then 8 else ((channels fmt).map Chan.size).sum

/-- The format holds integers (R172). -/
def isIntFmt (fmt : Nat) : Bool := fmt = 0x0D || fmt = 0x0E

/-- A depth format. -/
def isDepthFmt (fmt : Nat) : Bool := fmt = 0x10 || fmt = 0x11

/-- A channel's code as an exact value (R172, R265). -/
def Chan.value (c : Chan) (code : Nat) : XQ :=
  match c with
  | .unorm => .fin (mkRat code 255) false
  | .srgb => .fin (srgbDecode code) false
  | .float f => (unpack f code).xq
  | .bits => (unpack .f32 code).xq
  | .stencil => .fin code false

/-- A channel loaded into a register (R172). -/
def Chan.load (c : Chan) (code : Nat) : Word :=
  match c with
  | .bits => BitVec.ofNat 32 code
  | .stencil => BitVec.ofNat 32 code
  | _ => BitVec.ofNat 32 ((c.value code).round .f32)

/-- An exact value stored in a channel (R172); `sat` is CS. -/
def Chan.storeValue (c : Chan) (sat : Bool) (x : XQ) : Nat :=
  match c with
  | .unorm => nearestNat (255 * x.unit)
  | .srgb => srgbEncode x.unit
  | .float f => x.convert f sat
  | .bits => x.round .f32
  | .stencil => nearestNat x.unit % 256

/-- A register stored in a channel (R172). -/
def Chan.store (c : Chan) (sat : Bool) (w : Word) : Nat :=
  match c with
  | .bits => w.toNat
  | .stencil => w.toNat % 256
  | .float f => convert f 0 sat (unpack .f32 w.toNat)
  | _ => c.storeValue sat (xq32 w)

/-- Codes of the channels in a texel's bytes. -/
def splitCodes : List Chan → List Byte → List Nat
  | [], _ => []
  | c :: cs, b => leNat (b.take c.size) :: splitCodes cs (b.drop c.size)

/-- The four channels of a converted load: those the format lacks read 0, and 1 for channel 3 (R172). -/
def texelWords (fmt : Nat) (bytes : List Byte) : List Word :=
  let cs := channels fmt
  let ws := List.zipWith Chan.load cs (splitCodes cs bytes)
  (List.range 4).map fun i =>
    (ws[i]?).getD (if i = 3 then (if isIntFmt fmt then 1 else 0x3F800000) else 0)

/-- A texel's bytes after a converted store of words: channels beyond the words keep theirs (R172). -/
def storeTexel (cs : List Chan) (sat : Bool) (ws : List Word) (bytes : List Byte) : List Byte :=
  match cs, ws with
  | [], _ => bytes
  | _, [] => bytes
  | c :: cs, w :: ws => leBytes c.size (c.store sat w) ++ storeTexel cs sat ws (bytes.drop c.size)

/-! ## Entries and places (R245, R250, R251) -/

/-- FMT of a surface. -/
def Surface.fmt (f : Surface) : Nat := field f.entry 0 8
/-- SAMPLES. -/
def Surface.samples (f : Surface) : Nat := field f.entry 8 8
/-- TVFMT. -/
def Surface.tvfmt (f : Surface) : Nat := field f.entry 16 8
/-- WIDTH. -/
def Surface.width (f : Surface) : Nat := field f.entry 32 32
/-- HEIGHT. -/
def Surface.height (f : Surface) : Nat := field f.entry 64 32
/-- LAYERS. -/
def Surface.layers (f : Surface) : Nat := field f.entry 96 32
/-- TVSTRIDE. -/
def Surface.tvstride (f : Surface) : Nat := field f.entry 128 32
/-- SPILL. -/
def Surface.spill (f : Surface) : Nat := field f.entry 192 64
/-- CLEAR. -/
def Surface.clear (f : Surface) : Nat := field f.entry 256 128
/-- TB. -/
def Surface.tb (f : Surface) : Nat := texelSize f.fmt
/-- Tiles across and down (R252). -/
def Surface.tx (f : Surface) : Nat := (f.width + 31) / 32
/-- Tiles down. -/
def Surface.ty (f : Surface) : Nat := (f.height + 31) / 32
/-- Bytes of a tile (R250). -/
def Surface.tileBytes (f : Surface) : Nat := 1024 * f.samples * f.tb
/-- Tiles of the surface. -/
def Surface.tiles (f : Surface) : Nat := f.layers * f.ty * f.tx

/-- The number of the tile that holds a pixel. -/
def Surface.tileOf (f : Surface) (x y layer : Nat) : Nat := (layer * f.ty + y / 32) * f.tx + x / 32

/-- The column that owns a tile (R250). -/
def Surface.tileColumn (f : Surface) (tile : Nat) : Nat :=
  let cx := tile % f.tx % 8
  let cy := tile / f.tx % f.ty % 4
  cy * 8 + cx

/-- The linear byte of a sample (R250). -/
def Surface.place (f : Surface) (x y layer sample : Nat) : Nat :=
  f.tileOf x y layer * f.tileBytes + ((y % 32 * 32 + x % 32) * f.samples + sample) * f.tb

/-- Coordinates within the surface (R171). -/
def Surface.inside (f : Surface) (x y layer sample : Nat) : Bool :=
  x < f.width && y < f.height && layer < f.layers && sample < f.samples

/-- Writing texel bytes from a linear byte on; bytes 5 to 7 of a `d32f_s8` texel stay zero (R246). -/
def Surface.write (f : Surface) (p : Nat) (b : List Byte) : Surface :=
  { f with texels := writeBytes f.texels p (b.zipIdx.map fun c => if f.fmt = 0x11 && 5 ≤ (p + c.2) % 8 then 0 else c.1) }

/-- The bank in which chunk `c` of a tile lies (R250). -/
def Surface.bankOf (f : Surface) (tile c : Nat) : Nat :=
  let n := tile / f.tx % f.ty / 4 * ((f.tx + 7) / 8) + tile % f.tx / 8
  (c + 37 * n + 101 * (tile / f.tx / f.ty)) % 512

/-- The entry of a surface with its STATE (R245, R252). -/
def Surface.shown (f : Surface) : BitVec 512 :=
  let e := f.entry &&& ~~~(BitVec.ofNat 512 (3 * 2 ^ 28))
  if f.spilled.isEmpty then e else e ||| BitVec.ofNat 512 (2 ^ 28)

/-- An entry with VALID = 1 is valid (R246, R247). -/
def surfaceEntryOk (e : BitVec 512) : Bool :=
  let fmt := field e 0 8
  let samples := field e 8 8
  let tv := field e 16 8
  let w := field e 32 32
  let tb := texelSize fmt
  let stride := field e 128 32
  field e 384 128 = 0 && field e 160 32 = 0 && field e 24 2 = 0 && tb ≠ 0 && [1, 2, 4, 8].contains samples &&
    [0, 6, 8, 9, 10, 11, 12, 13].contains tv && field e 26 2 ≤ 1 && 1 ≤ w && w ≤ 32768 && 1 ≤ field e 64 32 &&
    field e 64 32 ≤ 32768 && 1 ≤ field e 96 32 && field e 96 32 ≤ 2048 && (tv = 0 || samples = 1) &&
    field e 192 64 % 4096 = 0 && stride % 64 = 0 && (if tv = 0 then stride = 0 else w * tb ≤ stride) &&
    field e 256 128 < 2 ^ (8 * tb)

/-- The surface of that index in use in a context. -/
def State.surface? (s : State) (ctx index : Nat) : Option Surface :=
  s.raster.surfaces.find? fun f => f.ctx = ctx && f.index = index

/-- Replacing a surface by its new record. -/
def State.setSurface (s : State) (f : Surface) : State :=
  { s with raster := { s.raster with
      surfaces := s.raster.surfaces.map fun g => if g.ctx = f.ctx && g.index = f.index then f else g } }

/-- STBASE (R371). -/
def Context.stBase (c : Context) : Nat := field c.desc 128 64

/-- The table's memory copy of an entry is written. -/
def State.writeEntry (s : State) (ctx index : Nat) (e : BitVec 512) : State :=
  s.deviceStore ctx ((s.context ctx).stBase + 64 * index) (leBytes 64 e.toNat)

/-- The byte of an entry in the table that holds VALID, CLR and STATE shows the surface's STATE (R245, R252). -/
def State.showState (s : State) (f : Surface) : State :=
  s.deviceStore f.ctx ((s.context f.ctx).stBase + 64 * f.index + 3) [BitVec.ofNat 8 (field f.shown 24 8)]

/-- VALID and STATE of an entry in the table are 0; its other fields stay as they are (R245, R248). -/
def State.hideEntry (s : State) (ctx index : Nat) : State :=
  match s.translate ctx ((s.context ctx).stBase + 64 * index + 3) with
  | .ok l => s.homeWrite s.nextId l.pa [BitVec.ofNat 8 (s.peekNat l.pa 1) &&& 0x4F]
  | .error _ => s

/-! ## Texel accesses (R170 to R178) -/

/-- FN fields. -/
def TexelAccess.nch (a : TexelAccess) : Nat := if a.form = 3 then a.fn / 32 % 4 + 1 else a.fn % 4 + 1

/-- RAW of `sfld` and `sfst`. -/
def TexelAccess.raw (a : TexelAccess) : Bool := a.fn / 4 % 2 = 1

/-- A coordinate register as `n32`. -/
def TexelAccess.at_ (a : TexelAccess) (i : Nat) : Nat := (a.coords.getD i 0).toNat

/-- The finite value of a texture coordinate: NaN and infinities are 0 (R177). -/
def texCoord (w : Word) : ℚ := rat32 w

/-- `fix` of R177: none is outside under `border`. -/
def fixCoord (mode : Nat) (i : Int) (n : Nat) : Option Nat :=
  match mode with
  | 0 => some (min (max i 0) ((n : Int) - 1)).toNat
  | 1 => some (i % n).toNat
  | 2 => let m := (i % (2 * n : Nat)).toNat; some (if m < n then m else 2 * n - 1 - m)
  | _ => if 0 ≤ i && i < n then some i.toNat else none

/-- AU and AV. -/
def TexelAccess.au (a : TexelAccess) : Nat := a.fn / 2 % 4
/-- AV. -/
def TexelAccess.av (a : TexelAccess) : Nat := a.fn / 8 % 4
/-- LIN. -/
def TexelAccess.lin (a : TexelAccess) : Bool := a.fn % 2 = 1

/-- The texels a sample touches: for `nearest` one, for `bilinear` c00, c10, c01, c11; none outside the border (R177). -/
def TexelAccess.taps (a : TexelAccess) (f : Surface) : List (Option (Nat × Nat)) :=
  let u := texCoord (a.coords.getD 0 0) * f.width
  let v := texCoord (a.coords.getD 1 0) * f.height
  let tap (i j : Int) : Option (Nat × Nat) :=
    match fixCoord a.au i f.width, fixCoord a.av j f.height with
    | some x, some y => some (x, y)
    | _, _ => none
  if a.form = 3 && !a.lin then [tap u.floor v.floor]
  else
    let i := (u - 1 / 2).floor
    let j := (v - 1 / 2).floor
    [tap i j, tap (i + 1) j, tap i (j + 1), tap (i + 1) (j + 1)]

/-- The layer a texture access reads (R177). -/
def TexelAccess.layer (a : TexelAccess) (f : Surface) : Nat := min (a.at_ 2) (f.layers - 1)

/-- The samples an access touches, as x, y, layer and sample, within the surface. -/
def TexelAccess.touches (a : TexelAccess) (f : Surface) : List (Nat × Nat × Nat × Nat) :=
  if a.form ≤ 2 then
    (if f.inside (a.at_ 0) (a.at_ 1) (a.at_ 2) (a.at_ 3) then [(a.at_ 0, a.at_ 1, a.at_ 2, a.at_ 3)] else [])
  else (a.taps f).filterMap fun t => t.map fun p => (p.1, p.2, a.layer f, 0)

/-- The tiles an access touches. -/
def TexelAccess.tiles (a : TexelAccess) (f : Surface) : List Nat := (a.touches f).map fun t => f.tileOf t.1 t.2.1 t.2.2.1

/-! ## The Vellum and the Blotter (R244, R248, R252, R253) -/

/-- Tiles of a surface in a column. -/
def Surface.columnTiles (f : Surface) (col : Nat) : Nat :=
  f.layers * ((f.tx + 7 - col % 8) / 8) * ((f.ty + 3 - col / 8) / 4)

/-- Tiles of a surface that are resident in a column. -/
def Surface.residentTiles (f : Surface) (col : Nat) : Nat := f.columnTiles col - (f.spilled.filter fun t => f.tileColumn t = col).length

/-- Chunks of 256 bytes of a surface that a bank of a column holds: at most one of each tile (R250). -/
def Surface.bankChunks (f : Surface) (col bank : Nat) : Nat :=
  ((List.range f.tiles).filter fun t =>
    f.tileColumn t = col && !f.spilled.contains t && decide ((bank + 512 - f.bankOf t 0) % 512 < f.tileBytes / 256)).length

/-- A column's Vellum has room for a surface with the tiles that are resident in it, beside the other surfaces: each of the 512 banks
holds 2 MiB (R244, R250). -/
def State.roomFor (s : State) (f : Surface) (col : Nat) : Bool :=
  let fs := f :: s.raster.surfaces.filter fun g => !(g.ctx = f.ctx && g.index = f.index)
  decide ((fs.map fun g => g.residentTiles col).sum ≤ 8192) ||
    (List.range 512).all fun b => decide ((fs.map fun g => g.bankChunks col b).sum ≤ 8192)

/-- A running draw binds the surface (R252, R254). -/
def State.bound (s : State) (f : Surface) : Bool :=
  s.sched.launches.any fun l => l.ctx = f.ctx && field l.record 0 4 = 2 &&
    (field l.record 736 32 = f.index || (List.range 8).any fun t => field l.record (768 + 32 * t) 32 = f.index)

/-- TLAYER of a launch (R330). -/
def Launch.layer (l : Launch) : Nat := field l.record 53 11

/-- The byte of a texel in the tensor-view space of R251; a surface with no view counts its rows without padding. -/
def Surface.viewPlace (f : Surface) (x y layer : Nat) : Nat :=
  let stride := if f.tvfmt = 0 then f.width * f.tb else f.tvstride
  (layer * f.height + y) * stride + x * f.tb

/-- A range of the tensor-view space holds bytes of a tile. -/
def Surface.tileIn (f : Surface) (tile lo hi : Nat) : Bool :=
  let x := tile % f.tx * 32
  let y := tile / f.tx % f.ty * 32
  let l := tile / f.tx / f.ty
  (List.range 32).any fun i =>
    let a := f.viewPlace x (y + i) l
    y + i < f.height && a < hi && lo < a + min 32 (f.width - x) * f.tb

/-- The context of a team, resident or saved. -/
def State.teamCtx (s : State) (team : Nat) : Option Nat :=
  ((s.team? team).orElse fun _ => (s.sched.saved.find? (·.team.id = team)).map SavedTeam.team).map Team.ctx

/-- An engine operation holds a lock that covers the tile, of a saved team's paused copy too (R169, R252, R379). -/
def State.tileLocked (s : State) (f : Surface) (tile : Nat) : Bool :=
  s.locks.any fun k => k.space = .surface f.index && s.teamCtx k.team = some f.ctx && f.tileIn tile k.lo k.hi

/-- An access in flight touches the tile. -/
def State.accessWants (s : State) (f : Surface) (tile : Nat) : Bool :=
  s.ops.any fun o => o.ctx = f.ctx && (match o.stage with | .texel a => a.handle = f.index && (a.tiles f).contains tile | _ => false)

/-- The tile is pinned: a ticket on a pixel of it, an access in flight to it, or a lock that covers it (R252). -/
def State.pinned (s : State) (f : Surface) (tile : Nat) : Bool :=
  s.accessWants f tile || (s.raster.tickets.any fun t =>
    match s.launch? t.launch with
    | some l =>
      l.ctx = f.ctx && ((List.range 8).any (fun i => l.target_ i = f.index) || l.depth = f.index) &&
        f.inside t.x t.y l.layer 0 && f.tileOf t.x t.y l.layer = tile
    | none => false) || s.tileLocked f tile

/-- The cycle of a tile's last use; one never used is oldest. -/
def Surface.lastUse (f : Surface) (tile : Nat) : Nat := ((f.used.find? (·.1 = tile)).map (·.2)).getD 0

/-- The surface with a tile used now. -/
def Surface.use (f : Surface) (tile now : Nat) : Surface :=
  { f with used := (tile, now) :: f.used.filter (·.1 ≠ tile) }

/-- The tiles of a column that may be spilled, with their last use. -/
def State.victims (s : State) (col : Nat) (bound : Bool) : List (Nat × Surface × Nat) :=
  s.raster.surfaces.flatMap fun f =>
    if f.spill = 0 || s.bound f ≠ bound then []
    else ((List.range f.tiles).filter fun t =>
      f.tileColumn t = col && !f.spilled.contains t && !s.pinned f t).map fun t => (f.lastUse t, f, t)

/-- The first of least last use. -/
def leastUsed : List (Nat × Surface × Nat) → Option (Surface × Nat)
  | [] => none
  | v :: r => match r.foldl (fun b w => if w.1 < b.1 then w else b) v with | (_, f, t) => some (f, t)

/-- The next victim of a column (R252). -/
def State.victim (s : State) (col : Nat) : Option (Surface × Nat) :=
  match leastUsed (s.victims col false) with
  | some v => some v
  | none => leastUsed (s.victims col true)

/-- The bytes of a tile. -/
def Surface.tileData (f : Surface) (tile : Nat) : List Byte := readBytes f.texels (tile * f.tileBytes) f.tileBytes

/-- The tile's texels are poisoned, and the event is recorded (R253). -/
def State.poisonTile (s : State) (f : Surface) (tile : Nat) : State :=
  let lo := tile * f.tileBytes / 32
  let t := s.setSurface { f with poison := f.poison ++ (List.range ((f.tileBytes + 31) / 32)).map (lo + ·) }
  t.record { ctx := f.ctx, col := f.tileColumn tile, kind := 8, addr := BitVec.ofNat 64 f.index
             item := tile % f.tx + tile / f.tx % f.ty * 2 ^ 10 + tile / f.tx / f.ty * 2 ^ 20 }

/-- The address of a tile's spill slot (R252). -/
def Surface.slotAt (f : Surface) (tile : Nat) : Nat := f.spill + tile * f.tileBytes

/-- A tile's spill slot page by page: the physical address, the offset in the slot and the length of each part; none when a page has
no leaf that the column may use, or, for a write, no W (R252, R253). -/
def State.slotParts (s : State) (f : Surface) (tile : Nat) (write : Bool) : Option (List (Nat × Nat × Nat)) :=
  let a := f.slotAt tile
  (pageNumbers a f.tileBytes).mapM fun p =>
    let lo := max a (p * 65536)
    match s.translate f.ctx lo with
    | .ok l =>
      if (write && !l.w) || (l.share = 0 && l.owner ≠ f.tileColumn tile) then none
      else some (l.pa, lo - a, min (a + f.tileBytes) ((p + 1) * 65536) - lo)
    | .error _ => none

/-- A sector of a tile, at an offset in its slot, is marked. -/
def Surface.sectorMarked (f : Surface) (tile off : Nat) : Bool := f.poison.contains ((tile * f.tileBytes + off) / 32)

/-- Bytes of a tile written to the parts of its slot: marks that the slot had go, and in raw form the tile's marks travel with the bytes
(R253, R405). -/
def State.writeSlot (s : State) (f : Surface) (tile : Nat) (parts : List (Nat × Nat × Nat)) (bytes : List Byte) : State :=
  parts.foldl (fun t p =>
    let t := t.homeWrites t.nextId (p.2.2 / 128 + 2) p.1 ((bytes.drop p.2.1).take p.2.2)
    if field f.entry 26 2 = 0 then
      (List.range (p.2.2 / 32)).foldl (fun t i => if f.sectorMarked tile (p.2.1 + 32 * i) then t.markPoison (p.1 + 32 * i) 32 else t) t
    else t) s

/-- A sector of a slot is marked that did not carry its mark there: an error of the slot (R253, R405). -/
def State.slotBad (s : State) (f : Surface) (tile : Nat) (parts : List (Nat × Nat × Nat)) : Bool :=
  parts.any fun p => (List.range (p.2.2 / 32)).any fun i =>
    s.poisoned (p.1 + 32 * i) 32 && !(field f.entry 26 2 = 0 && f.sectorMarked tile (p.2.1 + 32 * i))

/-- The bytes of a spilled tile go to its slot, in raw form with CMP = 0; a slot that cannot be written poisons it (R252, R253). The
stored form with CMP = 1 is not given: the slot takes free values (notes/assumptions/17.md). -/
def State.storeTile (s : State) (g : Surface) (tile : Nat) : State :=
  match s.slotParts g tile true with
  | none => (s.setSurface g).poisonTile g tile
  | some parts =>
    if field g.entry 26 2 = 0 then (s.writeSlot g tile parts (g.tileData tile)).setSurface g
    else
      let (v, s) := s.free
      (s.writeSlot g tile parts
        ((List.range g.tileBytes).map fun i => BitVec.ofNat 8 (Config.freeValue (v.toNat + i)).toNat)).setSurface g

/-- Spilling a tile (R252, R253). -/
def State.spillTile (s : State) (f : Surface) (tile : Nat) : State :=
  let g := { f with spilled := tile :: f.spilled }
  ((s.count (f.tileColumn tile) 0x032 (some f.ctx) 1).storeTile g tile).showState g

/-- The Blotter of a column has room for a record that this transfer of a tile may post (R253, R413). -/
def State.slotWaits (s : State) (f : Surface) (tile : Nat) (bad : Bool) : Bool :=
  s.recordsOver (f.tileColumn tile) || (bad && s.recordsFull (f.tileColumn tile))

/-- Spilling victims of a column until it has room for a surface's tiles; `n` bounds the victims. -/
def State.makeRoom (s : State) (f : Surface) (col : Nat) : Nat → State
  | 0 => s
  | n + 1 =>
    if s.roomFor f col then s
    else match s.victim col with
      | some (g, t) => (s.spillTile g t).makeRoom f col n
      | none => s

/-- A texel access that waits, in issue order, can go on or must keep waiting. -/
def Surface.waits (f : Surface) (tile : Nat) : Bool := f.spilled.contains tile

/-! ## Performing texel accesses (R170 to R178) -/

/-- `lerp` of R177 on binary32 codes. -/
def lerp (a b f : Word) : Word :=
  if f = 0 || f = 0x80000000 then a else if f = 0x3F800000 then b
  else BitVec.ofNat 32 (((xq32 a).add ((xq32 f).mul ((xq32 b).add (xq32 a).neg))).round .f32)

/-- The bytes of a texel. -/
def Surface.texel (f : Surface) (x y layer sample : Nat) : List Byte := readBytes f.texels (f.place x y layer sample) f.tb

/-- Some sector of a texel is marked. -/
def Surface.marked (f : Surface) (x y layer sample : Nat) : Bool :=
  let a := f.place x y layer sample
  f.poison.any fun k => k * 32 < a + f.tb && a < k * 32 + 32

/-- The result of `tex` or `texg` (R177). -/
def TexelAccess.sample (a : TexelAccess) (f : Surface) : List Word :=
  let u := texCoord (a.coords.getD 0 0) * f.width - 1 / 2
  let v := texCoord (a.coords.getD 1 0) * f.height - 1 / 2
  let texels := (a.taps f).map fun t =>
    match t with
    | none => [0, 0, 0, 0]
    | some p => texelWords f.fmt (f.texel p.1 p.2 (a.layer f) 0)
  if a.form = 4 then texels.map fun t => t.getD (a.fn / 32 % 4) 0
  else if !a.lin then (texels.getD 0 []).take a.nch
  else
    let fx := round32 (u - u.floor)
    let fy := round32 (v - v.floor)
    (List.range a.nch).map fun c =>
      let t (i : Nat) : Word := (texels.getD i []).getD c 0
      lerp (lerp (t 0) (t 1) fx) (lerp (t 2) (t 3) fx) fy

/-- The words of a raw load (R173). -/
def rawWords (bytes : List Byte) : List Word :=
  if bytes.length < 4 then [BitVec.ofNat 32 (leNat bytes)] else loadWords bytes.length false bytes

/-- Registers of a raw transfer (R173). -/
def rawCount (tb : Nat) : Nat := if tb ≤ 4 then 1 else if tb = 8 then 2 else 4

/-- The type code of an atomic on a format (R174, R135). -/
def sfAty (fmt : Nat) : Nat := if fmt = 0x0D then 0 else if fmt = 0x0E then 1 else 4

/-- Performing an access of `sfld`, `sfst` or `sfatom` whose tile is resident: its values, or none for a marked texel, and the surface
after. -/
def TexelAccess.perform (a : TexelAccess) (f : Surface) : Option (List Word) × Surface :=
  match a.touches f, a.form with
  | [], 0 => (some (List.replicate a.nch 0), f)
  | [], 1 => (some [], f)
  | [], _ => (some [0], f)
  | (x, y, l, q) :: _, 0 =>
    if f.marked x y l q then (none, f)
    else
      let b := f.texel x y l q
      (some (if a.raw then rawWords b else (texelWords f.fmt b).take a.nch), f)
  | (x, y, l, q) :: _, 1 =>
    let b := f.texel x y l q
    let new := if a.raw then (bytesOfWords a.data).take f.tb else storeTexel (channels f.fmt) (decide (a.fn / 8 % 2 = 1)) a.data b
    (some [], f.write (f.place x y l q) new)
  | (x, y, l, q) :: _, _ =>
    if f.marked x y l q then (none, f)
    else
      let old := f.texel x y l q
      let m := leNat old
      let aop := a.fn / 128 % 16
      let c := (a.data.getD 0 0).toNat
      let new := if aop = 7 then (if m = c then (a.data.getD 1 0).toNat else m) else atomicValue aop (sfAty f.fmt) m c
      (some [BitVec.ofNat 32 m], f.write (f.place x y l q) (leBytes 4 new))

/-! ## The texture caches (R175) -/

/-- The 128-byte lines of a surface's linear bytes that an access touches. -/
def TexelAccess.lines (a : TexelAccess) (f : Surface) : List Nat :=
  ((a.touches f).map fun t => f.place t.1 t.2.1 t.2.2.1 t.2.2.2 / 128).eraseDups

/-- The line that the core's texture caches give a thread, if they hold one: whether a held line answers is free, but for one to which
the thread itself has written since (R175, notes/assumptions/64.md). -/
def State.texLine? (s : State) (x : Actor) (f : Surface) (line : Nat) : Option TexLine :=
  s.caches.textures.find? fun l =>
    l.col = x.col && l.core = x.core && l.ctx = f.ctx && l.index = f.index && l.line = line && !l.writers.contains x.tid &&
      Config.textureHit s.fresh line

/-- Performing `tex` or `texg`: from the texture lines that answer, else from the bank; lines that were read there are then held, if no
sector of them is marked. None for a marked texel. -/
def State.sampleTexels (s : State) (x : Actor) (a : TexelAccess) (f : Surface) : Option (List Word) × State :=
  let hits := (a.lines f).filterMap (s.texLine? x f)
  let held (line : Nat) : Bool := hits.any (·.line = line)
  if (a.touches f).any fun t => f.marked t.1 t.2.1 t.2.2.1 t.2.2.2 && !held (f.place t.1 t.2.1 t.2.2.1 t.2.2.2 / 128) then (none, s)
  else
    let g := { f with texels := hits.foldl (fun m l => writeBytes m (l.line * 128) l.bytes) f.texels }
    let fresh := (a.lines f).filter fun k => !held k
    let kept := s.caches.textures.filter fun l =>
      !(l.col = x.col && l.core = x.core && l.ctx = f.ctx && l.index = f.index && fresh.contains l.line)
    let new := (fresh.filter fun k => !f.poison.any fun p => p / 4 = k).map fun k =>
      (⟨x.col, x.core, f.ctx, f.index, k, readBytes f.texels (k * 128) 128, []⟩ : TexLine)
    (some (a.sample g), { s with fresh := s.fresh + 1, caches := { s.caches with textures := new ++ kept } })

/-- Lines that a thread's write touches no longer answer it (R175). -/
def State.noteWriter (s : State) (x : Actor) (a : TexelAccess) (f : Surface) : State :=
  { s with caches := { s.caches with
      textures := s.caches.textures.map fun l =>
        if l.ctx = f.ctx && l.index = f.index && (a.lines f).contains l.line then { l with writers := x.tid :: l.writers } else l } }

/-- A surface's tiles are used now (R252). -/
def State.touchTiles (s : State) (ctx index : Nat) (tiles : List Nat) : State :=
  match s.surface? ctx index with
  | some f => s.setSurface (tiles.foldl (fun g t => g.use t s.now) f)
  | none => s

/-- The stage of a texel access: performed, or waiting for a spilled tile (R174, R253). An access that was issued under an entry which has
gone since, or has given way to one of another format, uses the old one, whose texels are gone: it reads zero and takes no write (R249). -/
def State.texelStage (s : State) (x : Actor) (a : TexelAccess) (dst : List Nat) : Stage × State :=
  match (s.surface? x.ctx a.handle).filter (·.fmt = a.fmt) with
  | none => (.ready (dst.map fun d => (d, 0)) false, s)
  | some f =>
    if (a.tiles f).any f.waits then (.texel a, s)
    else
      let (vals, s) :=
        if 3 ≤ a.form then s.sampleTexels x a f
        else
          let (vals, g) := a.perform f
          (vals, if a.form = 0 then s else (s.setSurface g).noteWriter x a f)
      let s := s.touchTiles x.ctx a.handle (a.tiles f)
      match vals with
      | some vs => (.ready (dst.zip vs) false, s)
      | none => (.failed 0x0F 0 none false, s)

/-- An earlier surface access of the thread to the surface waits (R175). -/
def State.texelBehind (s : State) (tid handle : Nat) : Bool :=
  s.ops.any fun o => o.tid = tid && (match o.stage with | .texel a => a.handle = handle | _ => false)

/-- Issuing a texel access. -/
def State.issueTexel (s : State) (c : Issue) (th : Thread) (h : Head) (a : TexelAccess) (dst : List Nat) : State :=
  if s.texelBehind th.id a.handle then leasing h dst (.texel a) s c th
  else
    let (g, s) := s.texelStage th.actor a dst
    leasing h dst g s c th

/-- Accesses to a surface that waited for a tile go on, each thread's in order (R175, R253). -/
def State.wakeTexels (s : State) : State :=
  (s.ops.foldl (fun (acc : State × List (Nat × Nat)) o =>
    let (t, held) := acc
    match o.stage with
    | .texel a =>
      if held.contains (o.tid, a.handle) then acc
      else
        let (g, t) := t.texelStage o.actor a o.dst
        (t.setOp { o with stage := g }, match g with | .texel _ => (o.tid, a.handle) :: held | _ => held)
    | _ => acc) (s, [])).1

/-! ## Surface instructions -/

/-- A surface fault (R167). -/
def State.surfaceFault (s : State) (c : Issue) (th : Thread) (sub : Nat) (handle : Word) : State :=
  s.raise c th 0x12 sub (handle.zeroExtend 64)

/-- The surface a handle names, or subcode 1 (R167, R170). -/
def State.withSurface (s : State) (c : Issue) (th : Thread) (handle : Word) (k : Surface → State) : State :=
  match (if 65536 ≤ handle.toNat then none else s.surface? th.ctx handle.toNat) with
  | none => s.surfaceFault c th 1 handle
  | some f => k f

/-- A write to a texel that an engine operation of the team holds (R175). -/
def State.texelLocked (s : State) (th : Thread) (f : Surface) (a : TexelAccess) : Bool :=
  (a.touches f).any fun t => s.lockConflict th.team (.surface f.index) (f.viewPlace t.1 t.2.1 t.2.2.1) f.tb true

/-- FN as a number. -/
def fnNat (o : XF) : Nat := o.fn.toNat

/-- `sfld` (R170 to R174). -/
def execSfld (h : Head) (o : XF) (s : State) : Host.Outcome State Fault Refusal :=
  issue (.sfld h o) h s fun s c th =>
    let hn := srcWord s th o.a
    s.withSurface c th hn fun f =>
      let a : TexelAccess := ⟨0, hn.toNat, srcRange th o.b 4, fnNat o, [], f.fmt⟩
      if a.raw && a.nch ≠ rawCount f.tb then s.surfaceFault c th 3 hn
      else s.issueTexel c th h a (rangeRegs o.d a.nch)

/-- `sfst` (R170 to R175): nothing in a helper thread (R168). -/
def execSfst (h : Head) (o : XF) (s : State) : Host.Outcome State Fault Refusal :=
  issue (.sfst h o) h s fun s c th =>
    let hn := srcWord s th o.a
    if th.helper then s.setThread (th.advance c h s.now)
    else s.withSurface c th hn fun f =>
      let a : TexelAccess := ⟨1, hn.toNat, srcRange th o.b 4, fnNat o, srcRange th o.c (fnNat o % 4 + 1), f.fmt⟩
      if a.raw && a.nch ≠ rawCount f.tb then s.surfaceFault c th 3 hn
      else if s.texelLocked th f a then s.raiseFree c th 0x0A
      else s.issueTexel c th h a []

/-- The format and operation that `sfatom` accepts (R174). -/
def sfatomOk (fmt aop : Nat) : Bool := isIntFmt fmt || (fmt = 0x0A && !(aop = 3 || aop = 4 || aop = 5))

/-- `sfatom` (R174): zero in a helper thread (R168). -/
def execSfatom (h : Head) (o : XF) (s : State) : Host.Outcome State Fault Refusal :=
  issue (.sfatom h o) h s fun s c th =>
    let hn := srcWord s th o.a
    let aop := fnNat o / 128 % 16
    if th.helper then leasingReady h (wordRegs o.d) [0] s c th
    else s.withSurface c th hn fun f =>
      let a : TexelAccess :=
        ⟨2, hn.toNat, srcRange th o.b 4, fnNat o, if aop = 7 then srcRange th o.c 2 else [srcWord s th o.c], f.fmt⟩
      if !sfatomOk f.fmt aop then s.surfaceFault c th 2 hn
      else if s.texelLocked th f a then s.raiseFree c th 0x0A
      else s.issueTexel c th h a (wordRegs o.d)

/-- Every line in a core's texture caches is discarded (R175). -/
def State.dropTexLines (s : State) (col core : Nat) : State :=
  { s with caches := { s.caches with textures := s.caches.textures.filter fun l => !(l.col = col && l.core = core) } }

/-- `sffence` (R175): it completes when the thread's surface writes are performed. -/
def execSffence (h : Head) (o : XF) (s : State) : Host.Outcome State Fault Refusal :=
  issue (.sffence h o) h s fun s c th =>
    if s.writesWait th.id then s.setThread (th.wait c h s.now (.surfaceWrites false))
    else (s.dropTexLines th.col th.core).setThread (th.advance c h s.now)

/-- `tex` (R176, R177). -/
def execTex (h : Head) (o : XF) (s : State) : Host.Outcome State Fault Refusal :=
  issue (.tex h o) h s fun s c th =>
    let hn := srcWord s th o.a
    s.withSurface c th hn fun f =>
      if isIntFmt f.fmt then s.surfaceFault c th 2 hn
      else
        let a : TexelAccess := ⟨3, hn.toNat, srcRange th o.b 4, fnNat o, [], f.fmt⟩
        s.issueTexel c th h a (rangeRegs o.d a.nch)

/-- `texg` (R176, R177). -/
def execTexg (h : Head) (o : XF) (s : State) : Host.Outcome State Fault Refusal :=
  issue (.texg h o) h s fun s c th =>
    let hn := srcWord s th o.a
    s.withSurface c th hn fun f =>
      s.issueTexel c th h ⟨4, hn.toNat, srcRange th o.b 4, fnNat o, [], f.fmt⟩ (rangeRegs o.d 4)

/-- `texq` (R178). -/
def execTexq (h : Head) (o : XF) (s : State) : Host.Outcome State Fault Refusal :=
  issue (.texq h o) h s fun s c th =>
    let hn := srcWord s th o.a
    s.withSurface c th hn fun f =>
      let info := (if f.spilled.isEmpty then 0 else 65536) + f.fmt * 256 + f.samples
      leasingReady h (rangeRegs o.d 4)
        [BitVec.ofNat 32 f.width, BitVec.ofNat 32 f.height, BitVec.ofNat 32 f.layers, BitVec.ofNat 32 info] s c th

/-! ## The surface table (R248, R249) and the Blotter's events -/

/-- Every texel of a surface takes the clear value, or zero (R248). -/
def Surface.cleared (f : Surface) (clr : Bool) : Surface :=
  if clr && f.clear ≠ 0 then
    { f with poison := [], texels := (List.range (f.tiles * 1024 * f.samples)).flatMap fun i =>
        ((leBytes f.tb f.clear).zipIdx.filter fun b => b.1 ≠ 0 && !(f.fmt = 0x11 && 5 ≤ b.2)).map fun b => (i * f.tb + b.2, b.1) }
  else { f with poison := [], texels := [] }

/-- The entry as accepted: CLR reads back 0, STATE is the device's. -/
def acceptedEntry (e : BitVec 512) : BitVec 512 := e &&& ~~~(BitVec.ofNat 512 (2 ^ 30 + 3 * 2 ^ 28))

/-- The surface of a context and index is released, and no texture cache holds a line of it (R248, R249). -/
def State.dropSurface (s : State) (ctx index : Nat) : State :=
  { s with
    caches := { s.caches with textures := s.caches.textures.filter fun l => !(l.ctx = ctx && l.index = index) }
    raster := { s.raster with surfaces := s.raster.surfaces.filter fun f => !(f.ctx = ctx && f.index = index) } }

/-- A clear of a surface that stays valid: every texel takes the clear value, those of spilled tiles in their slots too (R248). -/
def State.clearSurface (s : State) (f : Surface) : State :=
  let g := f.cleared true
  g.spilled.foldl (fun s t => match s.surface? g.ctx g.index with | some k => s.storeTile k t | none => s) (s.setSurface g)

/-- A new valid entry: room is made in every column, or the entry is refused with VALID 0; a written STATE is ignored (R245, R248). -/
def State.enterSurface (s : State) (ctx index : Nat) (e : BitVec 512) : State :=
  let f : Surface := { ctx := ctx, index := index, entry := acceptedEntry e, texels := [], poison := [], spilled := [], used := [] }
  let f := f.cleared (e.getLsbD 30)
  let s := (List.range 32).foldl (fun t c => t.makeRoom f c 1048576) s
  if (List.range 32).all (s.roomFor f) then
    ({ s with raster := { s.raster with surfaces := s.raster.surfaces ++ [f] } }).writeEntry ctx index f.entry
  else s.writeEntry ctx index (e &&& ~~~(BitVec.ofNat 512 (2 ^ 31 + 3 * 2 ^ 28)))

/-- An entry of a live context's table is written with VALID = 1. -/
def State.entryWritten (s : State) (ctx index : Nat) (e : BitVec 512) : Bool :=
  (s.context ctx).desc.getLsbD 0 && index < 65536 && e.getLsbD 31

/-- A written entry is in use in the context: VALID = 1 and nothing invalid (R247). -/
def State.entryUsable (s : State) (ctx index : Nat) (e : BitVec 512) : Bool := s.entryWritten ctx index e && surfaceEntryOk e

/-- Fields that only a new entry may change (R248). -/
def sameShape (a b : BitVec 512) : Bool := field a 0 24 = field b 0 24 && field a 32 128 = field b 32 128

/-- SURFACE_ENTRY_VALID: an entry is written valid after VALID was 0, with another format, size or tensor view, or with CLR while it
stays as it was (R248); an invalid one is not in use, whatever it held before (R247). A change of SPILL or CMP alone keeps the surface, and
a tile that is spilled comes back from its slot under the new entry (notes/assumptions/77.md). -/
def execSurfaceEntryValid (ctx index : Nat) (entry : BitVec 512) (s : State) : Host.Outcome State Fault Refusal :=
  .next <|
  if s.entryUsable ctx index entry then
    match s.surface? ctx index with
    | none => s.enterSurface ctx index entry
    | some f =>
      if sameShape f.entry entry then
        let g := { f with entry := acceptedEntry entry }
        (if entry.getLsbD 30 then s.clearSurface g else s.setSurface g).writeEntry ctx index g.shown
      else ((s.dropSurface ctx index).enterSurface ctx index entry).wakeTexels
  else if s.entryWritten ctx index entry then
    ((s.dropSurface ctx index).writeEntry ctx index (entry &&& ~~~(BitVec.ofNat 512 (3 * 2 ^ 28)))).wakeTexels
  else s

/-- SURFACE_ENTRY_CLEAR: a valid entry is written with CLR = 1 (R248). -/
def execSurfaceEntryClear (ctx index : Nat) (entry : BitVec 512) (s : State) : Host.Outcome State Fault Refusal :=
  .next <|
  match s.surface? ctx index with
  | some f =>
    if s.entryUsable ctx index entry && entry.getLsbD 30 && sameShape f.entry entry then
      let g := { f with entry := acceptedEntry entry }
      (s.clearSurface g).writeEntry ctx index g.shown
    else s
  | none => s

/-- SURFACE_ENTRY_INVALIDATE: VALID is written 0 (R248). -/
def execSurfaceEntryInvalidate (ctx index : Nat) (s : State) : Host.Outcome State Fault Refusal :=
  .next (((s.dropSurface ctx index).hideEntry ctx index).wakeTexels)

/-- A retired ticket of a draw that binds the surface lies in the tile. -/
def State.ticketWants (s : State) (f : Surface) (tile : Nat) : Bool :=
  s.raster.tickets.any fun t => t.state = .retired &&
    match s.launch? t.launch with
    | some l =>
      l.ctx = f.ctx && ((List.range 8).any (fun i => l.target_ i = f.index) || l.depth = f.index) &&
        f.inside t.x t.y l.layer 0 && f.tileOf t.x t.y l.layer = tile
    | none => false

/-- An access, or a fragment to retire, waits for a tile of the surface. -/
def State.tileWanted (s : State) (f : Surface) (tile : Nat) : Bool :=
  s.ticketWants f tile || s.tileLocked f tile || s.accessWants f tile

/-- The surface with a spilled tile back. -/
def Surface.refilled (f : Surface) (tile : Nat) : Surface := { f with spilled := f.spilled.filter (· ≠ tile) }

/-- BLOTTER_SPILL: the column needs room for a tile that is waited for, and this is its victim (R252). -/
def execBlotterSpill (ctx index tile : Nat) (s : State) : Host.Outcome State Fault Refusal :=
  .next <|
  match s.surface? ctx index with
  | some f =>
    let col := f.tileColumn tile
    let short := s.raster.surfaces.any fun g => g.spilled.any fun t =>
      g.tileColumn t = col && s.tileWanted g t && !s.roomFor (g.refilled t) col
    match s.victim col with
    | some (g, t) =>
      if short && g.ctx = ctx && g.index = index && t = tile && !s.slotWaits f tile (s.slotParts f tile true).isNone then s.spillTile f tile
      else s
    | none => s
  | none => s

/-- TILE_REFILL: a spilled tile returns when its column has room; its slot must be readable (R253). A tile that no access waits for returns
too, and its return counts as a use (notes/assumptions/78.md). -/
def execTileRefill (ctx index tile : Nat) (s : State) : Host.Outcome State Fault Refusal :=
  .next <|
  match s.surface? ctx index with
  | some f =>
    let g := f.refilled tile
    if f.spilled.contains tile && s.roomFor g (f.tileColumn tile) then
      let bad := match s.slotParts f tile false with
        | some parts => s.slotBad f tile parts
        | none => true
      if s.slotWaits f tile bad then s else
      ((if bad then (s.setSurface g).poisonTile g tile else s.setSurface (g.use tile s.now)).showState g).wakeTexels
    else s
  | none => s

end Sys2Proof.Machine
end

