-- ==== Sys2Proof/Machine/Place.lean ====
section
/-! DEFINITION. Starting a team at its place (R22, R27, R113, R206, R256, R333, R337). -/

namespace Sys2Proof.Machine

/-! ## Starting a team -/

/-- Words from bytes of a number, as sparse cells that are not zero. -/
def wordCells (n v : Nat) : Cells 32 :=
  ((List.range n).map fun i => (i, BitVec.ofNat 32 (v / 2 ^ (32 * i)))).filter fun c => c.2 ≠ 0

/-- The barriers of a plan (R333). -/
def Launch.barriers (l : Launch) : List Barrier :=
  (List.range 16).map fun b =>
    let e := if l.planned then field l.plan (32 * b) 24 else 0
    ⟨0, e, e, false⟩

/-- The rings of a plan (R333). -/
def Launch.rings (l : Launch) : List (Option Ring) :=
  (List.range 16).map fun q =>
    let w := if l.planned then field l.plan (512 + 32 * q) 32 else 0
    if w / 2 ^ 24 = 0 then none
    else some ⟨w / 2 ^ 24 + 1, if w / 2 ^ 23 % 2 = 1 then 16 else 8, w % 2 ^ 19, 0, 0, 0, []⟩

/-- The team with index `g` of a launch at a place (R22, R113, R333, R337). The item counter of a geometry team starts at 0
(notes/assumptions/51.md). -/
def Launch.team (l : Launch) (id : Nat) (r : Reserve) (g : Nat) : Team where
  id := id
  ctx := l.ctx
  launch := l.id
  col := r.col
  core := r.core
  lanes := lanesOf r.pens
  kind := if l.kind = 2 then .geometry else .compute
  index := g
  size := l.size
  shape := l.shape
  grid := (g % l.grid.1, g / l.grid.1 % l.grid.2.1, g / l.grid.1 / l.grid.2.1)
  extent := l.grid
  ks := wordCells 64 l.params.toNat
  barriers := l.barriers
  queues := l.rings
  converge := List.replicate 8 ⟨0, [], 0⟩
  scratchSize := 4096 * l.scr
  scratch := []
  scratchPoison := []
  item := if l.kind = 1 then l.record.extractLsb' 768 32 else 0
  itemEnd := if l.kind = 1 then l.record.extractLsb' 800 32 else 0
  acc := []
  accPoison := []
  emitted := []
  binTimer := l.bint
  stackBase := l.stack.1
  spillSize := l.stack.2.2
  stackStride := l.stack.2.1
  marked := none
  lineBufs := [[], [], [], []]
  accTiles := l.accTiles
  started := 0

/-- Thread `i` of a team takes the lowest free slot of its lane (R27, R29, R206). -/
def State.startThread (s : State) (t : Team) (l : Launch) (i : Nat) : State :=
  let lane := t.lanes.getD (i % t.lanes.length) 0
  match s.lowestSlot t.col t.core lane with
  | none => s
  | some slot =>
    let (id, s) := s.newId
    let th := t.newThread s.now id lane slot t.kind l.regs l.entry
    let th : Thread := { th with
      tid := BitVec.ofNat 32 i, tx := BitVec.ofNat 32 (i % t.shape.1), ty := BitVec.ofNat 32 (i / t.shape.1 % t.shape.2.1)
      tz := BitVec.ofNat 32 (i / t.shape.1 / t.shape.2.1) }
    { s with threads := s.threads ++ [th] }

/-- Starting the launch's next team at a place: its threads, and its reorder buffer in setup for a geometry team (R256). -/
def State.startTeam (s : State) (l : Launch) (r : Reserve) : State :=
  let (id, s) := s.newId
  let t := l.team id r l.next
  let s := { s with teams := s.teams ++ [t] }
  let s := (List.range t.size).foldl (fun s i => s.startThread t l i) s
  let s := if l.kind = 2 then
      { s with raster := { s.raster with setups := s.raster.setups ++ [⟨id, l.id, r.col, l.next, 0, [], false⟩] } }
    else s
  (s.setLaunch { l with next := l.next + 1 }).useWindows id

end Sys2Proof.Machine
end

