-- ==== Sys2Proof/Machine/Raster.lean ====
section
/-! DEFINITION. The raster path: primitives, tickets and pixel threads (R179 to R183, R254 to R268). -/

namespace Sys2Proof.Machine

/-! ## Vertices and sequence numbers (R179, R180, R257) -/

/-- The sequence number of primitive `i` of geometry team `g` of a draw (R180). -/
def seqOf (draw g i : Nat) : Nat := draw % 2 ^ 24 * 2 ^ 24 + (256 * g + i) % 2 ^ 24

/-- The order of sequence numbers of one queue: the signed difference of the draws, then the index (R257). -/
def seqLess (a b : Nat) : Bool :=
  let d := (b / 2 ^ 24 + 2 ^ 24 - a / 2 ^ 24) % 2 ^ 24
  if d = 0 then decide (a % 2 ^ 24 < b % 2 ^ 24) else decide (d < 2 ^ 23)

/-- Word `k` of vertex `i`: x, y, z, q, then attributes. -/
def Primitive.word (p : Primitive) (i k : Nat) : Word := (p.verts.getD i []).getD k 0

/-- A finite word of a vertex as a rational. -/
def Primitive.rat (p : Primitive) (i k : Nat) : ℚ := rat32 (p.word i k)

/-- Twice the signed area (R180). -/
def Primitive.area (p : Primitive) : ℚ :=
  (p.rat 1 0 - p.rat 0 0) * (p.rat 2 1 - p.rat 0 1) - (p.rat 2 0 - p.rat 0 0) * (p.rat 1 1 - p.rat 0 1)

/-- A primitive is discarded (R180). `cull` is CULL. -/
def Primitive.discarded (p : Primitive) (cull : Nat) : Bool :=
  !((List.range 3).all fun i => ((List.range 4).all fun k => finite32 (p.word i k)) && decide (0 < p.rat i 3)) ||
    p.area = 0 || (cull = 1 && decide (p.area < 0)) || (cull = 2 && decide (0 < p.area))

/-! ## The instructions of geometry and pixel threads -/

/-- A surface fault that names no handle: its address is a free value (notes/assumptions/6.md). -/
def State.surfaceFaultFree (s : State) (c : Issue) (th : Thread) (sub : Nat) : State :=
  let (v, s) := s.free
  s.raise c th 0x12 sub v

/-- The reorder buffer of a team takes a primitive, or the mark of one discarded (R256). -/
def State.fillSlot (s : State) (team i : Nat) (p : Option Primitive) : State :=
  { s with raster := { s.raster with
      setups := s.raster.setups.map fun u => if u.team = team then { u with slots := u.slots ++ [(i, p)] } else u } }

/-- `pemit` (R179, R180). -/
def execPemit (h : Head) (o : XF) (s : State) : Host.Outcome State Fault Refusal :=
  issue (.pemit h o) h s fun s c th =>
    let i := (srcWord s th o.c).toNat
    let n := fnNat o % 16
    match s.team? th.team with
    | none => s.surfaceFaultFree c th 4
    | some t =>
      if t.kind ≠ .geometry then s.surfaceFaultFree c th 4
      else if 256 ≤ i || t.emitted.contains i then s.surfaceFaultFree c th 5
      else if s.unperformed th.id then s.setThread (th.stall c h s.now)
      else
        let draw := ((s.launch? t.launch).map Launch.draw).getD 0
        let p : Primitive :=
          { seq := seqOf draw t.index i, launch := t.launch, nattr := n
            verts := (List.range 3).map fun v => (List.range (4 + n)).map fun k => th.reg (o.a.toNat + v * (4 + n) + k) }
        let s := (s.release th.col th.ctx 1).setTeam { t with emitted := i :: t.emitted }
        if p.discarded (fnNat o / 16 % 4) then (s.fillSlot t.id i none).setThread (th.advance c h s.now)
        else s.setThread (th.wait c h s.now (.setup i p))

/-- The ticket of a pixel thread, while it has not retired. -/
def State.openTicket (s : State) (th : Thread) : Option Ticket :=
  th.ticket.bind fun k => s.raster.tickets.find? fun t => t.id = k && t.state = .waiting

/-- Replacing a ticket by its new record. -/
def State.setTicket (s : State) (t : Ticket) : State :=
  { s with raster := { s.raster with tickets := s.raster.tickets.map fun u => if u.id = t.id then t else u } }

/-- `pxout` (R181): nothing in a helper thread (R168), nor after `pxkill` (R182). -/
def execPxout (h : Head) (o : XF) (s : State) : Host.Outcome State Fault Refusal :=
  issue (.pxout h o) h s fun s c th =>
    let tgt := fnNat o % 8
    if th.kind ≠ .pixel then s.surfaceFaultFree c th 4
    else
      let s := match s.openTicket th with
        | none => s
        | some t =>
          if fnNat o / 8 % 2 = 1 then
            s.setTicket { t with depth := some (BitVec.ofNat 32 (satUnit .f32 (srcWord s th o.a).toNat)) }
          else s.setTicket { t with outs := (tgt, srcRange th o.a 4) :: t.outs.filter (·.1 ≠ tgt) }
      s.setThread (th.advance c h s.now)

/-- `pxkill` (R182): inside the ordered region it also leaves it, once the thread's surface writes are performed (R183). -/
def execPxkill (h : Head) (o : XF) (s : State) : Host.Outcome State Fault Refusal :=
  issue (.pxkill h o) h s fun s c th =>
    if th.kind ≠ .pixel then s.surfaceFaultFree c th 4
    else if th.ordered && s.writesWait th.id then
      (s.endTicket th.ticket .killed false).setThread (th.wait c h s.now (.surfaceWrites true))
    else (s.endTicket th.ticket .killed th.ordered).setThread ({ th with ordered := false }.advance c h s.now)

/-- Tickets of the same pixel: of one work queue, in sequence order (R258, R260). -/
def Ticket.below (a b : Ticket) : Bool := a.queue = b.queue && a.x = b.x && a.y = b.y && seqLess a.seq b.seq

/-- Every fragment of the pixel with a lower sequence number is retired with its writes performed, or has left its ordered
region (R183). -/
def State.regionFree (s : State) (ticket : Nat) : Bool :=
  match s.raster.tickets.find? (·.id = ticket) with
  | none => true
  | some t => s.raster.tickets.all fun u => !(u.below t && !u.left)

/-- A thread enters its ordered region. -/
def State.enterRegion (s : State) (th : Thread) : State :=
  match s.openTicket th with
  | some t => s.setTicket { t with left := false }
  | none => s

/-- A thread leaves its ordered region. -/
def State.leaveRegion (s : State) (th : Thread) : State :=
  { s with raster := { s.raster with tickets := s.raster.tickets.map fun t => if some t.id = th.ticket then { t with left := true } else t } }

/-- `pxord` (R183): complete at once in a helper thread (R168). -/
def execPxord (h : Head) (o : XF) (s : State) : Host.Outcome State Fault Refusal :=
  issue (.pxord h o) h s fun s c th =>
    let leave := fnNat o % 2 = 1
    if th.kind ≠ .pixel then s.surfaceFaultFree c th 4
    else
      match th.ticket with
      | none => s.setThread (th.advance c h s.now)
      | some k =>
        if leave ≠ th.ordered then s.setThread (th.advance c h s.now)
        else if leave then
          (if s.writesWait th.id then s.setThread (th.wait c h s.now (.surfaceWrites true))
           else (s.leaveRegion th).setThread ({ th with ordered := false }.advance c h s.now))
        else if s.regionFree k then (s.enterRegion th).setThread ({ th with ordered := true }.advance c h s.now)
        else s.setThread (th.wait c h s.now .pxord)

/-! ## The render area and the columns of a primitive (R254, R257) -/

/-- The surfaces a draw binds, targets first, as they are now. -/
def State.boundSurfaces (s : State) (l : Launch) : List Surface :=
  l.handles.filterMap fun h => s.surface? l.ctx h

/-- The entries of the surfaces a draw binds as they stood at its dispatch (R249); none bound is a surface of 32,768 by 32,768 texels of
one sample and 4 bytes (R254). -/
def Launch.bound (l : Launch) : List Surface :=
  let f (e : BitVec 512) : Surface := { ctx := l.ctx, index := 0, entry := e, texels := [], poison := [], spilled := [], used := [] }
  if l.entries.isEmpty then [f (BitVec.ofNat 512 (0x0A + 2 ^ 8 + 32768 * 2 ^ 32 + 32768 * 2 ^ 64 + 2048 * 2 ^ 96))] else l.entries.map f

/-- The render area (R254). -/
def Launch.area (l : Launch) : Nat × Nat :=
  l.bound.foldl (fun a f => (min a.1 f.width, min a.2 f.height)) (32768, 32768)

/-- Samples per pixel of a draw. -/
def Launch.samples (l : Launch) : Nat := (l.bound.head?.map Surface.samples).getD 1

/-- The tiles from `lo` to `hi` along one side hit a column whose coordinate is `c`, of `m` (R250). -/
def tileHit (lo hi : Int) (c m : Nat) : Bool := (List.range m).any fun k => lo + k ≤ hi && (lo + k) % m = c

/-- The tiles of a range of coordinates clipped to a side of the render area. -/
def tileSpan (lo hi : ℚ) (side : Nat) : Int × Int :=
  (max (lo / 32).floor 0, min (hi / 32).floor (((side : Int) - 1) / 32))

/-- Least and greatest of three. -/
def span3 (a b c : ℚ) : ℚ × ℚ := (min a (min b c), max a (max b c))

/-- The columns that own a tile which the primitive's bounding box meets (R257). -/
def Launch.columnsOf (l : Launch) (p : Primitive) : List Nat :=
  let (w, hgt) := l.area
  let bx := span3 (p.rat 0 0) (p.rat 1 0) (p.rat 2 0)
  let by_ := span3 (p.rat 0 1) (p.rat 1 1) (p.rat 2 1)
  let tx := tileSpan bx.1 bx.2 w
  let ty := tileSpan by_.1 by_.2 hgt
  (List.range 32).filter fun c => tileHit tx.1 tx.2 (c % 8) 8 && tileHit ty.1 ty.2 (c / 8) 4

/-! ## Setup (R256, R257) -/

/-- The inbound queue of a column for a sender and a work queue. -/
def State.inboundOf (s : State) (col sender queue : Nat) : Inbound :=
  (s.raster.inbound.find? fun b => b.col = col && b.sender = sender && b.queue = queue).getD ⟨col, sender, queue, [], 0⟩

/-- Replacing an inbound queue; an empty one is not listed. -/
def State.setInbound (s : State) (b : Inbound) : State :=
  { s with raster := { s.raster with
      inbound := (if b.prims.isEmpty then [] else [b]) ++
        s.raster.inbound.filter fun (d : Inbound) => !(d.col = b.col && d.sender = b.sender && d.queue = b.queue) } }

/-- A destination queue of the primitive is full. -/
def State.destFull (s : State) (l : Launch) (col : Nat) (p : Primitive) : Bool :=
  (l.columnsOf p).any fun c => decide (64 ≤ (s.inboundOf c col l.q).prims.length)

/-- A primitive that a sending column, or any column, may still send lies below a sequence number: the column's frontier, or that
of all, does not exceed it (R257). -/
def State.mayPrecede (s : State) (sender : Option Nat) (queue seq : Nat) : Bool :=
  (s.raster.setups.any fun u =>
    match s.launch? u.launch with
    | some l => l.q = queue && sender.getD u.col = u.col && seqLess (seqOf l.draw u.index u.next) seq
    | none => false) ||
  s.sched.launches.any fun l =>
    l.kind = 2 && l.q = queue && !l.terminated && !l.done && decide (l.next < l.total) && seqLess (seqOf l.draw l.next 0) seq

/-- The buffer's forwarding is held by a full destination queue (R256). -/
def State.setupHeld (s : State) (u : Setup) : Bool :=
  match u.slots.find? (·.1 = u.next), s.launch? u.launch with
  | some (_, some p), some l => s.destFull l u.col p
  | _, _ => false

/-- SETUP_ACCEPT: the primitive of a waiting `pemit` enters the reorder buffer (R180, R256). -/
def execSetupAccept (tid : Nat) (s : State) : Host.Outcome State Fault Refusal :=
  .next <| match s.thread? tid with
  | none => s
  | some th =>
    match th.block.map Block.wait, s.raster.setups.find? (·.team = th.team) with
    | some (.setup i p), some u =>
      if s.setupHeld u then s else (s.fillSlot th.team i (some p)).setThread (th.complete s.now [])
    | _, _ => s

/-- Replacing a reorder buffer; one that is done is dropped. -/
def State.setSetup (s : State) (u : Setup) : State :=
  { s with raster := { s.raster with
      setups := s.raster.setups.filterMap fun v =>
        if v.team = u.team then (if 256 ≤ u.next || (u.closed && u.slots.isEmpty) then none else some u) else some v } }

/-- Passing over the indexes that were discarded or, in a retired team, never emitted. -/
def Setup.skip (u : Setup) : Nat → Setup
  | 0 => u
  | n + 1 =>
    if 256 ≤ u.next then u
    else match u.slots.find? (·.1 = u.next) with
      | some (_, none) => Setup.skip { u with next := u.next + 1, slots := u.slots.filter (·.1 ≠ u.next) } n
      | some (_, some _) => u
      | none => if u.closed && !u.slots.isEmpty then Setup.skip { u with next := u.next + 1 } n else u

/-- PRIMITIVE_FORWARD: the next primitive of a team's batch goes to every column whose tiles its box meets, once each has
room and the sender has nothing lower to come; its frontier follows (R256, R257). -/
def execPrimitiveForward (launch team : Nat) (s : State) : Host.Outcome State Fault Refusal :=
  .next <| match s.raster.setups.find? fun u => u.launch = launch && u.team = team, s.launch? launch with
  | some u, some l =>
    let u := u.skip 256
    match u.slots.find? (·.1 = u.next) with
    | some (_, some p) =>
      if s.destFull l u.col p || s.mayPrecede (some u.col) l.q p.seq then s.setSetup u
      else
        let s := (l.columnsOf p).foldl (fun s c =>
          let b := s.inboundOf c u.col l.q
          s.setInbound { b with prims := b.prims ++ [p] }) s
        s.setSetup ({ u with next := u.next + 1, slots := u.slots.filter (·.1 ≠ u.next) }.skip 256)
    | _ => s.setSetup u
  | _, _ => s

/-! ## Rasterization (R259 to R262) -/

/-- Sample positions in sixteenths (R259). -/
def samplePositions (n : Nat) : List (Nat × Nat) :=
  match n with
  | 1 => [(8, 8)]
  | 2 => [(4, 4), (12, 12)]
  | 4 => [(6, 2), (14, 6), (2, 10), (10, 14)]
  | _ => [(9, 5), (7, 11), (13, 9), (5, 3), (3, 13), (1, 7), (11, 15), (15, 1)]

/-- The primitive with vertices 1 and 2 exchanged when its area is negative (R259). -/
def Primitive.turned (p : Primitive) : Primitive :=
  if p.area < 0 then { p with verts := [p.verts.getD 0 [], p.verts.getD 2 [], p.verts.getD 1 []] } else p

/-- The edge function from vertex `i` to vertex `j` at a point (R259). -/
def Primitive.edge (p : Primitive) (i j : Nat) (x y : ℚ) : ℚ :=
  (p.rat j 0 - p.rat i 0) * (y - p.rat i 1) - (p.rat j 1 - p.rat i 1) * (x - p.rat i 0)

/-- The edge is a top edge or a left edge (R259). -/
def Primitive.topLeft (p : Primitive) (i j : Nat) : Bool :=
  (p.rat j 1 = p.rat i 1 && decide (p.rat i 0 < p.rat j 0)) || decide (p.rat j 1 < p.rat i 1)

/-- A point is covered by a turned primitive (R259). -/
def Primitive.covers (p : Primitive) (x y : ℚ) : Bool :=
  [(0, 1), (1, 2), (2, 0)].all fun e =>
    decide (0 < p.edge e.1 e.2 x y) || (p.edge e.1 e.2 x y = 0 && p.topLeft e.1 e.2)

/-- The point of a pixel at an offset in sixteenths. -/
def pointAt (x y : Nat) (o : Nat × Nat) : ℚ × ℚ := ((x : ℚ) + mkRat o.1 16, (y : ℚ) + mkRat o.2 16)

/-- The coverage mask of a pixel (R259, R260). -/
def Primitive.coverage (p : Primitive) (samples x y : Nat) : Nat :=
  (samplePositions samples).zipIdx.foldl (fun m o =>
    if p.covers (pointAt x y o.1).1 (pointAt x y o.1).2 then m + 2 ^ o.2 else m) 0

/-- The weights of a turned primitive at a point (R261). -/
def Primitive.weights (p : Primitive) (x y : ℚ) : List ℚ :=
  [p.edge 1 2 x y / p.area, p.edge 2 0 x y / p.area, p.edge 0 1 x y / p.area]

/-- The exact sum of three weights times word `k` of the vertices, with the sign of a zero (R36, R39). -/
def Primitive.weighted (p : Primitive) (k : Nat) (w : List ℚ) : XQ :=
  let term (i : Nat) : XQ := (XQ.of (w.getD i 0)).mul (xq32 (p.word i k))
  ((term 0).add (term 1)).add (term 2)

/-- Depth at a point (R261). -/
def Primitive.depthAt (p : Primitive) (x y : ℚ) : Word :=
  BitVec.ofNat 32 (satUnit .f32 ((p.weighted 2 (p.weights x y)).round .f32))

/-- Attribute `k` at a point (R261): exact, with one rounding; attributes that are not finite follow R39. -/
def Primitive.attrAt (p : Primitive) (k : Nat) (x y : ℚ) : Word :=
  let wq := (p.weights x y).zipIdx.map fun w => w.1 * p.rat w.2 3
  let den := wq.foldl (· + ·) 0
  if den ≤ 0 then BitVec.ofNat 32 nan32
  else BitVec.ofNat 32 (((p.weighted (4 + k) wq).mul (.of (1 / den))).round .f32)

/-- The bank that owns a pixel of a draw (R250, R254). Where the bound surfaces put the pixel at several nib units, the spec does not say
which of them keeps its ticket: the ticket counts at that of the first (notes/assumptions/80.md). -/
def Launch.bankOf (l : Launch) (x y : Nat) : Nat :=
  match l.bound.head? with
  | some f => f.bankOf (f.tileOf x y l.layer) ((y % 32 * 32 + x % 32) * f.samples * f.tb / 256)
  | none => 0

/-- Tickets outstanding at a bank of a column (R244). -/
def State.bankTickets (s : State) (col bank : Nat) : Nat :=
  (s.raster.tickets.filter fun t => t.col = col && (match s.launch? t.launch with | some l => l.bankOf t.x t.y = bank | none => false)).length

/-- The column that owns a pixel (R250). -/
def pixelColumn (x y : Nat) : Nat := y / 32 % 4 * 8 + x / 32 % 8

/-- Pixels of a quad in the order of `$quad` (R116). -/
def quadPixels (x y : Nat) : List (Nat × Nat) := [(x, y), (x + 1, y), (x, y + 1), (x + 1, y + 1)]

/-- Coverage of a quad's pixels within the render area. -/
def Primitive.quadCover (p : Primitive) (samples : Nat) (area : Nat × Nat) (x y : Nat) : List Nat :=
  (quadPixels x y).map fun q => if q.1 < area.1 && q.2 < area.2 then p.coverage samples q.1 q.2 else 0

/-- The quads of a primitive's box: origin and quads along each side. -/
def Primitive.quadBox (p : Primitive) (area : Nat × Nat) : Nat × Nat × Nat × Nat :=
  let bx := span3 (p.rat 0 0) (p.rat 1 0) (p.rat 2 0)
  let by_ := span3 (p.rat 0 1) (p.rat 1 1) (p.rat 2 1)
  let x0 := (max (bx.1 / 2).floor 0).toNat
  let y0 := (max (by_.1 / 2).floor 0).toNat
  let x1 := (min (bx.2 / 2).floor (((area.1 : Int) - 1) / 2) + 1).toNat
  let y1 := (min (by_.2 / 2).floor (((area.2 : Int) - 1) / 2) + 1).toNat
  (x0, y0, x1 - x0, y1 - y0)

/-- The first quad of a column at or after a cursor that has coverage: its cursor, place and coverage. `fuel` bounds the
quads tried. -/
def Primitive.nextQuad (p : Primitive) (col samples : Nat) (area : Nat × Nat) (cursor : Nat) :
    Nat → Option (Nat × Nat × Nat × List Nat)
  | 0 => none
  | n + 1 =>
    let (x0, y0, nx, ny) := p.quadBox area
    if nx * ny ≤ cursor then none
    else
      let x := 2 * (x0 + cursor % nx)
      let y := 2 * (y0 + cursor / nx)
      let cover := p.quadCover samples area x y
      if pixelColumn x y = col && cover.any (· ≠ 0) then some (cursor, x, y, cover)
      else p.nextQuad col samples area (cursor + 1) n

/-- A pixel team of a draw (R260, R262). -/
def Launch.pixelTeam (l : Launch) (id : Nat) (r : Reserve) : Team :=
  { l.team id r 0 with
    kind := .pixel, size := l.pteam, shape := (1, 1, 1), grid := (2 ^ 32 - 1, 2 ^ 32 - 1, 2 ^ 32 - 1)
    extent := (2 ^ 32 - 1, 2 ^ 32 - 1, 2 ^ 32 - 1), barriers := List.replicate 16 ⟨0, 0, 0, false⟩
    queues := List.replicate 16 none, scratchSize := 4096 * l.pscr, item := 0, itemEnd := 0, accTiles := 0 }

/-- A team of the draw in a column that can take another quad. -/
def State.quadTeam (s : State) (l : Launch) (col : Nat) : Option Team :=
  s.teams.find? fun t => t.launch = l.id && t.kind = .pixel && t.col = col && decide (t.started + 4 ≤ t.size) && t.marked.isNone

/-- The places of a column in order: cores, then masks of pens. -/
def placesOf (col : Nat) : List Reserve :=
  (List.range 128).flatMap fun k => ((List.range 15).map (· + 1)).map fun m => (⟨col, k, m⟩ : Reserve)

/-- The lane of the thread at a place of a team's next quad (R29). -/
def Team.quadLane (t : Team) (i : Nat) : Nat := t.lanes.getD ((t.started + i) % t.lanes.length) 0

/-- Every lane of the team's next quad has a slot, and its pool the blocks, that the team was granted (R15, R337). -/
def State.quadRoom (s : State) (l : Launch) (t : Team) : Bool :=
  (List.range 4).all fun i =>
    (s.lowestSlot t.col t.core (t.quadLane i)).isSome && decide (l.pregs ≤ s.pool t.col t.core (t.quadLane i) + s.blocksHeld t.col t.core (t.quadLane i))

/-- The threads of a quad start (R260): `ks` are the tickets of its pixels, none for a helper. -/
def State.startQuad (s : State) (l : Launch) (t : Team) (p : Primitive) (x y : Nat) (cover : List Nat) (ks : List (Option Nat)) : State :=
  let front := decide (0 < p.area)
  let q := p.turned
  let (quadId, s) := s.newId
  State.useWindows (team := t.id) <| (quadPixels x y).zipIdx.foldl (fun s px =>
    let i := px.2
    let lane := t.quadLane i
    match s.lowestSlot t.col t.core lane with
    | none => s
    | some slot =>
      let (id, s) := s.newId
      let c := pointAt px.1.1 px.1.2 (8, 8)
      let th := t.newThread s.now id lane slot .pixel l.pregs l.pentry
      let th : Thread := { th with
        tid := BitVec.ofNat 32 (t.started + i), quad := some i, quadId := quadId, helper := (ks.getD i none).isNone
        px := BitVec.ofNat 32 px.1.1, py := BitVec.ofNat 32 px.1.2, prim := BitVec.ofNat 32 (p.seq % 2 ^ 24)
        seq := BitVec.ofNat 32 (p.seq / 2 ^ 24), ticket := ks.getD i none }
      let words : List Word := [q.depthAt c.1 c.2, BitVec.ofNat 32 (cover.getD i 0), if front then 1 else 0] ++
        (List.range p.nattr).map fun k => q.attrAt k c.1 c.2
      { s with threads := s.threads ++ [th.setRegs 0 words] }) s

/-- Tickets for the covered pixels of a quad (R260): the state and the tickets' numbers. -/
def State.issueTickets (s : State) (l : Launch) (p : Primitive) (x y samples : Nat) (cover : List Nat) : State × List (Option Nat) :=
  let q := p.turned
  ((quadPixels x y).zip cover).foldl (fun (acc : State × List (Option Nat)) px =>
    if px.2 = 0 then (acc.1, acc.2 ++ [none])
    else
      let (id, s) := acc.1.newId
      let t : Ticket :=
        { id := id, launch := l.id, queue := l.q, col := pixelColumn x y, x := px.1.1, y := px.1.2, seq := p.seq
          cover := px.2, depths := (samplePositions samples).map fun o => q.depthAt (pointAt px.1.1 px.1.2 o).1 (pointAt px.1.1 px.1.2 o).2
          outs := [], depth := none, left := false, state := .waiting }
      ({ s with raster := { s.raster with tickets := s.raster.tickets ++ [t] } }, acc.2 ++ [some id])) (s, [])

/-- The least primitive at the heads of a column's queues for a work queue (R257). -/
def State.leastHead (s : State) (col queue : Nat) : Option Inbound :=
  (s.raster.inbound.filter fun b => b.col = col && b.queue = queue && !b.prims.isEmpty).foldl (fun best b =>
    match best with
    | none => some b
    | some a =>
      if seqLess ((b.prims.head?.map Primitive.seq).getD 0) ((a.prims.head?.map Primitive.seq).getD 0) then some b else some a) none

/-- The rasterizer of a column may still start a quad of a draw in a team that is there (R260, R262); it starts none of a context that may
not run, such as one of a function that is being switched out (R383, R384, notes/assumptions/79.md). -/
def State.moreQuads (s : State) (l : Launch) (col : Nat) : Bool :=
  s.mayRun l.ctx && ((decide (l.next < l.total) && !l.terminated) || (s.raster.setups.any (·.launch = l.id)) ||
    s.raster.inbound.any fun b => b.col = col && b.prims.any (·.launch = l.id))

/-! ## Retirement (R263 to R266) -/

/-- Fields of DS and of a BLEND word (R255). -/
def Launch.ds (l : Launch) (i n : Nat) : Nat := field l.pipe (192 + i) n

/-- Fields of the blend word of a target. -/
def Launch.blend (l : Launch) (t i n : Nat) : Nat := field l.pipe (256 + 64 * t + i) n

/-- EARLY. -/
def Launch.early (l : Launch) : Bool := field l.pipe 131 1 = 1 && l.ds 0 1 = 1

/-- A compare of R255: the fragment's value against the stored one, as a condition of R99. -/
def compareCode (code : Nat) (lt eq gt : Bool) : Bool :=
  match code with
  | 0 => false
  | 1 => lt
  | 2 => eq
  | 3 => lt || eq
  | 4 => gt
  | 5 => !eq
  | 6 => gt || eq
  | _ => true

/-- The depth compare. -/
def depthCompare (code : Nat) (frag stored : Word) : Bool :=
  let a := unpack .f32 frag.toNat
  let b := unpack .f32 stored.toNat
  compareCode code (floatCond 2 a b) (floatCond 0 a b) (floatCond 4 a b)

/-- A stencil operation (R255). -/
def stencilOp (op sref v : Nat) : Nat :=
  match op with
  | 0 => v
  | 1 => 0
  | 2 => sref
  | 3 => min 255 (v + 1)
  | 4 => v - 1
  | 5 => 255 - v
  | 6 => (v + 1) % 256
  | _ => (v + 255) % 256

/-- Factor of a blend for channel `c` (R255, R265). -/
def blendFactor (code c : Nat) (src dst con : List XQ) : XQ :=
  let g (v : List XQ) (i : Nat) : XQ := v.getD i (.of 0)
  let inv (x : XQ) : XQ := (XQ.of 1).add x.neg
  match code with
  | 0 => .of 0
  | 1 => .of 1
  | 2 => g src c
  | 3 => inv (g src c)
  | 4 => g src 3
  | 5 => inv (g src 3)
  | 6 => g dst c
  | 7 => inv (g dst c)
  | 8 => g dst 3
  | 9 => inv (g dst 3)
  | 10 => g con c
  | _ => inv (g con c)

/-- The blended value of a channel (R265). -/
def blendChannel (op sf df c : Nat) (src dst con : List XQ) : XQ :=
  let a := src.getD c (.of 0)
  let b := dst.getD c (.of 0)
  let x := a.mul (blendFactor sf c src dst con)
  let y := b.mul (blendFactor df c src dst con)
  match op with
  | 0 => x.add y
  | 1 => x.add y.neg
  | 2 => y.add x.neg
  | 3 => XQ.pick false a b
  | _ => XQ.pick true a b

/-- The four channels of a stored texel, widened exactly; those it lacks read 0, and 1 for channel 3 (R172, R265). -/
def widened (fmt : Nat) (bytes : List Byte) : List XQ :=
  let vs := List.zipWith Chan.value (channels fmt) (splitCodes (channels fmt) bytes)
  (List.range 4).map fun i => (vs[i]?).getD (.of (if i = 3 then 1 else 0))

/-- The texel bytes after `write(t, s)` of R265. -/
def Launch.written (l : Launch) (t fmt : Nat) (src : List Word) (bytes : List Byte) : List Byte :=
  let cs := channels fmt
  let old := splitCodes cs bytes
  let plain := isIntFmt fmt || l.blend t 0 1 = 0
  let sx := src.map xq32
  let dx := widened fmt bytes
  let con := (List.range 4).map fun c => xq32 (BitVec.ofNat 32 (field l.pipe (768 + 32 * c) 32))
  let codes := cs.zipIdx.map fun k =>
    let c := k.2
    if l.blend t (32 + c) 1 = 0 then old.getD c 0
    else if plain then k.1.store false (src.getD c 0)
    else
      let x := if c = 3 then blendChannel (l.blend t 29 3) (l.blend t 25 4) (l.blend t 21 4) c sx dx con
        else blendChannel (l.blend t 18 3) (l.blend t 14 4) (l.blend t 10 4) c sx dx con
      k.1.storeValue false x
  ((cs.zip codes).flatMap fun k => leBytes k.1.size k.2) ++ bytes.drop ((cs.map Chan.size).sum)

/-- The bytes of a sample within the surface are written; one that its new entry no longer has is not (R249). -/
def Surface.put (f : Surface) (x y layer sample : Nat) (b : List Byte) : Surface :=
  if f.inside x y layer sample then f.write (f.place x y layer sample) b else f

/-- The bytes of a sample; one that the surface's new entry no longer has reads zero (R249). -/
def Surface.get (f : Surface) (x y layer sample : Nat) : List Byte :=
  if f.inside x y layer sample then f.texel x y layer sample else List.replicate f.tb 0

/-- The sample lies in the surface and is marked. -/
def Surface.spoiled (f : Surface) (x y layer sample : Nat) : Bool := f.inside x y layer sample && f.marked x y layer sample

/-- A fragment fails: a record of kind 2 that names a surface, and its launch fails (R253, R263, R412). -/
def State.recordFragment (s : State) (l : Launch) (handle : DWord) (col x y : Nat) : State :=
  (s.record { s.ofLaunch l.id { ctx := l.ctx, col := col, kind := 2, addr := handle } with
    item := x % 65536 + y % 65536 * 65536 }).failLaunch l.id

/-- The depth surface of a draw, when it is bound, and whether it is in use: once its entry has gone, or is no longer one of a depth format,
the draw's fragments use the old entry, whose texels are freed and read zero, and write nothing there (R249). -/
def State.depthSurface (s : State) (l : Launch) : Option (Surface × Bool) :=
  if l.depth = 0xFFFFFFFF then none
  else match (s.surface? l.ctx l.depth).filter fun f => isDepthFmt f.fmt with
    | some f => some (f, true)
    | none => (l.entries.getLast?).map fun e =>
      ({ ctx := l.ctx, index := l.depth, entry := e, texels := [], poison := [], spilled := [], used := [] }, false)

/-- The colour surface of a target, when it is bound and in use as one; the old entry's texels are gone with it (R249). -/
def State.targetSurface (s : State) (l : Launch) (t : Nat) : Option Surface :=
  if l.target_ t = 0xFFFFFFFF then none else (s.surface? l.ctx (l.target_ t)).filter fun f => !isDepthFmt f.fmt

/-- The targets that a passing sample writes, with their values. -/
def State.outsOf (s : State) (l : Launch) (tk : Ticket) : List (Nat × Surface × List Word) :=
  (List.range 8).filterMap fun t =>
    match s.targetSurface l t, tk.outs.find? (·.1 = t) with
    | some f, some o => some (t, f, o.2)
    | _, _ => none

/-- The tests of a sample (R264): stencil passes, depth passes, and the new stencil. -/
def Launch.tests (l : Launch) (fmt : Nat) (zf : Word) (bytes : List Byte) : Bool × Bool × Nat :=
  let sten := ((bytes.getD 4 0).toNat)
  let sref := l.ds 56 8
  let sen := l.ds 27 1 = 1 && fmt = 0x11
  let a := sref &&& l.ds 48 8
  let b := sten &&& l.ds 48 8
  let sp := !sen || compareCode (l.ds 28 3) (decide (a < b)) (decide (a = b)) (decide (b < a))
  let dp := l.ds 0 1 = 0 || depthCompare (l.ds 2 3) zf (BitVec.ofNat 32 (leNat (bytes.take 4)))
  let op := if !sp then l.ds 31 3 else if !dp then l.ds 34 3 else l.ds 37 3
  let m := l.ds 40 8
  let new := if sen then (sten &&& (255 - m)) ||| (stencilOp op sref sten &&& m) else sten
  (sp, dp, new)

/-- The nib unit's work on one covered sample, and the surface whose marked texel failed it (R253, R264, R265). -/
def State.nibSample (s : State) (l : Launch) (tk : Ticket) (q : Nat) : State × Option Nat :=
  let x := tk.x
  let y := tk.y
  let lay := l.layer
  let z := tk.depths.getD q 0
  let zf := if l.early then z else tk.depth.getD z
  let spoiled := (s.outsOf l tk).find? fun o =>
    !isIntFmt o.2.1.fmt && l.blend o.1 0 1 = 1 && l.blend o.1 32 4 ≠ 0 && o.2.1.spoiled x y lay q
  let paint (s : State) : State :=
    (List.range 8).foldl (fun s t =>
      match s.targetSurface l t, tk.outs.find? (·.1 = t) with
      | some f, some o => s.setSurface (f.put x y lay q (l.written t f.fmt o.2 (f.get x y lay q)))
      | _, _ => s) s
  match s.depthSurface l with
  | none => match spoiled with | some o => (s, some o.2.1.index) | none => (paint s, none)
  | some (f, used) =>
    if (l.ds 0 1 = 1 || (l.ds 27 1 = 1 && f.fmt = 0x11)) && f.spoiled x y lay q then (s, some f.index)
    else
      let b := f.get x y lay q
      let (sp, dp, st) := l.tests f.fmt zf b
      let pass := sp && dp
      match pass, spoiled with
      | true, some o => (s, some o.2.1.index)
      | _, _ =>
        let b := if f.fmt = 0x11 then patch b 4 [BitVec.ofNat 8 st] else b
        let b := if pass && l.ds 0 1 = 1 && l.ds 1 1 = 1 then patch b 0 (leBytes 4 zf.toNat) else b
        let s := if used then s.setSurface (f.put x y lay q b) else s
        (if pass then paint s else s, none)

/-- The nib unit's work on a fragment: its covered samples in order; a fragment with failed samples is recorded once, with the surface
of the first (R253, R264, R265). -/
def State.nibFragment (s : State) (l : Launch) (tk : Ticket) : State :=
  let r := ((List.range 8).filter (tk.cover.testBit ·)).foldl (fun (a : State × Option Nat) q =>
    let b := a.1.nibSample l tk q
    (b.1, a.2.or b.2)) (s, none)
  match r.2 with
  | some f => r.1.recordFragment l (BitVec.ofNat 64 f) tk.col tk.x tk.y
  | none => r.1

/-- The tiles that a ticket's retirement needs are resident. -/
def State.tilesReady (s : State) (l : Launch) (tk : Ticket) : Bool :=
  (s.boundSurfaces l).all fun f => !(f.inside tk.x tk.y l.layer 0 && f.waits (f.tileOf tk.x tk.y l.layer))

/-- Using the tiles that a ticket's retirement touches. -/
def State.useTiles (s : State) (l : Launch) (tk : Ticket) : State :=
  (s.boundSurfaces l).foldl (fun s f =>
    match s.surface? l.ctx f.index with
    | some g => if g.inside tk.x tk.y l.layer 0 then s.setSurface (g.use (g.tileOf tk.x tk.y l.layer) s.now) else s
    | none => s) s

/-- NIB_UNIT_ACT: the nib unit acts on a retired ticket once every lower ticket of the pixel has been acted on and its thread has left
its ordered region (R183, R263 to R265). -/
def execNibUnitAct (ticket : Nat) (s : State) : Host.Outcome State Fault Refusal :=
  .next <| match s.raster.tickets.find? (·.id = ticket) with
  | none => s
  | some tk =>
    match s.launch? tk.launch with
    | none => s
    | some l =>
      if tk.state = .waiting || (s.raster.tickets.any fun u => u.below tk) || s.recordsFull tk.col ||
          s.threads.any (fun th => th.ordered && th.ticket = some tk.id) then s
      else if tk.state = .retired && !s.tilesReady l tk then s
      else
        let s := if tk.state = .retired then (s.useTiles l tk).nibFragment l tk else s
        { s.count tk.col 0x060 (some l.ctx) 1 with
          raster := { s.raster with tickets := s.raster.tickets.filter (·.id ≠ ticket) } }

/-- DRAW_COMPLETION: teams retired, primitives rasterized, tickets acted on; a release at PACKAGE scope (R268). Its reserve is released, and
bins that wait for slots take what comes free (R217, R258). -/
def execDrawCompletion (launch : Nat) (s : State) : Host.Outcome State Fault Refusal :=
  .next <| match s.launch? launch with
  | none => s
  | some l =>
    if l.kind = 2 && !l.done && (l.terminated || l.next = l.total) &&
        (s.teams.all fun t => t.launch ≠ launch) && (s.sched.saved.all fun t => t.team.launch ≠ launch) &&
        (s.raster.setups.all fun u => u.launch ≠ launch) &&
        (s.raster.inbound.all fun b => b.prims.all fun p => p.launch ≠ launch) &&
        (s.raster.tickets.all fun t => t.launch ≠ launch) then
      let s := ((List.range 32).foldl (fun s c => s.countRelease c l.ctx) s).setLaunch { l with done := true, reserved := [] }
      l.reserved.foldl (fun s r => s.releaseWaiting r.col r.core) s
    else s

end Sys2Proof.Machine
end

