-- ==== Sys2Proof/Machine/Engine.lean ====
section
/-! DEFINITION. What the engine operations share (R169, R194, R241, R285): descriptors read at issue, range locks, sources read
while an operation runs, completion and failure. -/

namespace Sys2Proof.Machine

/-! ## Descriptors and addresses at issue -/

/-- Reading 64 bytes at an aligned address for the issuing thread before the word takes effect: a fault, a wait for the page,
or the bytes (R121, R122, R169). -/
def State.readAtIssue (s : State) (c : Issue) (th : Thread) (h : Head) (va : DWord) (k : State → List Byte → State) : State :=
  if s.mustFollow th.id ⟨.load 64 false [] 0, va, 0⟩ then s.setThread (th.stall c h s.now)
  else match s.lookup th.actor va 64 64 false false with
  | .fault cause a => s.raise c th cause 0 a
  | .page f => s.waitPage c th h va 0 1 f
  | .scratch =>
    match s.team? th.team with
    | none => s.raise c th 0x07 0 va
    | some t =>
      let off := va.toNat - windowBase
      if t.scratchPoison.any fun p => p * 32 < off + 64 && off < p * 32 + 32 then s.raise c th 0x0F 0 va
      else k s (readBytes t.scratch off 64)
  | .leaf l =>
    match s.entryCheck th.actor va l false false false with
    | (some cause, s) => s.raise c th cause 0 va
    | (none, s) =>
      if s.readMarked th.actor l 64 {} || (l.cls = 1 && s.lostAt th.ctx l.va 64) || !s.served l.pa then s.raise c th 0x0F 0 va
      else
        let s := if l.cls = 1 then s.touchReplica th.actor va.toNat else s
        let (b, s) := s.readLine th.actor l 64 {}
        k s b

/-- Bytes as a little-endian 512-bit value. -/
def desc512 (b : List Byte) : BitVec 512 := BitVec.ofNat 512 (leNat b)

/-- The address rules for a range an engine will touch: canonical, within the scratchpad allocation, aligned (R120, R121). -/
def State.engineAddr (s : State) (a : Actor) (va : DWord) (n align : Nat) : Option (Nat × DWord) :=
  let v := va.toNat
  let size := match s.team? a.team with | some t => t.scratchSize | none => 0
  if !canonical va then some (0x07, va)
  else if inWindow v && windowBase + size < v + n then some (0x07, BitVec.ofNat 64 (max v (windowBase + size)))
  else if v % align ≠ 0 then some (0x06, va)
  else none

/-! ## Range locks (R169, R241) -/

/-- A range an operation wants to lock. -/
structure Want where
  space : Space
  lo : Nat
  hi : Nat
  write : Bool
  deriving DecidableEq, Repr

/-- A range of virtual memory or scratchpad as a range to lock. -/
def wantMem (va n : Nat) (write : Bool) : Want := ⟨(lockPlace va).1, (lockPlace va).2, (lockPlace va).2 + n, write⟩

/-- The part of a virtual range from its first to its last page that is no sealed ink; none when every page is. -/
def State.unsealed (s : State) (ctx va n : Nat) : Option (Nat × Nat) :=
  let ps := (pageNumbers va n).filter fun p =>
    !(match s.translate ctx (p * 65536) with
      | .ok l => l.cls = 1 && (match s.inkAt ctx (p * 65536) with | some r => r.rstate = 1 | none => false)
      | .error _ => false)
  match ps.head?, ps.getLast? with
  | some a, some b => some (max va (a * 65536), min (va + n) ((b + 1) * 65536))
  | _, _ => none

/-- The lock of a source range: sealed ink takes none (R169). -/
def State.readWant (s : State) (ctx va n : Nat) : List Want :=
  if inWindow va then [wantMem va n false]
  else match s.unsealed ctx va n with
  | some (lo, hi) => [wantMem lo (hi - lo) false]
  | none => []

/-- The core's table has room for the ranges, and none conflicts with a lock of an earlier operation of the team (R169, R241). -/
def State.locksFree (s : State) (th : Thread) (ws : List Want) : Bool :=
  decide ((s.locks.filter fun l => l.col = th.col && l.core = th.core).length + ws.length ≤ 64) &&
    ws.all fun w => !s.lockConflict th.team w.space w.lo (w.hi - w.lo) w.write

/-- Registering the ranges for an operation. -/
def State.takeLocks (s : State) (th : Thread) (owner : Nat) (ws : List Want) : State :=
  { s with locks := s.locks ++ ws.map fun (w : Want) => ⟨th.col, th.core, th.team, owner, w.space, w.lo, w.hi, w.write⟩ }

/-- Releasing an operation's locks. -/
def State.freeLocks (s : State) (owner : Nat) : State := { s with locks := s.locks.filter (·.owner ≠ owner) }

/-! ## Issue and completion -/

/-- The widest scope among the pages of a virtual range. -/
def State.rangeShare (s : State) (ctx va n : Nat) : Nat :=
  ((pageNumbers va n).map fun p => s.shareAt ctx (BitVec.ofNat 64 (p * 65536))).foldl max 0

/-- A release at the scope of a source or destination range (R169, R241). -/
def State.releaseAt (s : State) (col ctx va n : Nat) : State := s.release col ctx (s.rangeShare ctx va n)

/-- What a unit of a column has read within one page leaves behind, line by line: the access counts at the L2 and warms its page, and a line
that another column owns has been recalled (R234, R235, R353, R416). -/
def State.noteLines (s : State) (a : Actor) (l : Leaf) (n : Nat) : State :=
  (List.range ((l.pa + n + 127) / 128 - l.pa / 128)).foldl (fun t i =>
    let line := l.pa / 128 + i
    let t := t.touchL2 a l (t.copy? a.col line).isSome
    t.recallFor a.col (line * 128) 128) s

/-- A walk reads its table entries at their homes: lines of them that a column owns are recalled (R234, R343). -/
def State.noteWalk (s : State) (ctx va : Nat) : State :=
  if inWindow va then s
  else (s.walkLines (va % 2 ^ 57) (s.context ctx).ptRoot 5).foldl (fun t line => t.recall t.nextId line) s

/-- What a unit of a column leaves behind by reading a virtual range for a context; a replica that holds some of it has been used (R367). -/
def State.noteRead (s : State) (ctx col va n : Nat) : State :=
  let a : Actor := ⟨s.nextId, 0, ctx, col, 0, 0, none⟩
  (pageNumbers va n).foldl (fun t p =>
    let lo := max va (p * 65536)
    let hi := min (va + n) ((p + 1) * 65536)
    let t := t.noteWalk ctx lo
    match t.translate ctx lo with
    | .ok l => (if l.cls = 1 then t.touchReplica a lo else t).noteLines a l (hi - lo)
    | .error _ => t) s

/-- A new engine operation of the thread's team, with its locks. -/
def State.startEngine (s : State) (th : Thread) (at_ : DWord) (bar : Option Nat) (e : Engine) (ws : List Want) : State :=
  let (id, s) := s.newId
  let launch := ((s.team? th.team).map Team.launch).getD 0
  let op : EngOp :=
    { id := id, team := th.team, launch := launch, ctx := th.ctx, col := th.col, core := th.core, bar := bar, at_ := at_
      engine := e, issued := s.now, token := none, dead := none, lost := false }
  ({ s with engines := { s.engines with ops := s.engines.ops ++ [op] } }).takeLocks th id ws

/-- The operation of that number. -/
def State.engOp? (s : State) (id : Nat) : Option EngOp := s.engines.ops.find? (·.id = id)

/-- Replacing an operation by its new record. -/
def State.setEngOp (s : State) (e : EngOp) : State :=
  { s with engines := { s.engines with ops := s.engines.ops.map fun p => if p.id = e.id then e else p } }

/-- The operation acts on accumulator tiles. -/
def Engine.isAcc : Engine → Bool
  | .copy _ => false
  | _ => true

/-- Setting words of a team's accumulator tiles from an element on; marks go (R194, R405). -/
def State.setAcc (s : State) (team first : Nat) (ws : List Word) : State :=
  match s.team? team with
  | none => s
  | some t => s.setTeam { t with
      acc := ws.zipIdx.foldl (fun m w => cellWrite (first + w.2) w.1 m) t.acc
      accPoison := t.accPoison.filter fun k => !(first ≤ k && k < first + ws.length) }

/-- The first operation of a team's accumulator instructions (R194). -/
def State.accHead (s : State) (team : Nat) : Option EngOp := s.engines.ops.find? fun e => e.team = team && e.engine.isAcc

/-- `accz` operations at the head of a team's order take effect (R194, R195); `n` bounds them. -/
def State.settleAcc (s : State) (team : Nat) : Nat → State
  | 0 => s
  | n + 1 =>
    match s.accHead team with
    | some e =>
      match e.engine with
      | .accz first count =>
        let s := { s with engines := { s.engines with ops := s.engines.ops.filter (·.id ≠ e.id) } }
        (s.setAcc team (256 * first) (List.replicate (256 * count) 0)).settleAcc team n
      | _ => s
    | none => s

/-- A saved team that has nothing left, neither a thread nor a copy, retires from its image (R382). -/
def State.retireSaved (s : State) (team : Nat) : State :=
  if s.engines.ops.any (·.team = team) || !s.sched.saved.any fun v => v.team.id = team && v.threads.isEmpty then s
  else
    { s with
      sched := { s.sched with saved := s.sched.saved.filter (·.team.id ≠ team) }
      locks := s.locks.filter (·.team ≠ team)
      raster := { s.raster with setups := s.raster.setups.map fun (u : Setup) => if u.team = team then { u with closed := true } else u } }

/-- An operation leaves: its locks go, and it arrives on its barrier, with ERR when it failed (R169). -/
def State.dropEngine (s : State) (e : EngOp) (failed : Bool) : State :=
  let s := (({ s with engines := { s.engines with ops := s.engines.ops.filter (·.id ≠ e.id) } }).freeLocks e.id).retireSaved e.team
  match e.bar with
  | none => s
  | some b => s.onBarrier e.team b fun q => Barrier.arrive { q with err := q.err || failed } 1

/-- The end of an operation; operations behind it may follow (R169). -/
def State.endEngine (s : State) (e : EngOp) (failed : Bool) : State :=
  let s := s.dropEngine e failed
  (s.settleAcc e.team s.engines.ops.length).checkTeam e.team

/-- The record of a failed operation; its item code, when the spec states none, is a free value (R412). -/
def State.recordEngine (s : State) (e : EngOp) (code : Option Nat) : State :=
  let (item, s) := match code with
    | some k => (k, s)
    | none => let (v, s) := s.free; (v.toNat % 2 ^ 32, s)
  (s.record (s.ofLaunch e.launch { ctx := e.ctx, col := e.col, core := e.core, kind := 3, addr := e.at_, item := item })).failLaunch e.launch

/-! ## Sources while an operation runs (R285) -/

/-- Why a range cannot be read or written now: a page without a valid leaf, a tile that is spilled, or a failure with its item
code (R412). -/
inductive Trouble where
  | page (va : DWord) (write : Bool) (f : WalkFail)
  | tile
  | fail (code : Option Nat)
  deriving DecidableEq, Repr

/-- The engine agent of an operation. -/
def EngOp.actor (e : EngOp) : Actor := ⟨0, e.team, e.ctx, e.col, e.core, 0, some (e.launch, 0, 0)⟩

/-- The copy of a line that a unit of the column reads and that its writes go to: an owned or a MANAGED one (R234, R238). -/
def State.columnCopy (s : State) (col line : Nat) : Option LineCopy := (s.copy? col line).filter fun c => c.owned || c.managed

/-- The bytes of a range within one page as the column sees them: its own owned or MANAGED copy of a line, else the home's. -/
def State.columnRead (s : State) (col pa n : Nat) : List Byte :=
  (List.range n).map fun i =>
    match s.columnCopy col ((pa + i) / 128) with
    | some c => c.bytes.getD ((pa + i) % 128) 0
    | none => (s.peek (pa + i) 1).headD 0

/-- A sector of a range is marked as the column sees it (R405). -/
def State.columnMarked (s : State) (col pa n : Nat) : Bool :=
  (sectorsOf pa n).any fun k =>
    match s.columnCopy col (k / 4) with
    | some c => c.poison.testBit (k % 4)
    | none => s.poisoned (k * 32) 32

/-- Every part of a range within one page has an answer; a request of a unit is otherwise ended without one (R389, R390, R392,
notes/assumptions/75.md). -/
def State.servedRange (s : State) (pa n : Nat) : Bool :=
  (List.range ((pa + n + 4095) / 4096 - pa / 4096)).all fun i => s.served ((pa / 4096 + i) * 4096)

/-- A range within one page cannot be read good by a unit of the column: a mark, bytes of ink that were lost, or no answer (R362, R390,
R405). -/
def State.unreadable (s : State) (a : Actor) (l : Leaf) (n : Nat) : Bool :=
  s.columnMarked a.col l.pa n || (l.cls = 1 && s.lostAt a.ctx l.va n) || !s.servedRange l.pa n

/-- Bytes of a team's scratchpad allocation. -/
def State.scratchRead (s : State) (team va n : Nat) : Except Trouble (List Byte) :=
  match s.team? team with
  | none => .error (.fail (some 1))
  | some t =>
    let off := va - windowBase
    if t.scratchSize < off + n then .error (.fail (some 1))
    else if t.scratchPoison.any fun p => p * 32 < off + n && off < p * 32 + 32 then .error (.fail (some 2))
    else .ok (readBytes t.scratch off n)

/-- The page lies in a sealed region of ink (R285). -/
def State.sealedInk (s : State) (ctx va : Nat) (l : Leaf) : Bool :=
  l.cls = 1 && (match s.inkAt ctx va with | some r => r.rstate = 1 | none => false)

/-- Bytes of a virtual range for an engine: `ink` asks for sealed ink pages. `k` bounds the pages. -/
def State.engineRead (s : State) (a : Actor) (ink : Bool) : Nat → Nat → Nat → Except Trouble (List Byte)
  | 0, _, _ => .ok []
  | k + 1, va, n =>
    if n = 0 then .ok []
    else if !canonical (BitVec.ofNat 64 va) then .error (.fail (some 1))
    else if inWindow va then (if ink then .error (.fail (some 1)) else s.scratchRead a.team va n)
    else
      let m := min n (65536 - va % 65536)
      match s.translate a.ctx va with
      | .error f => .error (.page (BitVec.ofNat 64 va) false f)
      | .ok l =>
        if l.share = 0 && l.owner ≠ a.col then .error (.fail (some 1))
        else if ink && !s.sealedInk a.ctx va l then .error (.fail (some 7))
        else if s.unreadable a l m && !s.unused l then .error (.fail (some 2))
        else do
          let rest ← s.engineRead a ink k (va + m) (n - m)
          .ok ((if s.unused l then List.replicate m 0 else s.columnRead a.col l.pa m) ++ rest)

/-- Pages that a range may touch. -/
def pagesOf (n : Nat) : Nat := n / 65536 + 2

/-- A range of a context's weight-store region in a column (R276). -/
def State.weightRead (s : State) (ctx col off n : Nat) : Except Trouble (List Byte) :=
  let d := (s.context ctx).desc
  if field d 580 12 * 65536 < off + n then .error (.fail (some 6))
  else
    let base := field d 592 12 * 65536 + off
    match s.regs.weights.find? (·.col = col) with
    | none => .ok (List.replicate n 0)
    | some w =>
      if w.poison.any fun p => p * 32 < base + n && base < p * 32 + 32 then .error (.fail (some 2))
      else .ok (readBytes w.bytes base n)

/-- Where a byte of a tensor view lies (R251). -/
inductive ViewByte where
  | outside
  | padding
  | texel (place tile : Nat)
  deriving DecidableEq, Repr

/-- The byte at an offset of a tensor view (R251). -/
def Surface.viewByte (f : Surface) (o : Nat) : ViewByte :=
  let plane := f.height * f.tvstride
  let l := o / plane
  let y := o % plane / f.tvstride
  let b := o % f.tvstride
  if f.tvstride = 0 || f.layers ≤ l then .outside
  else if f.width * f.tb ≤ b then .padding
  else .texel (f.place (b / f.tb) y l 0 + b % f.tb) (f.tileOf (b / f.tb) y l)

/-- Bytes of a tensor view whose element format must be `fmt` (R251, R285). -/
def State.viewRead (s : State) (ctx handle fmt off n : Nat) : Except Trouble (List Byte) :=
  match s.surface? ctx handle with
  | none => .error (.fail (some 3))
  | some f =>
    let bs := (List.range n).map fun i => f.viewByte (off + i)
    if f.tvfmt ≠ fmt || bs.contains .outside then .error (.fail (some 3))
    else if bs.any fun b => match b with | .texel _ t => f.waits t | _ => false then .error .tile
    else if bs.any fun b => match b with | .texel p _ => f.poison.contains (p / 32) | _ => false then .error (.fail (some 2))
    else .ok (bs.map fun b => match b with | .texel p _ => cellRead p f.texels | _ => 0)

/-- The tiles that hold bytes of a range of a tensor view are used now (R252). -/
def State.touchView (s : State) (ctx handle off n : Nat) : State :=
  match s.surface? ctx handle with
  | none => s
  | some f =>
    s.touchTiles ctx handle ((List.range n).filterMap fun i => match f.viewByte (off + i) with | .texel _ t => some t | _ => none).eraseDups

/-! ## Destinations -/

/-- A destination range can be written: every page translates, with W, in a class of the list, and has an answer; `k` bounds the pages. The
record of a write that has none gives an item that the spec does not state (R390, notes/assumptions/6.md). -/
def State.writeTrouble (s : State) (a : Actor) (classes : List Nat) (bad : Nat) : Nat → Nat → Nat → Option Trouble
  | 0, _, _ => none
  | k + 1, va, n =>
    if n = 0 then none
    else if !canonical (BitVec.ofNat 64 va) then some (.fail (some 5))
    else if inWindow va then
      (if (match s.team? a.team with | some t => t.scratchSize | none => 0) < va - windowBase + n then some (.fail (some 5)) else none)
    else
      let m := min n (65536 - va % 65536)
      match s.translate a.ctx va with
      | .error f => some (.page (BitVec.ofNat 64 va) true f)
      | .ok l =>
        if l.share = 0 && l.owner ≠ a.col then some (.fail (some 5))
        else if !classes.contains l.cls then some (.fail (some bad))
        else if !l.w then some (.page (BitVec.ofNat 64 va) true ⟨if l.size = 2 ^ 30 then 2 else if l.size = 2 ^ 21 then 1 else 0, 3⟩)
        else if !s.servedRange l.pa m then some (.fail none)
        else s.writeTrouble a classes bad k (va + m) (n - m)

/-- Writing a range line by line, in scratchpad or memory (R234, R241); `k` bounds the lines. Of the writes to memory only those of
`st`, `atom` and `cas` clear reduction tags (R137; notes/assumptions/48.md). -/
def State.engineWrite (s : State) (a : Actor) : Nat → Nat → List Byte → State
  | 0, _, _ => s
  | k + 1, va, bytes =>
    if bytes.isEmpty then s
    else
      let m := 128 - va % 128
      let b := bytes.take m
      let s :=
        if inWindow va then
          match s.team? a.team with
          | none => s
          | some t =>
            let off := va - windowBase
            s.setTeam { t with
              scratch := writeBytes t.scratch off b
              scratchPoison := t.scratchPoison.filter fun p => !(off ≤ p * 32 && p * 32 + 32 ≤ off + b.length) }
        else match s.translate a.ctx va with
          | .ok l => (s.freshResult a.ctx l).writeLine a l b
          | .error _ => s
      s.engineWrite a k (va + m) (bytes.drop m)

/-- Marking the sectors of a destination address, in the copy that the write went to (R405). -/
def State.markAt (s : State) (a : Actor) (va n : Nat) : State :=
  if inWindow va then
    match s.team? a.team with
    | none => s
    | some t => s.setTeam { t with scratchPoison := (va - windowBase) / 32 :: t.scratchPoison }
  else match s.translate a.ctx va with
    | .ok l => (sectorsOf l.pa n).foldl (fun t k => t.markSector ((t.columnCopy a.col (k / 4)).orElse fun _ => t.owner? (k / 4)) k) s
    | .error _ => s

/-- The outcome of running an operation. -/
inductive Run where
  | done (s : State)
  | wait (va : DWord) (write : Bool) (f : WalkFail)
  | hold
  | failed (code : Option Nat)
  deriving DecidableEq, Repr

/-- Trouble as an outcome. -/
def Trouble.run : Trouble → Run
  | .page va w f => .wait va w f
  | .tile => .hold
  | .fail c => .failed c

/-- An operation meets a page without a valid leaf: it waits for the record's answer, of KIND 4 or 5 (R352, R432). -/
def State.engineFault (s : State) (e : EngOp) (va : DWord) (write : Bool) (f : WalkFail) : State :=
  let (k, s) := s.pageFault e.ctx e.col 0x7F va (if write then 5 else 4) f
  s.setEngOp { e with token := some k }

end Sys2Proof.Machine
end

