-- ==== Sys2Proof/Machine/Matrix.lean ====
section
/-! DEFINITION. Matrix operations (R153, R154, R193 to R197, R282 to R288, R408 to R410): descriptors, convergence registers,
the accumulator tiles, self-test, hang and reset. -/

namespace Sys2Proof.Machine

/-! ## The mma descriptor (R282 to R284) -/

/-- Bits of an element of a format code. -/
def elemBits (fmt : Nat) : Nat := if fmt = 9 || fmt = 10 then 16 else if fmt = 13 then 4 else 8

/-- M, N and K of a descriptor. -/
def mmaM (d : BitVec 512) : Nat := 16 * (field d 352 8 + 1)
/-- N. -/
def mmaN (d : BitVec 512) : Nat := 16 * (field d 360 8 + 1)
/-- K. -/
def mmaK (d : BitVec 512) : Nat := 16 * (field d 368 12 + 1)
/-- ACCB. -/
def mmaAcc (d : BitVec 512) : Nat := field d 384 8
/-- Tiles of the operation. -/
def mmaTiles (d : BitVec 512) : Nat := (field d 352 8 + 1) * (field d 360 8 + 1)

/-- One operand of a descriptor: A or B. -/
structure Operand where
  fmt : Nat
  src : Nat
  kc : Bool
  sc : Bool
  sw : Bool
  hnd : Nat
  base : Nat
  stride : Nat
  sbase : Nat
  /-- Rows of A, or columns of B. -/
  len : Nat
  deriving DecidableEq, Repr

/-- Operand A. -/
def operandA (d : BitVec 512) : Operand :=
  ⟨field d 392 4, field d 400 2, d.getLsbD 404, d.getLsbD 406, d.getLsbD 414, field d 320 16, field d 0 64, field d 256 32,
    field d 128 64, mmaM d⟩

/-- Operand B. -/
def operandB (d : BitVec 512) : Operand :=
  ⟨field d 396 4, field d 402 2, d.getLsbD 405, d.getLsbD 407, d.getLsbD 415, field d 336 16, field d 64 64, field d 288 32,
    field d 192 64, mmaN d⟩

/-- Bytes of one contiguous run of an operand. -/
def Operand.runBytes (o : Operand) (k : Nat) : Nat := (if o.kc then k else o.len) * elemBits o.fmt / 8

/-- Runs of an operand. -/
def Operand.runs (o : Operand) (k : Nat) : Nat := if o.kc then o.len else k

/-- The failing conditions of one operand, each with the lowest byte of a field that takes part (R169, R284): `b` and `s` are
the bytes of its base and scale base, `t` of its stride, `n` of its handle. -/
def Operand.faults (o : Operand) (k b s t n : Nat) : List (Bool × Nat) :=
  [(!(o.fmt = 6 || (9 ≤ o.fmt && o.fmt ≤ 13)), 49),
   (!o.kc && o.fmt = 13, 49),
   (o.sc && (o.fmt = 6 || o.fmt = 9 || o.fmt = 10), 49),
   (!o.sc && o.fmt = 13, 49),
   (o.sw && !o.sc, 50),
   (o.src ≠ 1 && o.hnd ≠ 0, n),
   (o.base % 16 ≠ 0, b),
   (o.sbase % 4 ≠ 0, s),
   (o.stride % 16 ≠ 0 || decide (o.stride < o.runBytes k), t)]

/-- The lowest byte of a failing field, for a team with `acc` tiles (R169, R193, R284). -/
def mmaFault (d : BitVec 512) (acc : Nat) : Option Nat :=
  let a := operandA d
  let b := operandB d
  let conds :=
    [(decide (field d 416 96 ≠ 0), 52), (decide (field d 380 4 ≠ 0), 47), ((decide (a.fmt = 6)) != (decide (b.fmt = 6)), 49),
     (decide (256 < mmaTiles d), 44), (decide (acc < mmaAcc d + mmaTiles d), 44)] ++
      a.faults (mmaK d) 0 16 32 40 ++ b.faults (mmaK d) 8 24 36 42
  (conds.filter (·.1)).foldl (fun m c => some (match m with | some x => min x c.2 | none => c.2)) none

/-- Bytes from an operand's base to its end. -/
def Operand.span (o : Operand) (k : Nat) : Nat := (o.runs k - 1) * o.stride + o.runBytes k

/-- Bytes of an operand's block scales. -/
def Operand.scaleBytes (o : Operand) (k : Nat) : Nat := 4 * o.len * ((k + 31) / 32)

/-- The ranges of an operand that take read locks (R169, R285). -/
def Operand.wants (o : Operand) (k : Nat) : List Want :=
  let n := o.span k
  (if o.src = 0 then [wantMem o.base n false] else if o.src = 1 then [(⟨.surface o.hnd, o.base, o.base + n, false⟩ : Want)] else []) ++
    (if o.sc && !o.sw && inWindow o.sbase then [wantMem o.sbase (o.scaleBytes k) false] else [])

/-- The ranges of an operation. -/
def mmaWants (d : BitVec 512) : List Want := (operandA d).wants (mmaK d) ++ (operandB d).wants (mmaK d)

/-- The completion barrier. -/
def mmaBar (d : BitVec 512) : Option Nat := if d.getLsbD 409 then some (field d 410 4) else none

/-- A named barrier is not configured (R169). -/
def State.barMisuse (s : State) (team : Nat) (bar : Option Nat) : Bool :=
  match bar, s.team? team with
  | some b, some t => (t.barrier b).expected = 0
  | _, _ => false

/-- The release of R169 at an operand's sources that lie in memory. -/
def State.releaseOperand (s : State) (th : Thread) (o : Operand) (k : Nat) : State :=
  let s := if o.src = 0 || o.src = 3 then s.releaseAt th.col th.ctx o.base (o.span k) else s
  if o.sc && !o.sw then s.releaseAt th.col th.ctx o.sbase (o.scaleBytes k) else s

/-- Issuing an operation: the release of R169 and its locks. -/
def State.startMma (s : State) (th : Thread) (d : BitVec 512) (at_ : DWord) : State :=
  ((s.releaseOperand th (operandA d) (mmaK d)).releaseOperand th (operandB d) (mmaK d)).startEngine th at_ (mmaBar d) (.mma d)
    (mmaWants d)

/-- Accumulator tiles of a thread's team. -/
def State.tilesOf (s : State) (th : Thread) : Nat := ((s.team? th.team).map Team.accTiles).getD 0

/-- `mma` (R193): nothing in a helper thread (R168). -/
def execMma (h : Head) (o : XF) (s : State) : Host.Outcome State Fault Refusal :=
  issue (.mma h o) h s fun s c th =>
    if th.helper then s.setThread (th.advance c h s.now)
    else if s.unperformed th.id then s.setThread (th.stall c h s.now)
    else
      let va := th.pair o.a.toNat
      s.readAtIssue c th h va fun s b =>
        let d := desc512 b
        match mmaFault d (s.tilesOf th) with
        | some k => s.raise c th 0x01 0 (va + BitVec.ofNat 64 k)
        | none =>
          if s.barMisuse th.team (mmaBar d) then s.raiseFree c th 0x15
          else if s.locksFree th (mmaWants d) then (s.startMma th d va).setThread (th.advance c h s.now)
          else s.setThread (th.stall c h s.now)

/-! ## Convergence registers (R153, R154, R286) -/

/-- Changing a convergence register of a team. -/
def State.setConverge (s : State) (team i : Nat) (v : Converge) : State :=
  match s.team? team with
  | some t => s.setTeam { t with converge := t.converge.set i v }
  | none => s

/-- A convergence register of a team. -/
def State.convergeOf (s : State) (team i : Nat) : Converge :=
  ((s.team? team).bind fun t => t.converge[i]?).getD ⟨0, [], 0⟩

/-- `cvarm` (R153). A register is armed while it holds a descriptor. -/
def execCvarm (h : Head) (o : XF) (s : State) : Host.Outcome State Fault Refusal :=
  issue (.cvarm h o) h s fun s c th =>
    let va := th.pair o.a.toNat
    let i := fnNat o % 8
    s.readAtIssue c th h va fun s b =>
      let n := (srcWord s th o.b).toNat
      if n = 0 || 1024 < n || !(s.convergeOf th.team i).desc.isEmpty then s.raiseFree c th 0x1D
      else (s.setConverge th.team i ⟨n, b, va⟩).setThread (th.advance c h s.now)

/-- The signature that brings a register to zero (R154, R286): the descriptor is checked before any wait, and a fault disarms the
register; the `mma` issues once the thread's earlier accesses are performed and its ranges can be locked, and until then the register
keeps the descriptor. It issues for a helper thread's signature too (notes/assumptions/81.md). -/
def State.signLast (s : State) (c : Issue) (th : Thread) (h : Head) (i : Nat) (v : Converge) : State :=
  let d := desc512 v.desc
  let t := s.setConverge th.team i ⟨0, [], 0⟩
  match mmaFault d (s.tilesOf th) with
  | some k => t.raise c th 0x01 0 (v.addr + BitVec.ofNat 64 k)
  | none =>
    if s.barMisuse th.team (mmaBar d) then t.raiseFree c th 0x15
    else if !s.unperformed th.id && s.locksFree th (mmaWants d) then (t.startMma th d v.addr).setThread (th.advance c h s.now)
    else (s.setConverge th.team i { v with count := 0 }).setThread (th.wait c h s.now (.signed i))

/-- `sign` (R154): a signature before the last one is counted once the thread's earlier accesses are performed. -/
def execSign (h : Head) (o : XF) (s : State) : Host.Outcome State Fault Refusal :=
  issue (.sign h o) h s fun s c th =>
    let i := fnNat o % 8
    let v := s.convergeOf th.team i
    if v.count = 0 then s.raiseFree c th 0x1D
    else if v.count = 1 then s.signLast c th h i v
    else if s.unperformed th.id then s.setThread (th.stall c h s.now)
    else (s.setConverge th.team i { v with count := v.count - 1 }).setThread (th.advance c h s.now)

/-- The `mma` of a final `sign` that waited issues once it can (R154). -/
def State.completeSign (s : State) (th : Thread) (i : Nat) : State :=
  let v := s.convergeOf th.team i
  let d := desc512 v.desc
  if !s.unperformed th.id && s.locksFree th (mmaWants d) then
    ((s.setConverge th.team i ⟨0, [], 0⟩).startMma th d v.addr).setThread (th.complete s.now [])
  else s

/-! ## Running an mma (R46, R47, R283, R285) -/

/-- Element codes of a run. -/
def elemCodes (bits : Nat) (b : List Byte) : List Nat :=
  if bits = 4 then b.flatMap fun x => [x.toNat % 16, x.toNat / 16]
  else if bits = 8 then b.map (·.toNat)
  else (List.range (b.length / 2)).map fun i => leNat ((b.drop (2 * i)).take 2)

/-- The bytes of one run of an operand. -/
def State.readRun (s : State) (e : EngOp) (o : Operand) (k r : Nat) : Except Trouble (List Byte) :=
  let at_ := o.base + r * o.stride
  let n := o.runBytes k
  match o.src with
  | 0 =>
    if inWindow (at_ % 2 ^ 64) then s.engineRead e.actor false (pagesOf n) (at_ % 2 ^ 64) n else .error (.fail (some 1))
  | 1 => s.viewRead e.ctx o.hnd o.fmt at_ n
  | 2 => s.weightRead e.ctx e.col at_ n
  | _ => s.engineRead e.actor true (pagesOf n) (at_ % 2 ^ 64) n

/-- What reading an operand leaves behind: the tiles of a tensor view are used now, and lines of memory have been read (R252, R353, R367). -/
def State.touchOperand (s : State) (e : EngOp) (o : Operand) (k : Nat) : State :=
  let s := match o.src with
    | 1 => (List.range (o.runs k)).foldl (fun s r => s.touchView e.ctx o.hnd (o.base + r * o.stride) (o.runBytes k)) s
    | 3 => (List.range (o.runs k)).foldl (fun s r => s.noteRead e.ctx e.col ((o.base + r * o.stride) % 2 ^ 64) (o.runBytes k)) s
    | _ => s
  if o.sc && !o.sw && !inWindow o.sbase then s.noteRead e.ctx e.col o.sbase (o.scaleBytes k) else s

/-- Element `(i, k)` lists of an operand: one list of K codes for each row of A or column of B. -/
def State.readOperand (s : State) (e : EngOp) (o : Operand) (k : Nat) : Except Trouble (List (List Nat)) := do
  let runs ← (List.range (o.runs k)).mapM fun r => s.readRun e o k r
  let codes := runs.map (elemCodes (elemBits o.fmt))
  if o.kc then .ok codes
  else .ok ((List.range o.len).map fun i => codes.map fun r => r.getD i 0)

/-- The block scales of each row or column; none when the operand carries none. -/
def State.readScales (s : State) (e : EngOp) (o : Operand) (k : Nat) : Except Trouble (List (List Nat)) :=
  if !o.sc then .ok []
  else
    let nb := (k + 31) / 32
    (List.range o.len).mapM fun i => do
      let va := o.sbase + 4 * i * nb
      let b ← if o.sw then s.weightRead e.ctx e.col va (4 * nb)
        else s.engineRead e.actor (!inWindow (va % 2 ^ 64)) (pagesOf (4 * nb)) (va % 2 ^ 64) (4 * nb)
      .ok ((List.range nb).map fun c => leNat ((b.drop (4 * c)).take 4))

/-- The place of acc(i, j) among the elements of the team's tiles (R283). -/
def accPlace (d : BitVec 512) (i j : Nat) : Nat :=
  256 * (mmaAcc d + i / 16 * (field d 360 8 + 1) + j / 16) + 16 * (i % 16) + j % 16

/-- Every sub-array of a core is fenced (R288). -/
def State.allFenced (s : State) (col core : Nat) : Bool :=
  decide (16 ≤ (s.engines.fenced.filter fun f => f.col = col && f.core = core).length)

/-- The last cycle in which a core's engine retired a block sum is now (R408). -/
def State.retire (s : State) (col core : Nat) : State :=
  { s with engines := { s.engines with
      retires := ⟨col, core, s.now⟩ :: s.engines.retires.filter fun r => !(r.col = col && r.core = core) } }

/-- Running an `mma`: its result, or why it cannot (R193, R285). -/
def State.runMma (s : State) (e : EngOp) (d : BitVec 512) : Run :=
  match s.team? e.team with
  | none => .failed none
  | some t =>
    let k := mmaK d
    let a := operandA d
    let b := operandB d
    let ovw := d.getLsbD 408
    let lo := 256 * mmaAcc d
    if s.allFenced e.col e.core then .failed none
    else if !ovw && t.accPoison.any fun p => lo ≤ p && p < lo + 256 * mmaTiles d then .failed (some 2)
    else
      let read : Except Trouble (List (List Nat) × List (List Nat) × List (List Nat) × List (List Nat)) := do
        let x ← s.readOperand e a k
        let y ← s.readOperand e b k
        let u ← s.readScales e a k
        let v ← s.readScales e b k
        .ok (x, y, u, v)
      match read with
      | .error z => z.run
      | .ok (x, y, u, v) =>
        let nb := (k + 31) / 32
        let element (i j : Nat) : Word :=
          let old : Word := if ovw then 0 else cellRead (accPlace d i j) t.acc
          let xs := x.getD i []
          let ys := y.getD j []
          if a.fmt = 6 then BitVec.ofInt 32 (old.toInt + dotInt (xs.map (sextNat 8)) (ys.map (sextNat 8)))
          else BitVec.ofNat 32 (dotBlocks nb old.toNat (xs.map (unpack (fmtOf a.fmt))) (ys.map (unpack (fmtOf b.fmt)))
            (u.getD i []) (v.getD j []))
        let acc := (List.range (mmaM d)).foldl (fun m i =>
          (List.range (mmaN d)).foldl (fun m j => cellWrite (accPlace d i j) (element i j) m) m) t.acc
        .done (((s.touchOperand e a k).touchOperand e b k).setTeam { t with
          acc := acc, accPoison := t.accPoison.filter fun p => !(lo ≤ p && p < lo + 256 * mmaTiles d) })

/-! ## Accumulator instructions (R194 to R197) -/

/-- A tile range: first and count, if it is well formed and within the allocation (R194). -/
def tileRange (w : Word) (acc : Nat) : Option (Nat × Nat) :=
  let first := w.toNat % 256
  let count := w.toNat / 256 % 512
  if w.toNat / 2 ^ 17 = 0 && 1 ≤ count && count ≤ 256 && first + count ≤ acc then some (first, count) else none

/-- A range word that is not a tile range: the word is the address of the fault (R194). -/
def State.rangeTrap (s : State) (c : Issue) (th : Thread) (w : Word) : State := s.raise c th 0x01 0 (w.zeroExtend 64)

/-- `accz` (R195): nothing in a helper thread (R168). It takes effect in its place in the team's order. -/
def execAccz (h : Head) (o : XF) (s : State) : Host.Outcome State Fault Refusal :=
  issue (.accz h o) h s fun s c th =>
    let w := srcWord s th o.a
    if th.helper then s.setThread (th.advance c h s.now)
    else match tileRange w (s.tilesOf th) with
    | none => s.rangeTrap c th w
    | some (first, count) =>
      let s := s.startEngine th 0 none (.accz first count) []
      (s.settleAcc th.team s.engines.ops.length).setThread (th.advance c h s.now)

/-- The barrier named by FN of `accld` and `accst`. -/
def accBar (o : XF) : Option Nat := if o.fn.getLsbD 4 then some (fnNat o % 16) else none

/-- `accld` (R195): nothing in a helper thread (R168). -/
def execAccld (h : Head) (o : XF) (s : State) : Host.Outcome State Fault Refusal :=
  issue (.accld h o) h s fun s c th =>
    let va := th.pair o.a.toNat
    let w := srcWord s th o.b
    if th.helper then s.setThread (th.advance c h s.now)
    else if s.unperformed th.id then s.setThread (th.stall c h s.now)
    else match tileRange w (s.tilesOf th) with
    | none => s.rangeTrap c th w
    | some (first, count) =>
      let size := match s.team? th.team with | some t => t.scratchSize | none => 0
      let v := va.toNat
      if !inWindow v || v % 64 ≠ 0 || windowBase + size < v + 1024 * count then s.raise c th 0x07 0 va
      else if s.barMisuse th.team (accBar o) then s.raiseFree c th 0x15
      else
        let ws := [wantMem v (1024 * count) false]
        if s.locksFree th ws then
          (s.startEngine th va (accBar o) (.accld first count va) ws).setThread (th.advance c h s.now)
        else s.setThread (th.stall c h s.now)

/-- Bytes of an element of an `accst` format. -/
def outBytes (ofmt : Nat) : Nat := if ofmt = 0 || ofmt = 8 then 4 else if ofmt = 9 || ofmt = 10 then 2 else 1

/-- Fields of the word `B` of `accst` beyond the range (R196). -/
structure AccstMode where
  ofmt : Nat
  act : Nat
  sat : Bool
  ity : Bool
  deriving DecidableEq, Repr

/-- The fields of an `accst`. -/
def accstMode (w : Word) (o : XF) : AccstMode :=
  ⟨w.toNat / 2 ^ 17 % 16, w.toNat / 2 ^ 21 % 8, w.getLsbD 24, o.fn.getLsbD 5⟩

/-- The fields hold defined values together (R196). -/
def AccstMode.ok (m : AccstMode) (w : Word) (param : Bool) : Bool :=
  decide (w.toNat < 2 ^ 25) && decide (m.act ≤ 5) && [0, 8, 9, 10, 11, 12].contains m.ofmt &&
    (m.ofmt ≠ 0 || (m.ity && m.act = 0 && !m.sat && !param))

/-- The first page of a destination range whose class is not of the list, at issue (R196). -/
def State.classTrap (s : State) (a : Actor) (classes : List Nat) (va n : Nat) : Option DWord :=
  if inWindow va then none
  else
    (pageNumbers va n).findSome? fun p =>
      let v := max va (p * 65536)
      match s.translate a.ctx v with
      | .ok l => if classes.contains l.cls then none else some (BitVec.ofNat 64 v)
      | .error _ => none

/-- What stops a thread that reads a block of memory at issue, at the first page of it: a cause with its address, or a page that has no
valid leaf (R122, R123, R128). -/
def State.blockTrap (s : State) (a : Actor) (va n : Nat) : Option ((Nat × DWord) ⊕ (DWord × WalkFail)) :=
  if inWindow va then none
  else
    (pageNumbers va n).findSome? fun p =>
      let v := max va (p * 65536)
      match s.translate a.ctx v with
      | .error f => some (.inr (BitVec.ofNat 64 v, f))
      | .ok l =>
        if l.cls = 3 then some (.inl (0x06, BitVec.ofNat 64 v))
        else if l.share = 0 && l.owner ≠ a.col then some (.inl (0x08, BitVec.ofNat 64 v))
        else none

/-- Bytes of the parameter block of an `accst` of that many tiles (R196). -/
def paramBytes (count : Nat) : Nat := 64 + 64 * count

/-- `accst` (R196): nothing in a helper thread (R168). -/
def execAccst (h : Head) (o : XF) (s : State) : Host.Outcome State Fault Refusal :=
  issue (.accst h o) h s fun s c th =>
    let va := th.pair o.a.toNat
    let w := srcWord s th o.b
    let m := accstMode w o
    let param : Option DWord := if o.c = 0xF0 then none else some (srcPair s th o.c)
    if th.helper then s.setThread (th.advance c h s.now)
    else if s.unperformed th.id then s.setThread (th.stall c h s.now)
    else match tileRange (w &&& 0x1FFFF) (s.tilesOf th) with
    | none => s.rangeTrap c th w
    | some (first, count) =>
      if !m.ok w param.isSome then s.raiseFree c th 0x01
      else
        let n := 256 * count * outBytes m.ofmt
        match s.engineAddr th.actor va n 64, param.bind fun p => s.engineAddr th.actor p (paramBytes count) 64 with
        | some (cause, a), _ => s.raise c th cause 0 a
        | none, some (cause, a) => s.raise c th cause 0 a
        | none, none =>
          match s.classTrap th.actor [0, 2] va.toNat n with
          | some a => s.raise c th 0x07 0 a
          | none =>
            match param.bind fun p => s.blockTrap th.actor p.toNat (paramBytes count) with
            | some (.inl (cause, a)) => s.raise c th cause 0 a
            | some (.inr (a, f)) =>
              let (k, s) := s.pageFault th.ctx th.col 0x7F a 4 f
              s.setThread (th.wait c h s.now (.page k a 1))
            | none =>
              if s.barMisuse th.team (accBar o) then s.raiseFree c th 0x15
              else
                let ws := [wantMem va.toNat n true] ++ match param with
                  | some p => s.readWant th.ctx p.toNat (paramBytes count)
                  | none => []
                if s.locksFree th ws then
                  let s := match param with
                    | some p => s.releaseAt th.col th.ctx p.toNat (paramBytes count)
                    | none => s
                  ((s.releaseAt th.col th.ctx va.toNat n).startEngine th va (accBar o)
                    (.accst first count va param m.ofmt m.act m.sat m.ity) ws).setThread (th.advance c h s.now)
                else s.setThread (th.stall c h s.now)

/-- Running an `accld` (R195). -/
def State.runAccld (s : State) (e : EngOp) (first count : Nat) (va : DWord) : Run :=
  match s.scratchRead e.team va.toNat (1024 * count) with
  | .error z => z.run
  | .ok b => .done (s.setAcc e.team (256 * first) (loadWords (1024 * count) false b))

/-- The activations of R190 on a binary32 code. -/
def actCode (act code : Nat) : Nat :=
  let v := unpack .f32 code
  let neg := v.negative && !v.zero
  match act with
  | 1 => if v.isNan then nan32 else if neg || v.zero then 0 else code
  | 2 => if neg then roundVal .f32 0 (v.mul (.fin false 1 (-6))) else if v.isNan then nan32 else code
  | 3 => sinpiRound 0 v
  | 4 => tanhRound 0 v
  | 5 => if v.isNan then nan32 else code % 2 ^ 31
  | _ => code

/-- The code that `accst` writes for an element (R197). -/
def accstCode (acc : Word) (scale bias ofmt act : Nat) (sat ity : Bool) : Nat :=
  if ofmt = 0 then acc.toNat
  else
    let a : Val := if ity then ofInt acc.toInt else unpack .f32 acc.toNat
    let y := roundVal .f32 0 (sumVals 0 [a.mul (unpack .f32 scale), unpack .f32 bias])
    convert (fmtOf ofmt) 0 sat (unpack .f32 (actCode act y))

/-- Running an `accst` (R196, R197, R406). -/
def State.runAccst (s : State) (e : EngOp) (first count : Nat) (va : DWord) (param : Option DWord) (ofmt act : Nat) (sat ity : Bool) : Run :=
  match s.team? e.team with
  | none => .failed none
  | some t =>
    let size := outBytes ofmt
    let n := 256 * count * size
    let block : Except Trouble (List Byte) := match param with
      | none => .ok (leBytes 4 0x3F800000 ++ List.replicate (60 + 64 * count) 0)
      | some p => s.engineRead e.actor false (pagesOf (paramBytes count)) p.toNat (paramBytes count)
    match block, s.writeTrouble e.actor [0, 2] 7 (pagesOf n) va.toNat n with
    | .error z, _ => z.run
    | _, some z => z.run
    | .ok b, none =>
      let word (at_ : Nat) : Nat := leNat ((b.drop at_).take 4)
      let code (k : Nat) : Nat :=
        accstCode (cellRead (256 * first + k) t.acc) (word 0) (word (64 + 64 * (k / 256) + 4 * (k % 16))) ofmt act sat ity
      let bytes := (List.range (256 * count)).flatMap fun k => leBytes size (code k)
      let s := match param with
        | some p => s.noteRead e.ctx e.col p.toNat (paramBytes count)
        | none => s
      let s := s.engineWrite e.actor (n / 128 + 2) va.toNat bytes
      .done ((t.accPoison.filter fun p => 256 * first ≤ p && p < 256 * (first + count)).foldl (fun s p =>
        s.markAt e.actor (va.toNat + (p - 256 * first) * size) size) s)

/-! ## Completion and failure -/

/-- Running an accumulator operation. -/
def State.runAcc (s : State) (e : EngOp) : Run :=
  match e.engine with
  | .mma d => s.runMma e d
  | .accld first count va => s.runAccld e first count va
  | .accst first count va p f a sat ity => s.runAccst e first count va p f a sat ity
  | _ => .hold

/-- The operation may run: it is the first of its team's order and waits for no page. -/
def State.accReady (s : State) (e : EngOp) : Bool :=
  (s.accHead e.team).map (·.id) = some e.id && e.token.isNone && e.dead.isNone && !e.lost && !s.recordsFull e.col

/-- The destination range of an operation whose completion is a release at its scope (R169, R197). -/
def Engine.dest? : Engine → Option (Nat × Nat)
  | .accst _ count va _ ofmt _ _ _ => some (va.toNat, 256 * count * outBytes ofmt)
  | _ => none

/-- One accumulator operation completes, or meets a page fault; a failure is ENGINE_FAILURE's (R169). -/
def State.completeAcc (s : State) (e : EngOp) : State :=
  if !s.accReady e then s
  else match s.runAcc e with
  | .done t =>
    let t := match e.engine.dest? with
      | some (va, n) => t.releaseAt e.col e.ctx va n
      | none => t
    (match e.engine with | .mma _ => t.retire e.col e.core | _ => t).endEngine e false
  | .wait va w f => s.engineFault e va w f
  | .hold => s
  | .failed _ => s

/-- MMA_COMPLETION (R169, R193). -/
def execMmaCompletion (eop : Nat) (s : State) : Host.Outcome State Fault Refusal :=
  .next <| match s.engOp? eop with
  | some e => match e.engine with | .mma _ => s.completeAcc e | _ => s
  | none => s

/-- ACCLD_COMPLETION (R195). -/
def execAccldCompletion (eop : Nat) (s : State) : Host.Outcome State Fault Refusal :=
  .next <| match s.engOp? eop with
  | some e => match e.engine with | .accld _ _ _ => s.completeAcc e | _ => s
  | none => s

/-- ACCST_COMPLETION (R197). -/
def execAccstCompletion (eop : Nat) (s : State) : Host.Outcome State Fault Refusal :=
  .next <| match s.engOp? eop with
  | some e => match e.engine with | .accst _ _ _ _ _ _ _ _ => s.completeAcc e | _ => s
  | none => s

/-- What a failed operation leaves: a failed `mma` writes NaN into all its tiles (R285). -/
def State.spoil (s : State) (e : EngOp) : State :=
  match e.engine with
  | .mma d => s.setAcc e.team (256 * mmaAcc d) (List.replicate (256 * mmaTiles d) 0x7FC00000)
  | _ => s

/-- An operation fails: its record, its effect, and its arrival with ERR (R169, R285). -/
def State.failEngine (s : State) (e : EngOp) (code : Option Nat) : State :=
  ((s.recordEngine e code).spoil e).endEngine e true

/-- Item code of an operation that a request without an answer ends: poisoned data where it reads memory, and one the spec does not state for a
write (R390, R392, R412). -/
def Engine.lostCode : Engine → Option Nat
  | .accst _ _ _ _ _ _ _ _ => none
  | _ => some 2

/-- The reason an operation fails now, if it does. -/
def State.engineFailure (s : State) (e : EngOp) : Option (Option Nat) :=
  if !e.engine.isAcc || (s.accHead e.team).map (·.id) ≠ some e.id || s.recordsFull e.col then none
  else match e.dead with
  | some dest => some (some (if dest then 5 else 1))
  | none =>
    if e.token.isSome then none
    else if e.lost then some e.engine.lostCode
    else match s.runAcc e with
    | .failed code => some code
    | _ => none

/-- ENGINE_FAILURE (R169, R285). -/
def execEngineFailure (eop : Nat) (s : State) : Host.Outcome State Fault Refusal :=
  .next <| match s.engOp? eop with
  | some e => match s.engineFailure e with | some code => s.failEngine e code | none => s
  | none => s

/-! ## Self-test, hang and reset (R288, R408, R410) -/

/-- MATRIX_SELF_TEST: a failed sub-array is fenced and logged; no result changes (R288, R410). -/
def execMatrixSelfTest (col core sub : Nat) (pass : Bool) (s : State) : Host.Outcome State Fault Refusal :=
  .next <|
  let f : SubArray := ⟨col, core, sub⟩
  if 32 ≤ col || 128 ≤ core || 16 ≤ sub || s.engines.fenced.contains f then s
  else if pass then s.retire col core
  else ({ s with engines := { s.engines with fenced := s.engines.fenced ++ [f] } }).logError 2 col core sub 0 0

/-- The engine's queue holds work: an accumulator operation, or a dispatched tile (R408). -/
def State.engineWork (s : State) (col core : Nat) : List Nat :=
  ((s.engines.ops.filter fun e => e.col = col && e.core = core && e.engine.isAcc).map EngOp.issued) ++
    ((s.engines.tiles.filter fun t => t.col = col && t.core = core && t.dispatched).map Tile.opened)

/-- The last cycle in which the engine of a core retired a block sum. -/
def State.lastRetire (s : State) (col core : Nat) : Nat :=
  ((s.engines.retires.find? fun r => r.col = col && r.core = core).map Retire.cycle).getD 0

/-- The engine hangs: it has had work and retired nothing for 1,100,000 cycles (R408). -/
def State.hangs (s : State) (col core : Nat) : Bool :=
  match s.engineWork col core with
  | [] => false
  | w :: ws => decide (max (s.lastRetire col core) (ws.foldl min w) + 1100000 ≤ s.now)

/-- Each thread of a team with tiles takes an accumulator lost trap, deferred; the team's tiles are zero (R408). -/
def State.loseTiles (s : State) (t : Team) : State :=
  let s := s.setTeam { t with acc := [], accPoison := [] }
  let lost (th : Thread) : PendingFault :=
    { cause := 0x1A, sub := 0, addr := BitVec.ofNat 64 t.accTiles, pc := th.pc, regs := [], slot := none, order := s.nextId, access := false }
  { s with threads := s.threads.map fun th =>
      if th.team = t.id then { th with pending := insertPending (lost th) th.pending } else th }

/-- MATRIX_ENGINE_HANG: the engine is reset alone (R408). -/
def execMatrixEngineHang (col core : Nat) (s : State) : Host.Outcome State Fault Refusal :=
  .next <|
  if !s.hangs col core then s
  else
    let s := (s.engines.ops.filter fun e => e.col = col && e.core = core && e.engine.isAcc).foldl (fun s e =>
      (s.recordEngine e (some 4)).dropEngine e true) s
    let s := (s.teams.filter fun t => t.col = col && t.core = core && t.accTiles ≠ 0).foldl (fun s t =>
      match s.team? t.id with
      | some t => (s.loseTiles t).checkTeam t.id
      | none => s) s
    (s.retire col core).logError 3 col core 0 0 0

end Sys2Proof.Machine
end

