-- ==== Sys2Proof/Machine/Network.lean ====
section
/-! DEFINITION. Network calls (R189 to R192, R269 to R281): the network table and descriptors, the gatherer's tiles, and the
evaluation of a request. -/

namespace Sys2Proof.Machine

/-! ## Descriptors (R271 to R274) -/

/-- A network descriptor's layers. -/
def netLayers (d : BitVec 512) : Nat := field d 256 3 + 1
/-- WFMT. -/
def netFmt (d : BitVec 512) : Nat := field d 268 4
/-- HWi. -/
def netHw (d : BitVec 512) (i : Nat) : Nat := field d (224 + 4 * (i - 1)) 4
/-- ACTl. -/
def netAct (d : BitVec 512) (l : Nat) : Nat := field d (192 + 3 * l) 3
/-- width(i) (R272). -/
def netWidth (d : BitVec 512) (i : Nat) : Nat :=
  if i = 0 then field d 259 5 + 1 else if i = netLayers d then field d 264 4 + 1 else 16 * (netHw d i + 1)
/-- SCL. -/
def netScl (d : BitVec 512) : Bool := d.getLsbD 272

/-- The descriptor is malformed (R272). -/
def netMalformed (d : BitVec 512) : Bool :=
  let f := netFmt d
  let n := netLayers d
  field d 276 236 ≠ 0 || field d 252 4 ≠ 0 || field d 216 8 ≠ 0 || f < 10 || 13 < f || (netScl d && f = 10) ||
    (!netScl d && f = 13) || ((List.range 8).any fun l => 6 ≤ netAct d l || (n ≤ l && netAct d l ≠ 0)) ||
    ((List.range 7).any fun i => n - 1 < i + 1 && netHw d (i + 1) ≠ 0) || field d 0 64 % 64 ≠ 0 ||
    field d 64 64 % 4 ≠ 0 || field d 128 64 % 4 ≠ 0

/-- The activation format (R273). -/
def netActFmt (d : BitVec 512) : Nat := if netFmt d = 13 then 11 else netFmt d

/-- Kp(l) (R274). -/
def netKp (d : BitVec 512) (l : Nat) : Nat := 16 * ((netWidth d l + 15) / 16)
/-- RS(l) (R274). -/
def netRow (d : BitVec 512) (l : Nat) : Nat := 64 * ((netKp d l * elemBits (netFmt d) + 511) / 512)
/-- nb(l) (R274). -/
def netBlocks (d : BitVec 512) (l : Nat) : Nat := (netKp d l + 31) / 32

/-- A sum over the layers below `l`. -/
def below (l : Nat) (f : Nat → Nat) : Nat := ((List.range l).map f).sum

/-- The place of row j of layer l: weights, bias and scales, with their lengths in bytes (R274). -/
def netPlaces (d : BitVec 512) (l j : Nat) : (Nat × Nat) × Nat × Nat × Nat :=
  ((field d 0 64 + below l (fun i => netWidth d (i + 1) * netRow d i) + j * netRow d l, (netWidth d l * elemBits (netFmt d) + 7) / 8),
    field d 64 64 + 4 * (below l (fun i => netWidth d (i + 1)) + j),
    field d 128 64 + 4 * (below l (fun i => netWidth d (i + 1) * netBlocks d i) + j * netBlocks d l), 4 * netBlocks d l)

/-! ## Reading weights (R275) -/

/-- The subcode of several reads together: 3 when any gives it, else 5 when any does, else none (R191, R275). -/
def netWorst (es : List (Option Nat)) : Option Nat :=
  if es.contains (some 3) then some 3 else if es.contains (some 5) then some 5 else none

/-- The subcode of a read: 5 for poison, 3 for anything else that stops it (R191). -/
def netCode : Except Trouble (List Byte) → Option Nat
  | .ok _ => none
  | .error (.fail (some 2)) => some 5
  | .error _ => some 3

/-- Bytes a network reads: subcode 3 or 5 when it cannot; of the pages of a range any that is not sealed gives 3 (R275). -/
def State.netRead (s : State) (a : Actor) (global : Bool) (at_ n : Nat) : Except Nat (List Byte) :=
  let parts :=
    if global then
      let va := at_ % 2 ^ 64
      (pageNumbers va n).map fun p =>
        s.engineRead a true 1 (max va (p * 65536)) (min (va + n) ((p + 1) * 65536) - max va (p * 65536))
    else [s.weightRead a.ctx a.col at_ n]
  match netWorst (parts.map netCode) with
  | some k => .error k
  | none => .ok (parts.flatMap fun r => match r with | .ok b => b | .error _ => [])

/-- A row of a layer: weight codes, bias and scales. -/
structure NetRow where
  weights : List Nat
  bias : Nat
  scales : List Nat
  deriving DecidableEq, Repr

/-- Reading row j of layer l. -/
def State.netRowOf (s : State) (a : Actor) (d : BitVec 512) (l j : Nat) : Except Nat NetRow :=
  let ((wa, wn), ba, sa, sn) := netPlaces d l j
  let w := s.netRead a (d.getLsbD 273) wa wn
  let b := s.netRead a (d.getLsbD 274) ba 4
  let c := if netScl d then s.netRead a (d.getLsbD 275) sa sn else .ok []
  let code (r : Except Nat (List Byte)) : Option Nat := match r with | .error k => some k | .ok _ => none
  match netWorst [code w, code b, code c], w, b, c with
  | none, .ok w, .ok b, .ok c =>
    let codes := (elemCodes (elemBits (netFmt d)) w).take (netWidth d l)
    .ok ⟨codes ++ List.replicate (netKp d l - netWidth d l) 0, leNat b,
      (List.range (c.length / 4)).map fun i => leNat ((c.drop (4 * i)).take 4)⟩
  | k, _, _, _ => .error (k.getD 3)

/-- Every row of a network, read or refused, layer by layer. -/
def State.netRows (s : State) (a : Actor) (d : BitVec 512) : List (List (Except Nat NetRow)) :=
  (List.range (netLayers d)).map fun l => (List.range (netWidth d (l + 1))).map fun j => s.netRowOf a d l j

/-- The first subcode of the table that the reads give: 3 before 5 (R191). -/
def netFailure (rows : List (List (Except Nat NetRow))) : Option Nat :=
  netWorst (rows.flatMap fun l => l.map fun r => match r with | .error e => some e | .ok _ => none)

/-! ## Evaluation (R190) -/

/-- One layer: inputs in the activation format, outputs as binary32 codes. -/
def netLayer (d : BitVec 512) (l : Nat) (rows : List NetRow) (x : List Nat) : List Nat :=
  let xs := (x ++ List.replicate (netKp d l - x.length) 0).map (unpack (fmtOf (netActFmt d)))
  rows.map fun r => actCode (netAct d l)
    (dotBlocks (netBlocks d l) r.bias (r.weights.map (unpack (fmtOf (netFmt d)))) xs r.scales [])

/-- The layers from `l` on; between layers the outputs are converted to the activation format. -/
def netFrom (d : BitVec 512) (x : List Nat) : Nat → List (List NetRow) → List Nat
  | _, [] => x
  | l, [rows] => netLayer d l rows x
  | l, rows :: rest =>
    netFrom d ((netLayer d l rows x).map fun y => convert (fmtOf (netActFmt d)) 0 false (unpack .f32 y)) (l + 1) rest

/-- The result of a request (R190). -/
def netEval (d : BitVec 512) (rows : List (List NetRow)) (inputs : List Word) : List Word :=
  (netFrom d (inputs.map fun v => convert (fmtOf (netActFmt d)) 0 false (unpack .f32 v.toNat)) 0 rows).map (BitVec.ofNat 32)

/-! ## The gatherer (R278, R279) -/

/-- The outcome of a request: its results and subcode 0, or a subcode by the form (R191). -/
def gatherStage (o : Op) (handle : Word) (sub : Option (List Nat)) (res : Except Nat (List Word)) : Stage :=
  let cs := sub.getD []
  let outs := o.dst.take (o.dst.length - cs.length)
  match res, sub with
  | .ok vs, _ => .ready (outs.zip vs ++ cs.map fun c => (c, 0)) false
  | .error k, none => .failed 0x10 k (some (handle.zeroExtend 64)) false
  | .error k, some _ => .ready ((outs.map fun r => (r, BitVec.ofNat 32 nan32)) ++ cs.map fun c => (c, BitVec.ofNat 32 k)) false

/-- The outcome of a request that fails as it enters (R191, R278). -/
def refusedStage (o : Op) (handle : Word) (sub : Option (List Nat)) (k : Nat) : Stage :=
  match gatherStage o handle sub (.error k) with
  | .ready ws _ => .refused ws
  | g => g

/-- Dispatching a tile, padded to 64 rows (R279, R280, R416). -/
def State.dispatchTile (s : State) (t : Tile) : State :=
  let s := (s.count t.col 0x041 (some t.ctx) 1).count t.col 0x042 (some t.ctx) (64 - t.rows.length)
  { s with engines := { s.engines with
      tiles := s.engines.tiles.map fun u => if u.id = t.id then { u with dispatched := true, opened := s.now } else u } }

/-- Open tiles of a core, oldest first. -/
def State.openTiles (s : State) (col core : Nat) : List Tile :=
  s.engines.tiles.filter fun t => t.col = col && t.core = core && !t.dispatched

/-- Opening a tile with its first request. -/
def State.openTile (s : State) (o : Op) (handle : Nat) (entry : DWord) (d : BitVec 512) : State :=
  let tiles := s.openTiles o.col o.core
  let s := match tiles with
    | t :: _ => if 16 ≤ tiles.length then s.dispatchTile t else s
    | [] => s
  let (id, s) := s.newId
  let w := match (s.team? o.team).bind fun t => s.launch? t.launch with | some l => l.gwin | none => 512
  { s with engines := { s.engines with tiles := s.engines.tiles ++
      [{ id := id, col := o.col, core := o.core, ctx := o.ctx, handle := handle, entry := entry, desc := d, opened := s.now
         window := w, rows := [o.id], dispatched := false }] } }

/-- A request joins the open tile of its key and version, or opens one (R279). -/
def State.joinTile (s : State) (o : Op) (handle : Nat) (entry : DWord) (d : BitVec 512) : State :=
  match (s.openTiles o.col o.core).find? fun t => t.ctx = o.ctx && t.handle = handle with
  | none => s.openTile o handle entry d
  | some t =>
    if t.entry = entry && t.desc = d then
      let t := { t with rows := t.rows ++ [o.id] }
      let s := { s with engines := { s.engines with tiles := s.engines.tiles.map fun u => if u.id = t.id then t else u } }
      if 64 ≤ t.rows.length then s.dispatchTile t else s
    else (s.dispatchTile t).openTile o handle entry d

/-- Bytes of a table entry or descriptor through the page tables (R269): none when the read fails. -/
def State.tableRead (s : State) (o : Op) (va : DWord) (n : Nat) : Except WalkFail (Option (List Byte)) :=
  if !canonical va || inWindow va.toNat then .ok none
  else match s.translate o.ctx va.toNat with
  | .error f => .error f
  | .ok l =>
    if (l.share = 0 && l.owner ≠ o.col) || s.unreadable o.actor l n then .ok none else .ok (some (s.columnRead o.col l.pa n))

/-- The address of a network table entry. -/
def State.netEntryAt (s : State) (ctx : Nat) (handle : Word) : DWord :=
  (s.context ctx).desc.extractLsb' 192 64 + (handle.zeroExtend 64 <<< 3)

/-- DADDR of an entry (R269). -/
def netDescAt (e : DWord) : DWord := (e.extractLsb' 6 51 ++ (0 : BitVec 6)).signExtend 64

/-- An entry is valid (R269). -/
def netEntryOk (e : DWord) : Bool := e.getLsbD 0 && field e 1 5 = 0 && field e 57 7 = 0

/-- A request waits for the page of its table entry, or of its descriptor if `desc`, under a record of KIND 4 (R269, R432). -/
def State.gatherFault (s : State) (o : Op) (va : DWord) (f : WalkFail) (desc : Bool) (handle : Word) (inputs : List Word)
    (sub : Option (List Nat)) : State :=
  let (k, s) := s.pageFault o.ctx o.col 0x7F va 4 f
  s.setOp { o with stage := .gather handle inputs sub (some (k, desc)) }

/-- A core's open tiles that hold a request of a team dispatch (R192). -/
def State.flushTeam (s : State) (team col core : Nat) : State :=
  (s.openTiles col core).foldl (fun s t =>
    if t.rows.any fun k => (match s.op? k with | some o => o.team = team | none => false) then s.dispatchTile t else s) s

/-- A request of a team marked for a save does not wait for a window: the drain flushes its tile at once (R192, R379). -/
def State.drainTile (s : State) (o : Op) : State :=
  if ((s.team? o.team).bind Team.marked).isSome then s.flushTeam o.team o.col o.core else s

/-- A request enters the gatherer: the checks in table order, then its tile (R191, R278). -/
def State.enterGather (s : State) (o : Op) (handle : Word) (inputs : List Word) (sub : Option (List Nat)) : State :=
  let fail (k : Nat) : State := s.setOp { o with stage := refusedStage o handle sub k }
  if 4096 ≤ handle.toNat then fail 1
  else match s.tableRead o (s.netEntryAt o.ctx handle) 8 with
  | .error f => s.gatherFault o (s.netEntryAt o.ctx handle) f false handle inputs sub
  | .ok none => fail 1
  | .ok (some eb) =>
    let e : DWord := BitVec.ofNat 64 (leNat eb)
    if !netEntryOk e then fail 1
    else match s.tableRead o (netDescAt e) 64 with
    | .error f => s.gatherFault o (netDescAt e) f true handle inputs sub
    | .ok none => fail 2
    | .ok (some db) =>
      let d := desc512 db
      let outs := o.dst.length - (sub.getD []).length
      let s := (s.noteRead o.ctx o.col (s.netEntryAt o.ctx handle).toNat 8).noteRead o.ctx o.col (netDescAt e).toNat 64
      let fail (k : Nat) : State := s.setOp { o with stage := refusedStage o handle sub k }
      if netMalformed d then fail 2
      else if netFailure (s.netRows o.actor d) = some 3 then fail 3
      else if inputs.length ≠ netWidth d 0 || outs ≠ netWidth d (netLayers d) then fail 4
      else ((s.setOp { o with stage := .gather handle inputs sub none }).joinTile o handle.toNat e d).drainTile o

/-- The operation is a network request that has its place in the gatherer: it is not scattered, or its fault is not delivered (R278). -/
def Stage.inGatherer : Stage → Bool
  | .gather _ _ _ _ => true
  | .refused _ => true
  | .failed cause _ _ _ => cause = 0x10
  | _ => false

/-- Requests in a core's gatherer: those in flight, and those whose network lane fault waits in their threads (R278). -/
def State.gatherCount (s : State) (col core : Nat) : Nat :=
  (s.ops.filter fun o => o.col = col && o.core = core && o.stage.inGatherer).length +
    ((s.threads.filter fun t => t.col = col && t.core = core).map fun t => (t.pending.filter (·.cause = 0x10)).length).sum

/-- `neval` (R189 to R192). -/
def execNeval (h : Head) (o : XF) (s : State) : Host.Outcome State Fault Refusal :=
  issue (.neval h o) h s fun s c th =>
    if 1024 ≤ s.gatherCount th.col th.core then s.setThread (th.stall c h s.now)
    else
      let handle := srcWord s th o.b
      let inputs := srcRange th o.a (nin o.fn)
      let sub := if o.fn.getLsbD 9 then some (wordRegs o.c) else none
      let dst := rangeRegs o.d (nout o.fn) ++ sub.getD []
      let s := (s.count th.col 0x040 (some th.ctx) 1).startOp c th h dst (.gather handle inputs sub none)
      let s := s.setThread (th.advance c h s.now)
      match s.ops.getLast? with
      | some p => s.enterGather p handle inputs sub
      | none => s

/-- `nflush` (R192). -/
def execNflush (h : Head) (o : XF) (s : State) : Host.Outcome State Fault Refusal :=
  issue (.nflush h o) h s fun s c th => (s.flushTeam th.team th.col th.core).setThread (th.advance c h s.now)

/-- GATHER_WINDOW_EXPIRY (R279). -/
def execGatherWindowExpiry (tile : Nat) (s : State) : Host.Outcome State Fault Refusal :=
  .next <| match s.engines.tiles.find? (·.id = tile) with
  | some t => if !t.dispatched && t.opened + t.window ≤ s.now then s.dispatchTile t else s
  | none => s

/-- The rows of a network when all were read. -/
def netRowsOk (rows : List (List (Except Nat NetRow))) : List (List NetRow) :=
  rows.map fun l => l.filterMap fun r => match r with | .ok x => some x | .error _ => none

/-- What reading the rows of a network leaves behind in memory (R353, R367, R416). -/
def State.noteNet (s : State) (ctx col : Nat) (d : BitVec 512) : State :=
  (List.range (netLayers d)).foldl (fun s l => (List.range (netWidth d (l + 1))).foldl (fun s j =>
    let ((wa, wn), ba, sa, sn) := netPlaces d l j
    let note (s : State) (global : Bool) (at_ n : Nat) : State := if global then s.noteRead ctx col (at_ % 2 ^ 64) n else s
    note (note (note s (d.getLsbD 273) wa wn) (d.getLsbD 274) ba 4) (netScl d && d.getLsbD 275) sa sn) s) s

/-- TILE_RESULT_SCATTER: a dispatched tile is evaluated, and each lane's results or subcode wait to be written (R280). -/
def execTileResultScatter (tile : Nat) (s : State) : Host.Outcome State Fault Refusal :=
  .next <| match s.engines.tiles.find? (·.id = tile) with
  | none => s
  | some t =>
    if !t.dispatched then s
    else
      let rows := s.netRows ⟨0, 0, t.ctx, t.col, t.core, 0, none⟩ t.desc
      let bad := if s.allFenced t.col t.core then some 3 else netFailure rows
      let net := netRowsOk rows
      let s := s.noteNet t.ctx t.col t.desc
      let s := t.rows.foldl (fun s k =>
        match s.op? k with
        | some o =>
          match o.stage with
          | .gather handle inputs sub _ =>
            s.setOp { o with stage := gatherStage o handle sub (match bad with | some e => .error e | none => .ok (netEval t.desc net inputs)) }
          | _ => s
        | none => s) s
      ({ s with engines := { s.engines with tiles := s.engines.tiles.filter (·.id ≠ tile) } }).retire t.col t.core

end Sys2Proof.Machine
end

