-- ==== Sys2Proof/Machine/Rays.lean ====
section
/-! DEFINITION. Ray records, bounding volume hierarchies and traversal (R184 to R188, R289 to R306). -/

namespace Sys2Proof.Machine

/-! ## Exact values with infinities, zeros alike -/

/-- The order of two values, −0 and +0 alike; NaN is below nothing. -/
def XQ.lt : XQ → XQ → Bool
  | .inf a, .inf b => a && !b
  | .inf a, .fin _ _ => a
  | .fin _ _, .inf b => !b
  | .fin p _, .fin q _ => p < q
  | _, _ => false

/-- The greater of two values. -/
def XQ.sup (a b : XQ) : XQ := if a.lt b then b else a

/-- The lesser of two values. -/
def XQ.inf_ (a b : XQ) : XQ := if b.lt a then b else a

/-! ## The record (R289, R290) -/

/-- A word of a record at a bit. -/
def recWord (r : BitVec 512) (i : Nat) : Word := r.extractLsb' i 32

/-- What a traversal may change: TRAIL, STEPS, the units since the last charge, TMAX and the committed hit; and, in this call, the units
charged (R300, R416) and the addresses and types of the nodes visited. -/
structure Walk where
  trail : Nat
  steps : Nat
  r : Nat
  tmax : Word
  prim : Nat
  inst : Nat
  u : Word
  v : Word
  visits : Nat
  seen : List (Nat × Nat)
  deriving DecidableEq, Repr

/-- The changing fields of a record. -/
def walkOf (r : BitVec 512) : Walk :=
  ⟨field r 480 32, field r 404 12, 0, recWord r 224, field r 352 32, field r 384 20, recWord r 416, recWord r 448, 0, []⟩

/-- The fields that `trace` clears for a new traversal (R186). -/
def Walk.fresh (w : Walk) : Walk := { w with trail := 0, steps := 0, r := 0, prim := 0xFFFFFFFF, inst := 0xFFFFF, u := 0, v := 0 }

/-- A hit is committed (R303). -/
def Walk.hit (w : Walk) : Bool := w.prim ≠ 0xFFFFFFFF

/-- Entry `d` of the trail. -/
def Walk.entry (w : Walk) (d : Nat) : Nat := w.trail / 4 ^ d % 4

/-- The record with a status and the changed fields (R291). -/
def writeRecord (r : BitVec 512) (w : Walk) (st : Nat) : BitVec 512 :=
  BitVec.ofNat 512 (w.trail % 2 ^ 32 * 2 ^ 480 + w.v.toNat * 2 ^ 448 + w.u.toNat * 2 ^ 416 + w.steps % 2 ^ 12 * 2 ^ 404 +
    w.inst % 2 ^ 20 * 2 ^ 384 + w.prim % 2 ^ 32 * 2 ^ 352 + field r 344 8 * 2 ^ 344 + st % 256 * 2 ^ 336 +
    field r 256 80 * 2 ^ 256 + w.tmax.toNat * 2 ^ 224 + field r 0 224)

/-- STATUS. -/
def recStatus (r : BitVec 512) : Nat := field r 336 8

/-- Direction words of a record. -/
def recDir (r : BitVec 512) : List Word := [recWord r 128, recWord r 160, recWord r 192]

/-- Origin words of a record. -/
def recOrg (r : BitVec 512) : List Word := [recWord r 0, recWord r 32, recWord r 64]

/-- A component is +0 or −0. -/
def isZero32 (w : Word) : Bool := w.toNat % 2 ^ 31 = 0

/-- A record is invalid (R185). -/
def recInvalid (r : BitVec 512) : Bool :=
  let t0 := xq32 (recWord r 96)
  let t1 := xq32 (recWord r 224)
  !((recOrg r ++ recDir r).all finite32) || t0 = .nan || t1 = .nan || (recDir r).all isZero32 || t1.lt t0 ||
    decide (18 < field r 344 8) || r.getLsbD 327

/-! ## Nodes (R293 to R297) -/

/-- What ends a traversal early: a page without a valid leaf, marked data, or a status. -/
inductive Stop where
  | page (va : DWord) (f : WalkFail)
  | poison
  | status (n : Nat)
  deriving DecidableEq, Repr

/-- A node entered: its type (0 inner, 1 triangle, 2 curve, 3 instance), its address and its BVH's base, with the ray's origin
and direction in the space it lies in, and the instance being traversed. -/
structure Node where
  typ : Nat
  addr : Nat
  base : Nat
  o : List Word
  d : List Word
  inst : Nat
  inside : Bool
  deriving DecidableEq, Repr

/-- Bytes of a node of a type. -/
def nodeSize (typ : Nat) : Nat := match typ with | 1 => 64 | 2 => 80 | _ => 128

/-- The traversal's surroundings: the state, the agent, the record, the pages that were declared unresolvable to it, and the regions that
entered FREEING during it. -/
structure Tracer where
  s : State
  a : Actor
  rec_ : BitVec 512
  dead : List Nat
  freed : List (Nat × Nat)

/-- Bytes of a node in pieces of 16, each within a page; `k` bounds the pieces (R306). -/
def Tracer.bytes (t : Tracer) : Nat → Nat → Except Stop (List Byte)
  | 0, _ => .ok []
  | k + 1, va =>
    if inWindow va || t.dead.contains (va / 65536) then .error (.status 6)
    else match t.s.translate t.a.ctx va with
    | .error f => .error (.page (BitVec.ofNat 64 va) f)
    | .ok l =>
      if (l.share = 0 && l.owner ≠ t.a.col) || l.cls ≠ 1 then .error (.status 6)
      else if t.s.unreadable t.a l 16 then .error .poison
      else do
        let r ← t.bytes k (va + 16)
        .ok (t.s.columnRead t.a.col l.pa 16 ++ r)

/-- Reading a node with the checks of R293 and R306; `depth` is its depth. Where several of them fail, the region of the base is tested
first, then the node's alignment, extent and depth, then its own page (DESIGN CHOICE, notes/assumptions/82.md). -/
def Tracer.read (t : Tracer) (n : Node) (depth : Nat) : Except Stop Nat :=
  match t.s.inkAt t.a.ctx n.base with
  | none => .error (.status 6)
  | some g =>
    if g.rstate ≠ 1 || !canonical (BitVec.ofNat 64 n.base) || (t.freed.any fun f => f.1 ≤ n.base && n.base < f.1 + f.2) then .error (.status 6)
    else if n.base % 64 ≠ 0 || n.addr < g.base || g.base + g.tail < n.addr + nodeSize n.typ ||
        (16 ≤ depth && (n.typ = 0 || n.typ = 3)) || (n.typ = 3 && n.inside) then .error (.status 5)
    else do
      let b ← t.bytes (nodeSize n.typ / 16) n.addr
      .ok (leNat b)

/-- FLAGS bit `i`. -/
def Tracer.flag (t : Tracer) (i : Nat) : Bool := t.rec_.getLsbD (320 + i)

/-- The root of a record (R293). -/
def Tracer.root (t : Tracer) : Node :=
  let b := field t.rec_ 256 64
  ⟨0, b, b, recOrg t.rec_, recDir t.rec_, 0xFFFFF, false⟩

/-- A component of a list of words. -/
def comp (l : List Word) (k : Nat) : Word := l.getD k 0

/-- The interval of one axis of a box, or none when it is empty (R298). -/
def axisSpan (lo hi o d : Word) : Option (XQ × XQ) :=
  if isZero32 d then
    (if !(xq32 o).lt (xq32 lo) && !(xq32 hi).lt (xq32 o) then some (.inf true, .inf false) else none)
  else
    let f (x : Word) : XQ := ((xq32 x).add (xq32 o).neg).mul (XQ.of (1 / rat32 d))
    some ((f lo).inf_ (f hi), (f lo).sup (f hi))

/-- The entry of a box when it is hit (R298). -/
def boxEntry (box : Nat) (o d : List Word) (tmin tmax : Word) : Option XQ :=
  let w (k : Nat) : Word := BitVec.ofNat 32 (box / 2 ^ (32 * k))
  if (List.range 6).any (fun k => xq32 (w k) = .nan) || (List.range 3).any fun k => (xq32 (w (k + 3))).lt (xq32 (w k)) then none
  else
    match axisSpan (w 0) (w 3) (comp o 0) (comp d 0), axisSpan (w 1) (w 4) (comp o 1) (comp d 1), axisSpan (w 2) (w 5) (comp o 2) (comp d 2) with
    | some x, some y, some z =>
      let en := (xq32 tmin).sup (x.1.sup (y.1.sup z.1))
      let ex := (xq32 tmax).inf_ (x.2.inf_ (y.2.inf_ z.2))
      if ex.lt en then none else some en
    | _, _, _ => none

/-- Inserting a child by its entry, behind those with an equal one. -/
def insertKid (e : XQ) (n : Node) : List (XQ × Node) → List (XQ × Node)
  | [] => [(e, n)]
  | (f, m) :: r => if e.lt f then (e, n) :: (f, m) :: r else (f, m) :: insertKid e n r

/-- The kids of an inner node, lowest entry first (R298). -/
def Tracer.innerKids (t : Tracer) (w : Walk) (n : Node) (b : Nat) : List Node :=
  let kids := (List.range 4).foldl (fun ks c =>
    let r := b / 2 ^ (768 + 32 * c) % 2 ^ 32
    let typ := r / 2 ^ 30
    if r = 0 || (typ = 1 && t.flag 6) || (typ = 2 && t.flag 5) then ks
    else match boxEntry (b / 2 ^ (192 * c) % 2 ^ 192) n.o n.d (recWord t.rec_ 96) w.tmax with
      | some e => insertKid e { n with typ := typ, addr := n.base + 64 * (r % 2 ^ 30) } ks
      | none => ks) []
  kids.map (·.2)

/-- A row of the world-to-object matrix applied, with one rounding (R297). -/
def invRow (b i : Nat) (v : List Word) (one : Bool) : Word :=
  let m (j : Nat) : Val := unpack .f32 (b / 2 ^ (384 + 128 * i + 32 * j) % 2 ^ 32)
  let ts := (List.range 3).map fun j => (m j).mul (unpack .f32 (comp v j).toNat)
  BitVec.ofNat 32 (roundVal .f32 0 (sumVals 0 (if one then ts ++ [m 3] else ts)))

/-- The kid of an instance node: the root of its BVH in its own space (R297). -/
def Tracer.instanceKids (t : Tracer) (n : Node) (b : Nat) : List Node :=
  let o := (List.range 3).map fun i => invRow b i n.o true
  let d := (List.range 3).map fun i => invRow b i n.d false
  if field t.rec_ 328 8 &&& (b / 2 ^ 864 % 256) = 0 || !((o ++ d).all finite32) || d.all isZero32 then []
  else
    let c := b / 2 ^ 768 % 2 ^ 64
    [⟨0, c, c, o, d, b / 2 ^ 832 % 2 ^ 20, true⟩]

/-- The kids of a node that is no leaf. -/
def Tracer.kids (t : Tracer) (w : Walk) (n : Node) (b : Nat) : List Node :=
  if n.typ = 3 then t.instanceKids n b else t.innerKids w n b

/-! ## Primitive tests (R301 to R303) -/

/-- A candidate: its reported values, its primitive and instance, and whether it is opaque. -/
structure Cand where
  t : Word
  u : Word
  v : Word
  prim : Nat
  inst : Nat
  opq : Bool
  deriving DecidableEq, Repr

/-- t lies in the window (R303). -/
def inTimes (tmin tmax : Word) (hit : Bool) (t : XQ) : Bool :=
  !t.lt (xq32 tmin) && (if hit then t.lt (xq32 tmax) else !(xq32 tmax).lt t)

/-- Rational components of a vector of words. -/
def rats (l : List Word) : List ℚ := l.map rat32

/-- The axis of greatest magnitude, the lower on ties (R301). -/
def topAxis (d : List ℚ) : Nat :=
  let m (k : Nat) : ℚ := |d.getD k 0|
  if m 1 ≤ m 0 && m 2 ≤ m 0 then 0 else if m 2 ≤ m 1 then 1 else 2

/-- The dot product of vectors. -/
def dot3 (a b : List ℚ) : ℚ := a.getD 0 0 * b.getD 0 0 + a.getD 1 0 * b.getD 1 0 + a.getD 2 0 * b.getD 2 0

/-- The difference of vectors. -/
def sub3 (a b : List ℚ) : List ℚ := (List.range 3).map fun k => a.getD k 0 - b.getD k 0

/-- The cross product. -/
def cross3 (a b : List ℚ) : List ℚ :=
  [a.getD 1 0 * b.getD 2 0 - a.getD 2 0 * b.getD 1 0, a.getD 2 0 * b.getD 0 0 - a.getD 0 0 * b.getD 2 0,
    a.getD 0 0 * b.getD 1 0 - a.getD 1 0 * b.getD 0 0]

/-- The edge function of two points of the plane at the origin (R259). -/
def edge0 (p q : ℚ × ℚ) : ℚ := (q.1 - p.1) * (0 - p.2) - (q.2 - p.2) * (0 - p.1)

/-- The origin lies within an edge under the rule of R259. -/
def edgeIn (p q : ℚ × ℚ) : Bool :=
  decide (0 < edge0 p q) || (edge0 p q = 0 && ((q.2 = p.2 && decide (p.1 < q.1)) || decide (q.2 < p.2)))

/-- The component is −0. -/
def negZero (w : Word) : Bool := w.toNat = 2 ^ 31

/-- The sign of a component's difference from the origin's: the difference of two zeros is −0 exactly for −0 and +0 (R36). -/
def lowDiff (v o : Word) : Bool := decide (rat32 v < rat32 o) || (negZero v && o.toNat = 0)

/-- A triangle's t, as it is rounded (R36, R301): a zero is −0 when the signs of its sum and of its divisor differ, and the sum is
−0 exactly when each term is. The weights are not negative; a zero one is +0 (notes/assumptions/83.md). -/
def triangleTime (o d : List Word) (vs : List (List Word)) (t : ℚ) : Word :=
  let kz := topAxis (rats d)
  if t = 0 then
    (if (vs.all fun v => lowDiff (comp v kz) (comp o kz)) != decide (rat32 (comp d kz) < 0) then 0x80000000 else 0)
  else round32 t

/-- The triangle test: t, u and v, and whether it is front-facing (R301). -/
def triangleTest (o d : List Word) (vs : List (List Word)) : Option (ℚ × ℚ × ℚ × Bool) :=
  if !(vs.all fun v => v.all finite32) then none
  else
    let oo := rats o
    let dd := rats d
    let kz := topAxis dd
    let kx := (kz + 1) % 3
    let ky := (kz + 2) % 3
    let z (v : List ℚ) : ℚ := v.getD kz 0 - oo.getD kz 0
    let dz := dd.getD kz 0
    let proj (v : List ℚ) : ℚ × ℚ :=
      (v.getD kx 0 - oo.getD kx 0 - dd.getD kx 0 / dz * z v, v.getD ky 0 - oo.getD ky 0 - dd.getD ky 0 / dz * z v)
    let v0 := rats (vs.getD 0 [])
    let v1 := rats (vs.getD 1 [])
    let v2 := rats (vs.getD 2 [])
    let p0 := proj v0
    let p1 := proj v1
    let p2 := proj v2
    let a := (p1.1 - p0.1) * (p2.2 - p0.2) - (p2.1 - p0.1) * (p1.2 - p0.2)
    if a = 0 then none
    else
      let q1 := if a < 0 then p2 else p1
      let q2 := if a < 0 then p1 else p2
      if !(edgeIn p0 q1 && edgeIn q1 q2 && edgeIn q2 p0) then none
      else
        let l0 := edge0 q1 q2 / |a|
        let l1 := edge0 q2 p0 / |a|
        let l2 := edge0 p0 q1 / |a|
        let w1 := if a < 0 then l2 else l1
        let w2 := if a < 0 then l1 else l2
        some ((l0 * z v0 + w1 * z v1 + w2 * z v2) / dz, w1, w2, decide (dot3 (cross3 (sub3 v1 v0) (sub3 v2 v0)) dd < 0))

/-- A point of a cubic in Bernstein form at k ÷ 16 (R302). -/
def bezier (c : List ℚ) (k : Nat) : ℚ :=
  let x := mkRat k 16
  let y := 1 - x
  y * y * y * c.getD 0 0 + 3 * x * y * y * c.getD 1 0 + 3 * x * x * y * c.getD 2 0 + x * x * x * c.getD 3 0

/-- One straight piece of a curve: t, u and v when it is hit (R302). `cps` are the control points with their radii. -/
def pieceTest (oo dd : List ℚ) (cps : List (List ℚ)) (j : Nat) : Option (ℚ × ℚ × ℚ) :=
  let at_ (i k : Nat) : ℚ := bezier (cps.map fun p => p.getD i 0) k
  let a := [at_ 0 j, at_ 1 j, at_ 2 j]
  let b := [at_ 0 (j + 1), at_ 1 (j + 1), at_ 2 (j + 1)]
  let ra := at_ 3 j
  let rb := at_ 3 (j + 1)
  let q := sub3 a oo
  let e := sub3 b a
  let dn := dot3 dd dd
  let qa := dot3 e e - dot3 e dd * dot3 e dd / dn
  let qb := dot3 q e - dot3 q dd * dot3 e dd / dn
  let qc := dot3 q q - dot3 q dd * dot3 q dd / dn
  let m := if qa = 0 then 0 else max 0 (min 1 (-qb / qa))
  let rho := ra + m * (rb - ra)
  let f := qa * m * m + 2 * qb * m + qc
  if 0 < rho && f ≤ rho * rho then
    some ((dot3 q dd + m * dot3 e dd) / dn, ((j : ℚ) + m) / 16, f / (rho * rho))
  else none

/-- The test of a leaf (R301 to R303): no candidate, a candidate, or the reserved primitive index. -/
def Tracer.test (t : Tracer) (w : Walk) (n : Node) (b : Nat) : Except Stop (Option Cand) :=
  let word (i : Nat) : Word := BitVec.ofNat 32 (b / 2 ^ i)
  let tmin := recWord t.rec_ 96
  let opaque_ (bit : Bool) : Bool := t.flag 1 || (!t.flag 2 && bit)
  if n.typ = 1 then
    let prim := b / 2 ^ 288 % 2 ^ 32
    if prim = 0xFFFFFFFF then .error (.status 5)
    else
      let vs := (List.range 3).map fun v => (List.range 3).map fun k => word (96 * v + 32 * k)
      .ok <| match triangleTest n.o n.d vs with
      | none => none
      | some (tt, u, v, front) =>
        let culled := !b.testBit 321 && ((t.flag 4 && front) || (t.flag 3 && !front))
        if culled || !inTimes tmin w.tmax w.hit (.of tt) then none
        else some ⟨triangleTime n.o n.d vs tt, round32 u, round32 v, prim, n.inst, opaque_ (b.testBit 320)⟩
  else
    let prim := b / 2 ^ 512 % 2 ^ 32
    if prim = 0xFFFFFFFF then .error (.status 5)
    else
      let words := (List.range 4).map fun k => (List.range 4).map fun i => word (128 * k + 32 * i)
      .ok <|
      if !(words.all fun p => p.all finite32) then none
      else
        let hits := (List.range 16).filterMap fun j => pieceTest (rats n.o) (rats n.d) (words.map rats) j
        let hits := hits.filter fun h => inTimes tmin w.tmax w.hit (.of h.1)
        match hits with
        | [] => none
        | h :: r =>
          let best := r.foldl (fun x y => if y.1 < x.1 then y else x) h
          some ⟨round32 best.1, round32 best.2.1, round32 best.2.2, prim, n.inst, opaque_ (b.testBit 544)⟩

/-- Committing a candidate (R303). -/
def Walk.commit (w : Walk) (c : Cand) : Walk := { w with tmax := c.t, prim := c.prim, inst := c.inst, u := c.u, v := c.v }

/-! ## Traversal (R299, R300) -/

/-- The visit of a node of a type: one unit, or 16 for a curve leaf, within the budget (R300). -/
def Tracer.visit (t : Tracer) (w : Walk) (n : Node) : Except Stop Walk :=
  let r := w.r + (if n.typ = 2 then 16 else 1)
  if min (2 ^ field t.rec_ 344 8) 262080 < 64 * w.steps + r then .error (.status 4) else .ok { w with r := r, seen := (n.addr, n.typ) :: w.seen }

/-- `charge` (R299); what it charges is counted (R416, notes/assumptions/10.md). -/
def Walk.charge (w : Walk) : Walk := { w with steps := w.steps + (w.r + 63) / 64, r := 0, visits := w.visits + w.r }

/-- A stop with the walk as it stands, in which the visits since the last charge are not charged, and the walk at the last return point
passed or at the loop's start, if the loop has begun (R299). -/
structure Halt where
  walk : Walk
  stop : Stop
  back : Option Walk

/-- A step that may stop, with the walk it leaves. -/
def halting {α : Type} (w : Walk) (x : Except Stop α) : Except Halt α :=
  match x with
  | .ok a => .ok a
  | .error e => .error ⟨w, e, none⟩

/-- One descent from the root to a leaf or a dead end (R299): the walk, the depth, and the leaf with its contents. `xs` is one
more than the depth down to which nodes are already entered; the trail's entries lead the way. -/
def Tracer.descend (t : Tracer) (w : Walk) (xs : Nat) (n : Node) (d : Nat) : Nat → Except Halt (Walk × Nat × Option (Node × Nat))
  | 0 => .error ⟨w, .status 5, none⟩
  | fuel + 1 => do
    let w ← if xs ≤ d then halting w (t.visit w n) else .ok w
    let b ← halting w (t.read n d)
    if n.typ = 1 || n.typ = 2 then .ok (w, d, some (n, b))
    else match (t.kids w n b)[w.entry d]? with
      | some m => t.descend w xs m (d + 1) fuel
      | none => .ok (w, d, none)

/-- The number of kids of the node at a depth along the trail; 0 when the trail no longer leads there. -/
def Tracer.kidCount (t : Tracer) (w : Walk) (n : Node) (d goal : Nat) : Nat → Except Halt Nat
  | 0 => .ok 0
  | fuel + 1 => do
    if n.typ = 1 || n.typ = 2 then .ok 0
    else
      let b ← halting w (t.read n d)
      let ks := t.kids w n b
      if d = goal then .ok ks.length
      else match ks[w.entry d]? with
        | some m => t.kidCount w m (d + 1) goal fuel
        | none => .ok 0

/-- `advance` from a depth, counted from one; 0 ends the tree. The new depth so counted, or none when all is finished (R299). -/
def Tracer.advance (t : Tracer) (w : Walk) : Nat → Except Halt (Walk × Option Nat)
  | 0 => .ok ({ w with trail := 0 }, none)
  | e + 1 => do
    let n ← t.kidCount w t.root 0 e 18
    if n ≤ w.entry e + 1 then t.advance w e
    else .ok ({ w with trail := w.trail % 4 ^ e + (w.entry e + 1) * 4 ^ e }, some (e + 1))

/-- A traversal's outcome: its status, the walk, and the candidate when one is pending. -/
structure Traced where
  status : Nat
  walk : Walk
  cand : Option Cand
  deriving DecidableEq, Repr

/-- One round of the loop of R299: its outcome, or the walk at the return point that follows with one more than x. -/
def Tracer.round (t : Tracer) (w : Walk) (xs : Nat) : Except Halt (Traced ⊕ (Walk × Nat)) := do
  let (w, d, leaf) ← t.descend w xs t.root 0 18
  let cand ← match leaf with
    | some (n, b) => halting w (t.test w n b)
    | none => .ok none
  match cand with
  | some c =>
    if !c.opq then .ok (.inl ⟨2, w.charge, some c⟩)
    else if t.flag 0 then .ok (.inl ⟨1, { w.commit c with r := 0 }, none⟩)
    else
      match ← t.advance (w.commit c).charge d with
      | (w, none) => .ok (.inl ⟨1, w, none⟩)
      | (w, some xs) => .ok (.inr (w, xs))
  | none =>
    match ← t.advance w.charge d with
    | (w, none) => .ok (.inl ⟨if w.hit then 1 else 0, w, none⟩)
    | (w, some xs) => .ok (.inr (w, xs))

/-- The loop of R299. `xs` is one more than x; a drain stops it at the return point marked PREEMPTED before which it passes `drain`
others (R305). `fuel` bounds the rounds, each of which charges at least one visit. -/
def Tracer.loop (t : Tracer) (drain : Option Nat) (w : Walk) (xs : Nat) : Nat → Except Halt Traced
  | 0 => .ok ⟨4, w, none⟩
  | fuel + 1 =>
    match t.round w xs with
    | .error h => .error { h with back := some w }
    | .ok (.inl x) => .ok x
    | .ok (.inr (v, ys)) => if drain = some 0 then .ok ⟨3, v, none⟩ else t.loop (drain.map (· - 1)) v ys fuel

/-- Rounds that a budget allows. -/
def traceFuel : Nat := 262200

/-- One more than the deepest depth with a trail entry that is not zero. -/
def Walk.deepest (w : Walk) : Nat := (List.range 16).foldl (fun m d => if w.entry d ≠ 0 then d + 1 else m) 0

/-- `traverse` as `trace` calls it (R186, R299); `n` is what an earlier part of the call charged. A drain that reaches a new traversal
before its first visit stops it there, with TRAIL and STEPS 0; one that continues a PREEMPTED record stops at a return point (R305). -/
def Tracer.trace (t : Tracer) (n : Nat) (drain : Option Nat) : Except Halt Traced :=
  let w := { walkOf t.rec_ with visits := n }
  if recStatus t.rec_ = 3 then t.loop drain w w.deepest traceFuel
  else if drain = some 0 then .ok ⟨3, w.fresh, none⟩
  else t.loop (drain.map (· - 1)) w.fresh 0 traceFuel

/-- `tcont` on a pending record (R187, R304). -/
def Tracer.tcont (t : Tracer) (drain : Option Nat) (dec : Nat) (c : List Word) : Except Halt Traced := do
  let w := walkOf t.rec_
  let (_, d, _) ← t.descend w 18 t.root 0 18
  let cand : Cand := ⟨comp c 1, comp c 3, comp c 4, (comp c 2).toNat, (comp c 0).toNat / 4096, true⟩
  let takes := dec ≠ 1 && cand.prim ≠ 0xFFFFFFFF && xq32 cand.t ≠ .nan &&
    inTimes (recWord t.rec_ 96) w.tmax w.hit (xq32 cand.t)
  let w := if takes then w.commit cand else w
  if dec = 2 then .ok ⟨8, w, none⟩
  else if takes && t.flag 0 then .ok ⟨1, w, none⟩
  else
    match ← t.advance w d with
    | (w, none) => .ok ⟨if w.hit then 1 else 0, w, none⟩
    | (w, some xs) => if drain = some 0 then .ok ⟨3, w, none⟩ else t.loop (drain.map (· - 1)) w xs traceFuel

/-- The registers of a finished traversal (R186). -/
def traceRegs (tmax : Word) (r : Traced) : List Word :=
  let pack (inst : Nat) : Word := BitVec.ofNat 32 (r.status + inst * 4096)
  match r.cand with
  | some c => [pack c.inst, c.t, BitVec.ofNat 32 c.prim, c.u, c.v]
  | none =>
    if r.walk.hit && r.status ≠ 7 then [pack r.walk.inst, r.walk.tmax, BitVec.ofNat 32 r.walk.prim, r.walk.u, r.walk.v]
    else [pack 0xFFFFF, tmax, 0xFFFFFFFF, 0, 0]

/-! ## The instructions (R184 to R188) -/

/-- A helper thread's result: MISS with no hit (R168). -/
def helperTrace : List Word := [0xFFFFF000, 0x7F800000, 0xFFFFFFFF, 0, 0]

/-- The effect of `trace` and `tcont`: the record is write-locked, and the traversal goes in flight. -/
def State.issueTrace (s : State) (c : Issue) (th : Thread) (h : Head) (va : DWord) (dst : List Nat) (tf : Bool)
    (dec : Option Nat) (cand : List Word) : State :=
  let a := th.actor
  let go (token : Option Nat) (s : State) : State :=
    let s := s.startOp c th h dst (.traverse { va := va, tf := tf, decision := dec, candidate := cand, token := token })
    match s.ops.getLast? with
    | some o => (s.takeLocks th o.id [wantMem va.toNat 64 true]).setThread (th.advance c h s.now)
    | none => s
  match s.lookup a va 64 64 true false with
  | .fault cause f => s.raise c th cause 0 f
  | look =>
    if !s.locksFree th [wantMem va.toNat 64 true] || s.unperformed th.id then s.setThread (th.stall c h s.now)
    else match look with
    | .page f =>
      let (k, s) := s.pageFault th.ctx th.col th.core va 1 f
      go (some k) s
    | .leaf l =>
      match s.entryCheck a va l false false true with
      | (some cause, s) => s.raise c th cause 0 va
      | (none, s) => go none s
    | _ => go none s

/-- `trace` (R184, R186). -/
def execTrace (h : Head) (o : XF) (s : State) : Host.Outcome State Fault Refusal :=
  issue (.trace h o) h s fun s c th =>
    if th.helper then leasingReady h (rangeRegs o.d 5) helperTrace s c th
    else s.issueTrace c th h (th.pair o.a.toNat) (rangeRegs o.d 5) (o.fn.getLsbD 0) none []

/-- `tcont` (R184, R187). -/
def execTcont (h : Head) (o : XF) (s : State) : Host.Outcome State Fault Refusal :=
  issue (.tcont h o) h s fun s c th =>
    if th.helper then leasingReady h (rangeRegs o.d 5) helperTrace s c th
    else s.issueTrace c th h (th.pair o.a.toNat) (rangeRegs o.d 5) (o.fn.getLsbD 2) (some (fnNat o % 4)) (srcRange th o.b 5)

/-- Writing bytes of the record at its page (R186). -/
def State.writeRay (s : State) (a : Actor) (va : DWord) (b : List Byte) : State := s.engineWrite a 3 va.toNat b

/-- The reads of the nodes that a traversal visited, as their column's units make them: nodes entered again along the trail are taken
from a list that it keeps (R299, R353, R367, R416). -/
def State.noteNodes (s : State) (o : Op) (w : Walk) : State :=
  w.seen.foldl (fun t n => t.noteRead o.ctx o.col n.1 (nodeSize n.2)) s

/-- A traversal ends: the record is written, then the registers, or the trace fault of a `.t` form (R186, R188). -/
def State.endTrace (s : State) (o : Op) (t : Traversal) (r : BitVec 512) (x : Traced) : State :=
  let s :=
    if x.status = 7 then s.writeRay o.actor (t.va + 42) [7]
    else s.writeRay o.actor t.va (leBytes 64 (writeRecord r x.walk x.status).toNat)
  let s := (s.noteNodes o x.walk).count o.col 0x050 (some o.ctx) x.walk.visits
  if t.tf && (x.status = 5 || x.status = 6 || x.status = 7) then s.setOp { o with stage := .failed 0x11 x.status (some t.va) false }
  else s.setOp { o with stage := .ready (o.dst.zip (traceRegs (recWord r 224) x)) false }

/-- Marked node data: a deferred fault, and the ray is recorded as failed (R306). -/
def State.poisonTrace (s : State) (o : Op) (va : DWord) : State :=
  (s.record { s.actorRecord o.actor 5 0x0F true with addr := va }).setOp { o with stage := .failed 0x0F 0 none false }

/-- A node's page faults: the traversal waits, and goes on from the last return point that it passed (R305, R306). -/
def State.holdTrace (s : State) (o : Op) (t : Traversal) (r : BitVec 512) (n : Nat) (back : Option Walk) (va : DWord) (f : WalkFail) : State :=
  let s := match back with | some w => s.noteNodes o w | none => s
  let (k, s) := s.pageFault o.ctx o.col 0x7F va 4 f
  let u := match back with
    | some w => { t with record := some (writeRecord r w 3, w.visits), decision := none }
    | none => { t with record := some (r, n) }
  s.setOp { o with stage := .traverse { u with token := some k } }

/-- Carrying out a traversal of the record that it read (R186, R187, R306). -/
def State.goTrace (s : State) (o : Op) (t : Traversal) (r : BitVec 512) (n : Nat) (drain : Option Nat) : State :=
  let u : Tracer := ⟨s, o.actor, r, t.dead, t.freed⟩
  if recInvalid r || decide ((recStatus r = 2) ≠ t.decision.isSome) then s.endTrace o t r ⟨7, walkOf r, none⟩
  else
    match (match t.decision with | none => u.trace n drain | some k => u.tcont drain k t.candidate) with
    | .ok x => s.endTrace o t r x
    | .error h =>
      match h.stop with
      | .status k => s.endTrace o t r ⟨k, { h.walk with r := 0 }, none⟩
      | .poison => ((s.noteNodes o h.walk).count o.col 0x050 (some o.ctx) h.walk.visits).poisonTrace o t.va
      | .page va f => s.holdTrace o t r n h.back va f

/-- Carrying out a traversal: its record is read under the mapping that its page has then, which is checked as at an issue (R122, R184,
R350 to R352). -/
def State.runTrace (s : State) (o : Op) (t : Traversal) (drain : Option Nat) : State :=
  match t.record with
  | some (r, n) => s.goTrace o t r n drain
  | none =>
    match s.lookup o.actor t.va 64 0 true false with
    | .fault cause addr => s.setOp { o with stage := .failed cause 0 (some addr) true }
    | .page f =>
      let (k, s) := s.pageFault o.ctx o.col o.core t.va 1 f
      s.setOp { o with stage := .traverse { t with token := some k } }
    | look =>
      match (match look with | .leaf l => s.entryCheck o.actor t.va l false false true | _ => (none, s)) with
      | (some cause, s) => s.setOp { o with stage := .failed cause 0 none true }
      | (none, s) =>
        match s.engineRead o.actor false 2 t.va.toNat 64 with
        | .error (.fail (some 2)) => s.setOp { o with stage := .failed 0x0F 0 none false }
        | .error _ => s.setOp { o with stage := .failed 0x07 0 (some t.va) true }
        | .ok b => (s.noteRead o.ctx o.col t.va.toNat 64).goTrace o t (desc512 b) 0 drain

/-- The earliest stop that a drain may still give a traversal: one that has begun its first visit goes on to a return point (R305). -/
def Traversal.leastStop (t : Traversal) : Nat :=
  match t.record with
  | some (r, _) => if t.decision.isNone && recStatus r ≠ 3 then 1 else 0
  | none => 0

/-- TRAVERSAL_COMPLETION: a traversal that waits for no page ends; it stops early only when a drain reaches its thread (R186,
R305, R379). -/
def execTraversalCompletion (op : Nat) (drained : Bool) (s : State) : Host.Outcome State Fault Refusal :=
  .next <| match s.op? op with
  | none => s
  | some o =>
    match o.stage with
    | .traverse t =>
      let parked := match s.thread? o.tid with | some th => th.parked | none => false
      let drain := if t.drained then some t.leastStop
        else if drained && parked then some (max t.leastStop (Config.drainPoint op)) else none
      if t.token.isSome || s.recordsFull o.col then s else s.runTrace o t drain
    | _ => s

end Sys2Proof.Machine
end

