-- ==== Sys2Proof/Machine/Copy.lean ====
section
/-! DEFINITION. The copy engines (R198, R307 to R315). -/

namespace Sys2Proof.Machine

/-! ## The descriptor (R307 to R309) -/

/-- A signed 32-bit field. -/
def sfield (d : BitVec 512) (i : Nat) : Int := sextNat 32 (field d i 32)

/-- One side of a copy. -/
structure Side where
  kind : Nat
  base : Nat
  hnd : Nat
  strides : List Int
  esz : Nat
  fmt : Nat
  deriving DecidableEq, Repr

/-- Extent of dimension `n`. -/
def copyX (d : BitVec 512) (n : Nat) : Nat := field d (320 + 16 * n) 16 + 1
/-- Elements in all. -/
def copyCount (d : BitVec 512) : Nat := copyX d 0 * copyX d 1 * copyX d 2 * copyX d 3
/-- SFMT. -/
def copySfmt (d : BitVec 512) : Nat := field d 428 4
/-- DFMT. -/
def copyDfmt (d : BitVec 512) : Nat := field d 432 4
/-- Bytes of an element of a format. -/
def fmtBytes (f : Nat) : Nat := (fmtOf f).bits / 8
/-- Source element size. -/
def copyEsz (d : BitVec 512) : Nat := 2 ^ field d 422 3
/-- LBS. -/
def copyLbs (d : BitVec 512) : Nat := field d 425 3

/-- The source. -/
def copySource (d : BitVec 512) : Side :=
  ⟨field d 416 3, field d 0 64, field d 384 16, [sfield d 128, sfield d 160, sfield d 192], copyEsz d, copySfmt d⟩

/-- The destination. -/
def copyDest (d : BitVec 512) : Side :=
  ⟨field d 419 3, field d 64 64, field d 400 16, [sfield d 224, sfield d 256, sfield d 288],
    if copySfmt d = 0 && copyDfmt d = 0 then copyEsz d else fmtBytes (copyDfmt d), copyDfmt d⟩

/-- The failing conditions of a side, each with the lowest byte of a field that takes part: `b`, `n`, `st` are the bytes of its
base, handle and first stride; `tb` is the texel size of its surface when that is in use (R308, R309). -/
def Side.faults (x : Side) (d : BitVec 512) (b n st : Nat) (tb : Option Nat) : List (Bool × Nat) :=
  [(decide (5 ≤ x.kind), 52),
   (!(x.kind = 2 || x.kind = 3) && x.hnd ≠ 0, n)] ++
  if x.kind = 2 then
    [(copySfmt d ≠ 0 || copyDfmt d ≠ 0, 52),
     (match tb with | some t => decide (t ≠ x.esz) | none => false, n),
     (decide (2 ^ 48 ≤ x.base), b), (copyX d 3 ≠ 1, 46)] ++
      (x.strides.zipIdx.map fun s => (decide (s.1 ≠ 0), st + 4 * s.2))
  else []

/-- The texel size of a surface in use. -/
def State.texelSizeOf (s : State) (ctx h : Nat) : Option Nat := (s.surface? ctx h).map Surface.tb

/-- The lowest byte of a failing field (R169, R309). -/
def State.copyFault (s : State) (ctx : Nat) (d : BitVec 512) : Option Nat :=
  let sf := copySfmt d
  let df := copyDfmt d
  let conds : List (Bool × Nat) :=
    [(decide (field d 442 70 ≠ 0), 55), (decide (5 ≤ field d 422 3), 52), (decide (5 ≤ copyLbs d), 53),
     (decide (sf = 0) != decide (df = 0), 53), (sf ≠ 0 && (sf < 8 || 12 < sf), 53), (df ≠ 0 && (df < 8 || 12 < df), 54),
     (sf ≠ 0 && copyEsz d ≠ fmtBytes sf, 52), (d.getLsbD 436 && sf = 0 && df = 0, 53),
     (decide (2 ^ 40 < copyCount d * copyEsz d), 40)] ++
      (copySource d).faults d 0 48 16 (s.texelSizeOf ctx (copySource d).hnd) ++
      (copyDest d).faults d 8 50 28 (s.texelSizeOf ctx (copyDest d).hnd)
  (conds.filter (·.1)).foldl (fun m c => some (match m with | some x => min x c.2 | none => c.2)) none

/-! ## Places (R308, R311) -/

/-- The indexes of element `e`. -/
def copyIndex (d : BitVec 512) (e : Nat) : Nat × Nat × Nat × Nat :=
  let x0 := copyX d 0
  let x1 := copyX d 1
  let x2 := copyX d 2
  (e % x0, e / x0 % x1, e / (x0 * x1) % x2, e / (x0 * x1 * x2))

/-- The address or offset of an element on a side that is no surface. -/
def Side.place (x : Side) (i : Nat × Nat × Nat × Nat) : Int :=
  (x.base : Int) + i.1 * x.esz + i.2.1 * x.strides.getD 0 0 + i.2.2.1 * x.strides.getD 1 0 + i.2.2.2 * x.strides.getD 2 0

/-- The texel of an element on a surface side: x, y and layer. -/
def Side.texel (x : Side) (i : Nat × Nat × Nat × Nat) : Nat × Nat × Nat :=
  (x.base % 2 ^ 16 + i.1, x.base / 2 ^ 16 % 2 ^ 16 + i.2.1, x.base / 2 ^ 32 % 2 ^ 16 + i.2.2.1)

/-- The lowest byte a side touches and one past the highest (R311). -/
def Side.extent (x : Side) (d : BitVec 512) : Int × Int :=
  let span (n : Nat) : Int := ((copyX d n : Int) - 1) * x.strides.getD (n - 1) 0
  ((x.base : Int) + min 0 (span 1) + min 0 (span 2) + min 0 (span 3),
    (x.base : Int) + copyX d 0 * x.esz + max 0 (span 1) + max 0 (span 2) + max 0 (span 3))

/-- The lock of a side (R169, R311): of a surface side, the bytes within the surface. -/
def State.sideWant (s : State) (ctx : Nat) (d : BitVec 512) (x : Side) (write : Bool) : List Want :=
  let e := x.extent d
  match x.kind with
  | 0 =>
    let va := (e.1 % 2 ^ 64).toNat
    let n := (e.2 - e.1).toNat
    if write then [wantMem va n true] else s.readWant ctx va n
  | 1 => [(⟨.scratch, e.1.toNat, e.2.toNat, write⟩ : Want)]
  | 2 =>
    match s.surface? ctx x.hnd with
    | some f =>
      let a := x.texel (0, 0, 0, 0)
      let b := x.texel (copyX d 0 - 1, copyX d 1 - 1, copyX d 2 - 1, 0)
      if !f.inside a.1 a.2.1 a.2.2 0 then []
      else [(⟨.surface x.hnd, f.viewPlace a.1 a.2.1 a.2.2,
        f.viewPlace (min b.1 (f.width - 1)) (min b.2.1 (f.height - 1)) (min b.2.2 (f.layers - 1)) + f.tb, write⟩ : Want)]
    | none => []
  | 3 => [(⟨.surface x.hnd, e.1.toNat, e.2.toNat, write⟩ : Want)]
  | _ => []

/-- The ranges a copy locks. -/
def State.copyWants (s : State) (ctx : Nat) (d : BitVec 512) : List Want :=
  s.sideWant ctx d (copySource d) false ++ s.sideWant ctx d (copyDest d) true

/-- A release at the scope of a side in memory (R169, R311). -/
def State.releaseSide (s : State) (col ctx : Nat) (d : BitVec 512) (x : Side) : State :=
  let e := x.extent d
  if x.kind = 0 then s.releaseAt col ctx (e.1 % 2 ^ 64).toNat (e.2 - e.1).toNat else s

/-- The completion barrier. -/
def copyBar (d : BitVec 512) : Option Nat := if d.getLsbD 437 then some (field d 438 4) else none

/-- A scratchpad side leaves the team's allocation (R309). -/
def State.leavesScratch (s : State) (th : Thread) (d : BitVec 512) (x : Side) : Bool :=
  x.kind = 1 && (decide ((x.extent d).1 < 0) ||
    decide ((((s.team? th.team).map Team.scratchSize).getD 0 : Int) < (x.extent d).2))

/-- `copy` (R198, R309): nothing in a helper thread (R168). -/
def execCopy (h : Head) (o : XF) (s : State) : Host.Outcome State Fault Refusal :=
  issue (.copy h o) h s fun s c th =>
    if th.helper then s.setThread (th.advance c h s.now)
    else if s.unperformed th.id then s.setThread (th.stall c h s.now)
    else
      let va := th.pair o.a.toNat
      s.readAtIssue c th h va fun s b =>
        let d := desc512 b
        match s.copyFault th.ctx d with
        | some k => s.raise c th 0x01 0 (va + BitVec.ofNat 64 k)
        | none =>
          if (copyDest d).kind = 4 then s.raiseFree c th 0x13
          else if s.leavesScratch th d (copySource d) || s.leavesScratch th d (copyDest d) then s.raiseFree c th 0x07
          else if s.barMisuse th.team (copyBar d) then s.raiseFree c th 0x15
          else
            let ws := s.copyWants th.ctx d
            if s.locksFree th ws then
              let s := (s.releaseSide th.col th.ctx d (copySource d)).releaseSide th.col th.ctx d (copyDest d)
              (s.startEngine th va (copyBar d) (.copy ⟨d, 4, [], .running, [], [], none, []⟩) ws).setThread (th.advance c h s.now)
            else s.setThread (th.stall c h s.now)

/-! ## Reading and writing elements (R310, R313) -/

/-- Why an element cannot be moved now: a page, a spilled tile, an empty result line at an address, or a failure with REASON and FADDR. -/
inductive Miss where
  | page (va : DWord) (write : Bool) (f : WalkFail)
  | tile
  | empty (va : Nat)
  | fail (reason addr : Nat)
  deriving DecidableEq, Repr

/-- A byte of global memory as a source (R313). -/
def State.sourceByte (s : State) (a : Actor) (va : Nat) : Except Miss Byte :=
  if !canonical (BitVec.ofNat 64 va) || inWindow va then .error (.fail 1 va)
  else match s.translate a.ctx va with
  | .error f => .error (.page (BitVec.ofNat 64 va) false f)
  | .ok l =>
    let inkBad := l.cls = 1 && (match s.inkAt a.ctx va with
      | none => true
      | some r => decide (r.rstate = 2) || (decide (r.rstate = 0) && decide (r.watermark < va + 1 - r.base)))
    if (l.share = 0 && l.owner ≠ a.col) || regionOf l.pa = 4 then .error (.fail 1 va)
    else if inkBad then .error (.fail 7 va)
    else if s.unused l then .ok 0
    else if l.cls = 4 && s.lineEmpty (l.pa / 128) then .error (.empty va)
    else if s.unreadable a l 1 then .error (.fail 3 va)
    else .ok ((s.columnRead a.col l.pa 1).headD 0)

/-- A byte of a tensor view (R251, R313): a side with no format accepts any view (notes/assumptions/18.md). -/
def State.viewPlaceOf (s : State) (ctx : Nat) (x : Side) (o : Int) : Except Miss (Surface × ViewByte) :=
  match s.surface? ctx x.hnd with
  | none => .error (.fail 5 (o % 2 ^ 64).toNat)
  | some f =>
    if f.tvfmt = 0 || (x.fmt ≠ 0 && f.tvfmt ≠ x.fmt) then .error (.fail 5 (o % 2 ^ 64).toNat)
    else if o < 0 || f.viewByte o.toNat = .outside then .error (.fail 4 (o % 2 ^ 64).toNat)
    else match f.viewByte o.toNat with
    | .texel p t => if f.waits t then .error .tile else .ok (f, .texel p t)
    | v => .ok (f, v)

/-- The surface of a side while its entry is valid with the texel size it had at issue (R249, R309). -/
def State.sideSurface (s : State) (ctx : Nat) (x : Side) : Option Surface := (s.surface? ctx x.hnd).filter fun f => f.tb = x.esz

/-- The bytes of an element at its source. FADDR of a surface side whose entry is no longer valid is the side's base, packed as the
descriptor holds it, with i0·esz added (DESIGN CHOICE, notes/assumptions/84.md). -/
def State.sourceElement (s : State) (e : EngOp) (x : Side) (i : Nat × Nat × Nat × Nat) : Except Miss (List Byte) :=
  let at_ := x.place i
  let off := (at_ % 2 ^ 64).toNat
  match x.kind with
  | 0 => (List.range x.esz).mapM fun k => s.sourceByte e.actor ((at_ + k) % 2 ^ 64).toNat
  | 1 => (List.range x.esz).mapM fun k =>
      match s.scratchRead e.team (windowBase + off + k) 1 with
      | .ok b => .ok (b.headD 0)
      | .error _ => .error (.fail 3 (off + k))
  | 2 =>
    match s.sideSurface e.ctx x with
    | none => .error (.fail 5 off)
    | some f =>
      let (px, py, pl) := x.texel i
      if !f.inside px py pl 0 then .ok (List.replicate x.esz 0)
      else if f.waits (f.tileOf px py pl) then .error .tile
      else match (List.range x.esz).find? fun k => f.poison.contains ((f.place px py pl 0 + k) / 32) with
        | some k => .error (.fail 3 (f.viewPlace px py pl + k))
        | none => .ok (f.texel px py pl 0)
  | 3 => (List.range x.esz).mapM fun (k : Nat) =>
      match s.viewPlaceOf e.ctx x (at_ + (k : Int)) with
      | .error m => .error m
      | .ok (f, .texel p _) => if f.poison.contains (p / 32) then .error (.fail 3 (off + k)) else .ok (cellRead p f.texels)
      | .ok _ => .ok 0
  | _ =>
    if at_ < 0 then .error (.fail 6 off)
    else (List.range x.esz).mapM fun k =>
      match s.weightRead e.ctx e.col (off + k) 1 with
      | .ok b => .ok (b.headD 0)
      | .error (.fail (some 6)) => .error (.fail 6 (off + k))
      | .error _ => .error (.fail 3 (off + k))

/-- A byte of global memory as a destination can be written (R313). -/
def State.destByte (s : State) (a : Actor) (va : Nat) : Except Miss Unit :=
  if !canonical (BitVec.ofNat 64 va) || inWindow va then .error (.fail 2 va)
  else match s.translate a.ctx va with
  | .error f => .error (.page (BitVec.ofNat 64 va) true f)
  | .ok l =>
    if l.share = 0 && l.owner ≠ a.col then .error (.fail 2 va)
    else if !(l.cls = 0 || l.cls = 2) then .error (.fail 7 va)
    else if !l.w then .error (.page (BitVec.ofNat 64 va) true ⟨if l.size = 2 ^ 30 then 2 else if l.size = 2 ^ 21 then 1 else 0, 3⟩)
    else .ok ()

/-- An element can be written at its destination. -/
def State.destElement (s : State) (e : EngOp) (x : Side) (i : Nat × Nat × Nat × Nat) : Except Miss Unit :=
  let at_ := x.place i
  match x.kind with
  | 0 => do
    let _ ← (List.range x.esz).mapM fun (k : Nat) => s.destByte e.actor ((at_ + k) % 2 ^ 64).toNat
    .ok ()
  | 2 =>
    match s.sideSurface e.ctx x with
    | none => .error (.fail 5 (at_ % 2 ^ 64).toNat)
    | some f =>
      let (px, py, pl) := x.texel i
      if f.inside px py pl 0 && f.waits (f.tileOf px py pl) then .error .tile else .ok ()
  | 3 => do
    let _ ← (List.range x.esz).mapM fun (k : Nat) => s.viewPlaceOf e.ctx x (at_ + k)
    .ok ()
  | _ => .ok ()

/-- A surface's texel bytes with one written, its tile used now. -/
def Surface.poke (f : Surface) (p tile now : Nat) (b : Byte) : Surface := (f.write p [b]).use tile now

/-- Writing an element's bytes at its destination. -/
def State.putElement (s : State) (e : EngOp) (x : Side) (i : Nat × Nat × Nat × Nat) (b : List Byte) : State :=
  let at_ := x.place i
  match x.kind with
  | 0 => s.engineWrite e.actor 3 (at_ % 2 ^ 64).toNat b
  | 1 => s.engineWrite e.actor 3 (windowBase + at_.toNat) b
  | 2 =>
    match s.sideSurface e.ctx x with
    | none => s
    | some f =>
      let (px, py, pl) := x.texel i
      if f.inside px py pl 0 then s.setSurface ((f.put px py pl 0 b).use (f.tileOf px py pl) s.now) else s
  | 3 => b.zipIdx.foldl (fun s c =>
      match s.viewPlaceOf e.ctx x (at_ + c.2) with
      | .ok (f, .texel p t) => s.setSurface (f.poke p t s.now c.1)
      | _ => s) s
  | _ => s

/-- An element converted (R308): a widening from a narrower format to binary32 is exact, and CS does nothing there
(R42). -/
def copyConvert (d : BitVec 512) (b : List Byte) : List Byte :=
  if copySfmt d = 0 then b
  else leBytes (fmtBytes (copyDfmt d))
    (convert (fmtOf (copyDfmt d)) 0 (d.getLsbD 436 && (copyDfmt d ≠ 8 || copySfmt d = 8)) (unpack (fmtOf (copySfmt d)) (leNat b)))

/-! ## Chunks (R310, R312) -/

/-- Elements of a chunk. -/
def chunkSize (d : BitVec 512) : Nat := 4096 / copyEsz d

/-- NCHUNK. -/
def chunkCount (d : BitVec 512) : Nat := (copyCount d + chunkSize d - 1) / chunkSize d

/-- The elements of chunk `k`. -/
def chunkElements (d : BitVec 512) (k : Nat) : List Nat :=
  (List.range (min (chunkSize d) (copyCount d - k * chunkSize d))).map (k * chunkSize d + ·)

/-- The key of the row that holds an element (R312). -/
def rowKey (d : BitVec 512) (e : Nat) (bytes : List Byte) : BufRow :=
  let x := copySource d
  let i := copyIndex d e
  let t := x.texel (0, i.2.1, i.2.2.1, i.2.2.2)
  { kind := x.kind, handle := x.hnd, esz := field d 422 3, fmt := copySfmt d, bytes := bytes
    addr := if x.kind = 2 then t.1 + t.2.1 * 2 ^ 16 + t.2.2 * 2 ^ 32 else (x.place (0, i.2.1, i.2.2.1, i.2.2.2) % 2 ^ 64).toNat }

/-- The bytes of an element in a row that the slot keeps. -/
def State.buffered (s : State) (e : EngOp) (d : BitVec 512) (k : Nat) : Option (List Byte) :=
  if copyLbs d = 0 then none
  else match s.team? e.team with
  | none => none
  | some t =>
    let key := rowKey d k []
    ((t.lineBufs.getD (copyLbs d - 1) []).find? fun r => { r with bytes := [] } = key).bind fun r =>
      let i := (copyIndex d k).1 * copyEsz d
      if i + copyEsz d ≤ r.bytes.length then some ((r.bytes.drop i).take (copyEsz d)) else none

/-- The source bytes of an element, from the slot or from its source. -/
def State.fetchElement (s : State) (e : EngOp) (d : BitVec 512) (k : Nat) : Except Miss (List Byte) :=
  match s.buffered e d k with
  | some b => .ok b
  | none => s.sourceElement e (copySource d) (copyIndex d k)

/-- Reading a chunk whole and checking its destinations (R310): the elements' source bytes. -/
def State.readChunk (s : State) (e : EngOp) (d : BitVec 512) (k : Nat) : Except Miss (List (List Byte)) := do
  let b ← (chunkElements d k).mapM fun i => s.fetchElement e d i
  let _ ← (chunkElements d k).mapM fun i => s.destElement e (copyDest d) (copyIndex d i)
  .ok b

/-- Neighbours that are equal, once. -/
def runs : List Nat → List Nat
  | a :: b :: r => if a = b then runs (b :: r) else a :: runs (b :: r)
  | l => l

/-- The lines of memory that elements at those places touch, in order. -/
def Side.lines (x : Side) (ps : List Int) : List Nat :=
  runs (ps.flatMap fun p =>
    let va := (p % 2 ^ 64).toNat
    (List.range ((va % 128 + x.esz + 127) / 128)).map (va / 128 + ·))

/-- Reading an element uses the tile it lies in (R252). -/
def State.touchSource (s : State) (e : EngOp) (x : Side) (i : Nat × Nat × Nat × Nat) : State :=
  match x.kind with
  | 2 =>
    let (px, py, pl) := x.texel i
    match s.surface? e.ctx x.hnd with
    | some f => if f.inside px py pl 0 then s.touchTiles e.ctx x.hnd [f.tileOf px py pl] else s
    | none => s
  | 3 => s.touchView e.ctx x.hnd (x.place i).toNat x.esz
  | _ => s

/-- What the reads of a chunk leave behind, those of memory line by line (R234, R252, R367). -/
def State.touchChunk (s : State) (e : EngOp) (d : BitVec 512) (k : Nat) : State :=
  let x := copySource d
  let is_ := ((chunkElements d k).filter fun i => (s.buffered e d i).isNone).map (copyIndex d)
  if x.kind = 0 then (x.lines (is_.map x.place)).foldl (fun s n => s.noteRead e.ctx e.col (128 * n) 128) s
  else is_.foldl (fun s i => s.touchSource e x i) s

/-- Writing a chunk that has been read, its elements in the order of the enumeration (R310). -/
def State.writeChunk (s : State) (e : EngOp) (d : BitVec 512) (k : Nat) (b : List (List Byte)) : State :=
  let s := s.touchChunk e d k
  ((chunkElements d k).zip b).foldl (fun s p => s.putElement e (copyDest d) (copyIndex d p.1) (copyConvert d p.2)) s

/-- The lowest chunk that is not written. -/
def CopyJob.cursor (j : CopyJob) : Nat := ((List.range (chunkCount j.desc)).find? fun k => !j.written.contains k).getD (chunkCount j.desc)

/-- A span of a page added to the spans of pages. -/
def addSpan (page lo hi : Nat) : List (Nat × Nat × Nat) → List (Nat × Nat × Nat)
  | [] => [(page, lo, hi)]
  | (q, a, b) :: r => if q = page then (q, min a lo, max b hi) :: r else (q, a, b) :: addSpan page lo hi r

/-- The spans of pages, by number, that elements at those places of the address space touch; an element lies on two pages at most. -/
def Side.pageSpans (x : Side) (ps : List Int) : List (Nat × Nat × Nat) :=
  ps.foldl (fun l p =>
    let va := (p % 2 ^ 64).toNat
    let o := va % 65536
    if o + x.esz ≤ 65536 then addSpan (va / 65536) o (o + x.esz) l
    else addSpan ((va / 65536 + 1) % 2 ^ 48) 0 (o + x.esz - 65536) (addSpan (va / 65536) o 65536 l)) []

/-- The bytes that a chunk touches on a side, as spans of frames: those of memory in the frames that its pages show now, or of the pages
themselves while they are not mapped (notes/assumptions/21.md); those of scratchpad as one. -/
def State.chunkSpans (s : State) (ctx : Nat) (x : Side) (d : BitVec 512) (k : Nat) : List (Nat × Nat × Nat) :=
  let ps := (chunkElements d k).map fun i => x.place (copyIndex d i)
  if x.kind = 0 then
    (x.pageSpans ps).map fun p =>
      match s.translate ctx (p.1 * 65536) with
      | .ok l => (2 * (l.pa / 65536) + 1, p.2)
      | .error _ => (2 * p.1, p.2)
  else [(0, (ps.foldl min (ps.headD 0)).toNat, (ps.foldl max (ps.headD 0)).toNat + x.esz)]

/-- Bytes of a chunk on one side may be bytes of a chunk on another: of one surface always, else where the spans meet. -/
def State.chunksMeet (s : State) (ctx : Nat) (d : BitVec 512) (x : Side) (k : Nat) (y : Side) (m : Nat) : Bool :=
  if (x.kind = 2 || x.kind = 3) && (y.kind = 2 || y.kind = 3) then x.hnd = y.hnd
  else x.kind = y.kind && x.kind < 2 &&
    (s.chunkSpans ctx x d k).any fun p => (s.chunkSpans ctx y d m).any fun q => p.1 = q.1 && p.2.1 < q.2.2 && q.2.1 < p.2.2

/-- A chunk must wait for a lower one: a byte that both write ends with the later element's value, and a byte that the lower one reads
is not yet written (R310). -/
def State.chunkAfter (s : State) (ctx : Nat) (d : BitVec 512) (k m : Nat) : Bool :=
  s.chunksMeet ctx d (copyDest d) k (copyDest d) m || s.chunksMeet ctx d (copyDest d) k (copySource d) m

/-- A chunk may run: it is not written, it is within 16 of the cursor, and no lower chunk must go first (R310). -/
def State.startable (s : State) (ctx : Nat) (j : CopyJob) (k : Nat) : Bool :=
  k < chunkCount j.desc && !j.written.contains k && decide (k < j.cursor + 16) && !j.failing.any (·.1 = k) &&
    (List.range (k - j.cursor)).all fun i => j.written.contains (j.cursor + i) || !s.chunkAfter ctx j.desc k (j.cursor + i)

/-- The chunks in flight: those that wait for a page or at an empty result line (R313, R315). -/
def CopyJob.inFlight (j : CopyJob) : List Nat :=
  ((j.missed.map (·.1)).toList ++ j.arrived.map (·.1)).filter fun k => !j.written.contains k && !j.failing.any (·.1 = k)

/-- Engines of a column that a copy holds. -/
def State.enginesBusy (s : State) (col id : Nat) : List Nat :=
  s.engines.ops.filterMap fun e => match e.engine with | .copy j => if e.col = col && e.id ≠ id then some j.engine else none | _ => none

/-- The engine a copy runs on: its own, or the lowest free one (R307). -/
def State.engineFor (s : State) (e : EngOp) (j : CopyJob) : Option Nat :=
  if j.engine < 4 then some j.engine else (List.range 4).find? fun k => !(s.enginesBusy e.col e.id).contains k

/-- The team is marked for a save, or saved: no new chunk starts (R315). -/
def State.paused (s : State) (team : Nat) : Bool := match s.team? team with | some t => t.marked.isSome | none => true

/-- A copy that can run a chunk now, with its engine: a chunk in flight, or a new one while none has failed and the team is not marked
(R313, R315). -/
def State.runnable (s : State) (eop chunk : Nat) : Option (EngOp × CopyJob) :=
  match s.engOp? eop with
  | none => none
  | some e =>
    match e.engine with
    | .copy j =>
      match s.engineFor e j with
      | some k =>
        if j.phase = .running && s.startable e.ctx j chunk && (j.inFlight.contains chunk || (j.failing.isEmpty && !s.paused e.team)) &&
            !s.recordsFull e.col then some (e, { j with engine := k })
        else none
      | none => none
    | _ => none

/-- The bytes of a copy fault record (R313). -/
def CopyJob.record (j : CopyJob) (e : EngOp) (chunk reason faddr : Nat) : List Byte :=
  let c := j.cursor
  let wdone := ((List.range 16).map fun i => if j.written.contains (c + i) then 2 ^ i else 0).sum
  leBytes 64 (e.at_.toNat * 2 ^ 448 + faddr % 2 ^ 64 * 2 ^ 384 + c % 2 ^ 32 * 2 ^ 352 + chunkCount j.desc % 2 ^ 32 * 2 ^ 320 +
    wdone * 2 ^ 304 + (chunk - c) % 16 * 2 ^ 300 + reason % 16 * 2 ^ 296 + e.col % 32 * 2 ^ 291 + e.core % 128 * 2 ^ 284 +
    j.engine % 4 * 2 ^ 282 + e.ctx % 64 * 2 ^ 276)

/-- A copy's record is posted, and the copy knows its address; or it waits in the column for room (R313, R413). -/
def State.postCopy (s : State) (e : EngOp) (j : CopyJob) (reason faddr : Nat) (bytes : List Byte) : State :=
  let d := (s.context e.ctx).desc
  let base := field d 384 64
  let log := field d 60 4
  if (s.heldRecords.all fun r => r.ctx ≠ e.ctx) && s.ringRoom base log then
    let at_ := base + 64 + 64 * (s.peekNat base 4 % 2 ^ log)
    (s.ringPost base log bytes).setEngOp { e with engine := .copy { j with phase := .failed reason faddr (some at_) } }
  else
    ({ s with heldRecords := s.heldRecords ++ [(⟨e.col, e.ctx, bytes, e.id⟩ : HeldRecord)] }).setEngOp
      { e with engine := .copy { j with phase := .failed reason faddr none } }

/-- The lowest chunk that has failed, with REASON and FADDR. -/
def CopyJob.lowest (j : CopyJob) : Option (Nat × Nat × Nat) :=
  j.failing.foldl (fun best f => match best with | some b => if f.1 < b.1 then some f else some b | none => some f) none

/-- A copy after a chunk of it has ended: once a chunk has failed and no other is in flight, its record is written (R313). -/
def State.settleCopy (s : State) (e : EngOp) (j : CopyJob) : State :=
  match j.lowest with
  | some (k, reason, faddr) =>
    if j.inFlight.isEmpty then
      s.postCopy { e with dead := none } { j with arrived := [], missed := none, failing := [] } reason faddr (j.record e k reason faddr)
    else s.setEngOp { e with engine := .copy j }
  | none => s.setEngOp { e with engine := .copy j }

/-- The line of memory at an address is of the second tier or of a peer. -/
def State.isRemote (s : State) (ctx line : Nat) : Bool :=
  match s.translate ctx (128 * line) with | .ok l => regionOf l.pa = 1 || regionOf l.pa = 3 | .error _ => false

/-- The lines that a chunk touches on a side in memory. -/
def Side.chunkLines (x : Side) (d : BitVec 512) (k : Nat) : List Nat :=
  if x.kind = 0 then x.lines ((chunkElements d k).map fun i => x.place (copyIndex d i)) else []

/-- A source line of a chunk whose request may be the one that was ended without an answer (R390, R392). -/
def State.lostSource (s : State) (e : EngOp) (d : BitVec 512) (k : Nat) : Option Nat :=
  if e.lost then ((copySource d).chunkLines d k).find? (s.isRemote e.ctx) else none

/-- A write of the chunk has no answer: its port or peer serves nothing, or it was the request that was ended (R390, R392). -/
def State.lostDest (s : State) (e : EngOp) (d : BitVec 512) (k : Nat) : Bool :=
  ((copyDest d).chunkLines d k).any fun n =>
    match s.translate e.ctx (128 * n) with
    | .ok l => !s.served l.pa || (e.lost && s.isRemote e.ctx n)
    | .error _ => false

/-- COPY_CHUNK_COMPLETE (R310): the chunk is read whole, then written; a page without a valid leaf posts its record and the
chunk waits (R352), as it does at an empty result line (R318). A write that has no answer is recorded as failed (R390,
notes/assumptions/75.md). -/
def execCopyChunkComplete (eop chunk : Nat) (s : State) : Host.Outcome State Fault Refusal :=
  .next <| match s.runnable eop chunk with
  | none => s
  | some (e, j) =>
    if e.token.isSome || e.dead.isSome || (s.lostSource e j.desc chunk).isSome then s
    else match s.readChunk e j.desc chunk with
    | .ok b =>
      let rows := if copyLbs j.desc = 0 then [] else (chunk, b.flatten) :: j.rows
      let gone := s.lostDest e j.desc chunk
      let s := s.writeChunk e j.desc chunk b
      (if gone then s.recordEngine e none else s).settleCopy { e with lost := e.lost && !gone } { j with
        written := chunk :: j.written, rows := rows, arrived := j.arrived.filter (·.1 ≠ chunk)
        missed := j.missed.filter (·.1 ≠ chunk) }
    | .error (.page va w f) => s.engineFault { e with engine := .copy { j with missed := some (chunk, va.toNat, w) } } va w f
    | .error .tile => s
    | .error (.empty va) =>
      if j.arrived.any fun p => p.1 = chunk && p.2.1 = va / 128 then s
      else s.setEngOp { e with engine := .copy { j with arrived := (chunk, va / 128, s.now) :: j.arrived } }
    | .error (.fail _ _) => s

/-- The last source rows up to 64 KiB, keyed (R312). -/
def CopyJob.kept (j : CopyJob) : List BufRow :=
  let d := j.desc
  let n := copyX d 0
  let all := (List.range (chunkCount d)).flatMap fun k => ((j.rows.find? (·.1 = k)).map (·.2)).getD []
  let bytes := n * copyEsz d
  let rows := (List.range (copyCount d / n)).map fun r => rowKey d (r * n) ((all.drop (r * bytes)).take bytes)
  rows.drop (rows.length - 65536 / bytes)

/-- The code of a cancelled copy's record (R412). -/
def cancelCode (reason : Nat) : Nat :=
  match reason with | 1 => 1 | 2 => 5 | 3 => 2 | 4 => 3 | 5 => 3 | n => n

/-- A line-buffer slot of a team, resident or saved, becomes empty (R312, R314). -/
def State.emptySlot (s : State) (team k : Nat) : State :=
  let empty (t : Team) : Team := if t.id = team then { t with lineBufs := t.lineBufs.set k [] } else t
  { s with
    teams := s.teams.map empty
    sched := { s.sched with saved := s.sched.saved.map fun (v : SavedTeam) => { v with team := empty v.team } } }

/-- A copy is cancelled: its record of kind 3, its slot emptied, its arrival with ERR (R314). -/
def State.cancelCopy (s : State) (e : EngOp) (j : CopyJob) (reason : Nat) : State :=
  let s := s.recordEngine e (some (cancelCode reason))
  let s := if copyLbs j.desc = 0 then s else s.emptySlot e.team (copyLbs j.desc - 1)
  s.endEngine { e with bar := some (field j.desc 438 4) } true

/-- COPY_COMPLETION (R311, R312), or the end of a copy that was cancelled while the column could not hold its record (R314, R413). -/
def execCopyCompletion (eop : Nat) (s : State) : Host.Outcome State Fault Refusal :=
  .next <| match s.engOp? eop with
  | none => s
  | some e =>
    match e.engine with
    | .copy j =>
      match j.phase with
      | .cancelled reason => if s.recordsFull e.col then s else s.cancelCopy e j reason
      | _ =>
      if j.phase = .running && j.cursor = chunkCount j.desc && (s.team? e.team).isSome then
        let s := s.releaseSide e.col e.ctx j.desc (copyDest j.desc)
        let s := match s.team? e.team with
          | some t => if copyLbs j.desc = 0 then s else s.setTeam { t with lineBufs := t.lineBufs.set (copyLbs j.desc - 1) j.kept }
          | none => s
        s.endEngine e false
      else s
    | _ => s

/-! ## Faults mid-stream (R313, R314) -/

/-- The failure of a chunk now, if it fails: REASON and FADDR (R313). A page declared unresolvable fails the chunk that met it (R352),
and so do a result line that has stayed empty (R318) and a read that had no answer (R390). -/
def State.chunkFailure (s : State) (e : EngOp) (j : CopyJob) (chunk : Nat) : Option (Nat × Nat) :=
  match e.dead, j.missed with
  | some _, some (k, va, w) => if k = chunk then some (if w then 2 else 1, va) else none
  | _, _ =>
    match s.readChunk e j.desc chunk with
    | .error (.fail r a) => some (r, a)
    | .error (.empty va) =>
      match j.arrived.find? fun p => p.1 = chunk && p.2.1 = va / 128 with
      | some (_, _, since) => if since + 110000 ≤ s.now then some (3, va) else none
      | none => none
    | .ok _ => (s.lostSource e j.desc chunk).map fun n => (3, 128 * n)
    | _ => none

/-- COPY_CHUNK_FAILURE (R313). -/
def execCopyChunkFailure (eop chunk : Nat) (s : State) : Host.Outcome State Fault Refusal :=
  .next <| match s.runnable eop chunk with
  | none => s
  | some (e, j) =>
    if e.token.isSome then s
    else match s.chunkFailure e j chunk with
    | some (reason, faddr) => s.settleCopy { e with dead := none, lost := e.lost && (s.lostSource e j.desc chunk).isNone } { j with failing := (chunk, reason, faddr) :: j.failing }
    | none => s

/-- The copy of a column that waits on the record at an address, with its job and reason. -/
def State.waitingCopy (s : State) (col record : Nat) : Option (EngOp × CopyJob × Nat) :=
  s.engines.ops.findSome? fun e =>
    match e.engine with
    | .copy j =>
      match j.phase with
      | .failed reason _ (some r) => if e.col = col && r = record then some (e, j, reason) else none
      | _ => none
    | _ => none

/-- DISP of the record at an address (R314). -/
def State.dispOf (s : State) (record : Nat) : Nat := s.peekNat (record + 33) 1

/-- COPY_REPLAY: the doorbell names a record whose DISP is 1 (R314). -/
def execCopyReplay (col : Nat) (value : BitVec 64) (s : State) : Host.Outcome State Fault Refusal :=
  .next <| match s.waitingCopy col value.toNat with
  | some (e, j, _) =>
    if s.dispOf value.toNat = 1 then s.setEngOp { e with engine := .copy { j with phase := .running, arrived := [] } } else s
  | none => s

/-- Software cancels a copy: at once, or once the column can hold its record (R314, R413). -/
def State.askCancel (s : State) (e : EngOp) (j : CopyJob) (reason : Nat) : State :=
  if s.recordsFull e.col then s.setEngOp { e with engine := .copy { j with phase := .cancelled reason } } else s.cancelCopy e j reason

/-- COPY_CANCEL: the doorbell names a record whose DISP is 2 (R314). -/
def execCopyCancel (col : Nat) (value : BitVec 64) (s : State) : Host.Outcome State Fault Refusal :=
  .next <| match s.waitingCopy col value.toNat with
  | some (e, j, reason) => if s.dispOf value.toNat = 2 then s.askCancel e j reason else s
  | none => s

end Sys2Proof.Machine
end

