-- ==== Sys2Proof/Machine/Gred.lean ====
section
/-! DEFINITION. Gather-reduce commands and the full bits of result lines (R199 to R202, R316 to R318), and counter reads
(R204). -/

namespace Sys2Proof.Machine

/-! ## Result rows (R199) -/

/-- A range cut at the boundaries of pages (or of lines) of `size` bytes: addresses with lengths; `k` bounds the pieces. -/
def cutRange (size : Nat) : Nat → Nat → Nat → List (Nat × Nat)
  | 0, _, _ => []
  | k + 1, a, n =>
    if n = 0 then []
    else (a, min n (size - a % size)) :: cutRange size k (a + min n (size - a % size)) (n - min n (size - a % size))

/-- The pieces of a result row of `nel` elements in 64 KiB pages. -/
def resultPieces (dst : DWord) (nel : Nat) : List (Nat × Nat) := cutRange 65536 2 dst.toNat (4 * nel)

/-- Items 4 to 6 of R122 and the class of one page of a result row: a cause, or a page fault (R199). -/
def resultPage (tr : Except WalkFail Leaf) (col : Nat) : Except (Nat ⊕ WalkFail) Leaf :=
  match tr with
  | .error f => .error (.inr f)
  | .ok l =>
    if l.share = 0 && l.owner ≠ col then .error (.inl 0x08)
    else if l.cls ≠ 4 then .error (.inl 0x07)
    else if !l.w then .error (.inr ⟨l.level, 3⟩)
    else .ok l

/-- What the pages of a result row give: a fault with its address, page faults, or nothing wrong. -/
inductive RowCheck where
  | ok
  | fault (cause : Nat) (addr : DWord)
  | pages (ps : List (DWord × WalkFail))
  deriving DecidableEq, Repr

/-- The pages of a result row, whose translations are `tr`: a fault of any page before the page faults of others (R199, R346). -/
def resultRow (tr : Nat → Except WalkFail Leaf) (col : Nat) (dst : DWord) (nel : Nat) : RowCheck :=
  let looks := (resultPieces dst nel).map fun p => (p.1, resultPage (tr p.1) col)
  match looks.findSome? fun p => match p.2 with | .error (.inl c) => some (c, p.1) | _ => none with
  | some (c, va) => .fault c (BitVec.ofNat 64 va)
  | none =>
    match looks.filterMap fun p => match p.2 with | .error (.inr f) => some (BitVec.ofNat 64 p.1, f) | _ => none with
    | [] => .ok
    | ps => .pages ps

/-- The checks of a lane's `gred` at issue, of its table base and its result row (R121, R122, R199). -/
def State.gredCheck (s : State) (c : Issue) (th : Thread) (base dst : DWord) (nel : Nat) : RowCheck :=
  let tr := s.pageAt c th.ctx
  let pieces := resultPieces dst nel
  let shut := match tr base.toNat with | .ok l => l.share = 0 && l.owner ≠ th.col | .error _ => false
  if !canonical base || inWindow base.toNat then .fault 0x07 base
  else match pieces.find? fun p => !canonical (BitVec.ofNat 64 p.1) || inWindow p.1 with
  | some p => .fault 0x07 (BitVec.ofNat 64 p.1)
  | none =>
    if base.toNat % 64 ≠ 0 || onDevicePage (tr base.toNat) then .fault 0x06 base
    else if dst.toNat % 64 ≠ 0 then .fault 0x06 dst
    else if s.lockConflict th.team (lockPlace base.toNat).1 (lockPlace base.toNat).2 1 false then .fault 0x0A base
    else if s.lockConflict th.team .memory dst.toNat (4 * nel) true then .fault 0x0A dst
    else if shut then .fault 0x08 base
    else resultRow tr th.col dst nel

/-! ## Commands (R200, R316) -/

/-- The address of row `k` of a part's table (R199). -/
def GredPart.rowAddr (p : GredPart) : DWord :=
  p.table + BitVec.ofNat 64 (p.row * ((p.nel * (if p.bf16 then 2 else 4) + 63) / 64 * 64))

/-- The unit that reads a line of a frame: the channel of an HBM frame, the issuing column's unit by address bits [11:7]
otherwise (R316, notes/assumptions/19.md). -/
def lineUnit (col pa : Nat) : Nat :=
  if regionOf pa = 0 then pa / 2 ^ 37 % 32 * 32 + pa / 65536 % 32 else col * 32 + pa / 128 % 32

/-- Why a row cannot be read: a page without a valid leaf, or a failure. -/
inductive RowTrouble where
  | page (va : DWord) (f : WalkFail)
  | fail
  deriving DecidableEq, Repr

/-- The agent that reads a command's rows. -/
def GredCmd.actor (g : GredCmd) : Actor := ⟨0, 0, g.ctx, g.col, g.core, 0, none⟩

/-- The pieces of one row: each within a line of memory, as it was read at issue where it could be (R201, R316). -/
def State.rowPieces (s : State) (g : GredCmd) (row : DWord × Nat) (early : List GredLine) : Except RowTrouble (List GredLine) :=
  let esz := if g.bf16 then 2 else 4
  (cutRange 128 (g.nel * esz / 128 + 2) row.1.toNat (g.nel * esz)).mapM fun p =>
    if !canonical (BitVec.ofNat 64 p.1) || inWindow p.1 then .error .fail
    else match early.find? (·.va = p.1) with
    | some q => .ok q
    | none =>
    match s.translate g.ctx p.1 with
    | .error f => .error (.page (BitVec.ofNat 64 p.1) f)
    | .ok l =>
      if (l.share = 0 && l.owner ≠ g.col) || l.cls = 3 || (l.cls = 1 && (s.inkTest g.ctx p.1 p.2 false).isSome) then .error .fail
      else .ok
        { unit := lineUnit g.col l.pa, row := row.2, va := p.1, elem := (p.1 - row.1.toNat) / esz, pa := l.pa, len := p.2
          data := if s.unused l then some (some (List.replicate p.2 0))
            else if l.cls = 4 && s.lineEmpty (l.pa / 128) then none
            else some (if s.unreadable g.actor l p.2 then none else some (s.columnRead g.col l.pa p.2)) }

/-- The pieces of every row, or the first trouble with its row index. -/
def State.commandPieces (s : State) (g : GredCmd) : Except (RowTrouble × Nat) (List GredLine) := do
  let ls ← (g.rows.zip g.early).mapM fun r => match s.rowPieces g r.1 r.2 with | .ok l => .ok l | .error m => .error (m, r.1.2)
  .ok ls.flatten

/-- The units that have a command's sub-commands queued: those of a split command, else those its rows would need. -/
def State.commandUnits (s : State) (g : GredCmd) : List Nat :=
  if g.split then (g.lines.map GredLine.unit).eraseDups
  else ((g.rows.map fun r => match s.rowPieces g r [] with | .ok l => l.map GredLine.unit | .error _ => []).flatten).eraseDups

/-- Some unit of the list holds 64 sub-commands (R316). The lanes of an issue whose command exists already have been tested with it. -/
def State.unitFull (s : State) (stroke : Nat) (dst : DWord) (units : List Nat) : Bool :=
  !s.engines.greds.any (fun g => g.stroke = stroke && g.dst = dst) &&
    units.any fun u => decide (64 ≤ (s.engines.greds.filter fun g => (s.commandUnits g).contains u).length)

/-- Replacing a command by its new record. -/
def State.setGred (s : State) (g : GredCmd) : State :=
  { s with engines := { s.engines with greds := s.engines.greds.map fun h => if h.id = g.id then g else h } }

/-- The command of that number. -/
def State.gred? (s : State) (id : Nat) : Option GredCmd := s.engines.greds.find? (·.id = id)

/-- A command that a lane of an issue starts, without its rows (R200). -/
def GredPart.command (p : GredPart) (id launch stroke now : Nat) (a : Actor) : GredCmd where
  id := id
  ctx := a.ctx
  col := a.col
  core := a.core
  tid := a.tid
  stroke := stroke
  launch := launch
  dst := p.dst
  acc := p.acc
  bf16 := p.bf16
  nel := p.nel
  rows := []
  early := []
  issued := now
  issuers := []
  accepted := false
  lines := []
  split := false
  parts := []
  places := []
  token := none
  waits := none
  failRow := none

/-- The pieces of a row that can be read when the `gred` issues: on mapped pages and full lines (R130, R201). -/
def State.earlyLines (s : State) (g : GredCmd) (row : DWord × Nat) : List GredLine :=
  let esz := if g.bf16 then 2 else 4
  (cutRange 128 (g.nel * esz / 128 + 2) row.1.toNat (g.nel * esz)).filterMap fun p =>
    match s.rowPieces { g with nel := p.2 / esz } (BitVec.ofNat 64 p.1, row.2) [] with
    | .ok [q] => if q.data.isSome then some { q with elem := (p.1 - row.1.toNat) / esz } else none
    | _ => none

/-- A lane's part joins the command of its issue and result address, or starts it (R200). Its row is read as of now, with lines that
other columns own recalled (R201, R234); `n` is the instruction's place in its thread's order (R395). -/
def State.addGred (s : State) (p : GredPart) (launch stroke n : Nat) (a : Actor) : State :=
  let s := s.noteRead a.ctx a.col p.rowAddr.toNat (p.nel * (if p.bf16 then 2 else 4))
  let row := (p.rowAddr, p.row)
  let join (g : GredCmd) : GredCmd :=
    { g with rows := g.rows ++ [row], early := g.early ++ [s.earlyLines g row], issuers := g.issuers ++ [(a.tid, n)] }
  match s.engines.greds.find? fun g =>
      g.stroke = stroke && g.dst = p.dst && g.ctx = a.ctx && g.col = a.col && g.core = a.core && !g.accepted with
  | some g => s.setGred (join g)
  | none =>
    let (k, s) := s.newId
    { s with engines := { s.engines with greds := s.engines.greds ++ [join (p.command k launch stroke s.now a)] } }

/-- A lane's part of a `gred` (R199). -/
def gredPart (s : State) (th : Thread) (o : XF) : GredPart where
  table := th.pair o.a.toNat
  row := (srcWord s th o.b).toNat
  dst := srcPair s th o.c
  acc := o.fn.getLsbD 10
  bf16 := o.fn.getLsbD 9
  nel := (o.fn.extractLsb' 0 9).toNat + 1

/-- The units that the command of an issue and a result address needs: those of every lane of the issue that names the address (R316). -/
def State.unitsNeeded (s : State) (c : Issue) (th : Thread) (h : Head) (o : XF) (p : GredPart) : List Nat :=
  let lanes := c.members.filterMap s.thread?
  let rows := lanes.filterMap fun t =>
    let m := t.settle s.now
    let q := gredPart s m o
    if m.id = th.id || (m.guard h && !m.helper && !c.faulting.contains m.id && m.ctx = th.ctx && q.dst = p.dst && s.gredCheck c m q.table q.dst q.nel = .ok)
    then some (q.rowAddr, q.row) else none
  s.commandUnits { p.command 0 0 c.stroke s.now th.actor with rows := rows }

/-- The accesses that a part's write of its result row stands for, one for each page (R123, R125, R395). -/
def GredPart.writes (p : GredPart) : List Access :=
  (resultPieces p.dst p.nel).map fun q => ⟨.store (List.replicate q.2 0), BitVec.ofNat 64 q.1, 0⟩

/-- The pages of a result row that are faulted would not all have places in the operand log (R123, R346). -/
def State.rowLogFull (s : State) (th : Thread) (stroke : Nat) (ps : List (DWord × WalkFail)) : Bool :=
  let es := s.logEntries th.col th.core
  let new := (ps.map fun p => (stroke, p.1.toNat / 65536)).eraseDups.filter fun e => !es.contains e
  decide (64 < es.length + new.length)

/-- Posting the page faults of a result row: their tokens (R346, R349). -/
def State.rowFaults (s : State) (ctx col core : Nat) (ps : List (DWord × WalkFail)) : List Nat × State :=
  ps.foldl (fun a p =>
    let (k, t) := a.2.pageFault ctx col core p.1 1 p.2
    (a.1 ++ [k], t)) ([], s)

/-- Some operation of the list is an earlier one of the thread that the part must follow: what it reads acquires, or it touches the result
row; commands of one row keep their order among themselves (R125, R200, R230). -/
def GredPart.follows (p : GredPart) (s : State) (tid : Nat) (ops : List Op) : Bool :=
  p.writes.any fun x => ops.any fun o => o.tid = tid && s.follows x o

/-- `gred` (R199, R200): nothing in a helper thread. A part that must follow earlier accesses of its thread is held behind them (R125). -/
def execGred (h : Head) (o : XF) (s : State) : Host.Outcome State Fault Refusal :=
  issue (.gred h o) h s fun s c th =>
    if th.helper then s.setThread (th.advance c h s.now)
    else
      let p := gredPart s th o
      let launch := ((s.team? th.team).map Team.launch).getD 0
      match s.gredCheck c th p.table p.dst p.nel with
      | .fault cause a => s.raise c th cause 0 a
      | .pages ps =>
        if s.rowLogFull th c.stroke ps then s.setThread (th.stall c h s.now)
        else
          let (ks, s) := s.rowFaults th.ctx th.col th.core ps
          leasing h [] (.gredLogged p ks) s c th
      | .ok =>
        if s.unitFull c.stroke p.dst (s.unitsNeeded c th h o p) ||
            (p.writes.any fun x => s.logsBehind th.id x && s.logFull th c.stroke x.va) then s.setThread (th.stall c h s.now)
        else if p.follows s th.id s.ops then leasing h [] (.gredLogged p []) s c th
        else
          let (n, s) := s.newId
          (s.addGred p launch c.stroke n th.actor).setThread (th.advance c h s.now)

/-- A logged or held part that no page fault holds any more: it waits behind earlier accesses of its thread, and then the fault a page now
gives, other page faults, or the part joins its command (R125, R199, R351). -/
def State.replayGred (s : State) (o : Op) (p : GredPart) (rest : List Nat) : State :=
  if !rest.isEmpty || p.follows s o.tid (s.ops.takeWhile (·.id ≠ o.id)) then s.setOp { o with stage := .gredLogged p rest }
  else match resultRow (s.translate o.ctx) o.col p.dst p.nel with
  | .fault cause a => s.setOp { o with stage := .failed cause 0 a true }
  | .pages ps =>
    let (ks, s) := s.rowFaults o.ctx o.col o.core ps
    s.setOp { o with stage := .gredLogged p ks }
  | .ok => (s.addGred p o.launch o.stroke o.id o.actor).dropOp o.id

/-! ## Acceptance, reading and the result (R201, R316 to R318, R395) -/

/-- The lines of physical memory that a command's result row overlaps. -/
def GredCmd.resultLines (g : GredCmd) : List Nat :=
  (g.places.flatMap fun p => (List.range ((p.1 + p.2 + 127) / 128 - p.1 / 128)).map (p.1 / 128 + ·)).eraseDups

/-- Two commands have result rows that overlap. -/
def GredCmd.overlaps (g k : GredCmd) : Bool :=
  g.ctx = k.ctx && decide (g.dst.toNat < k.dst.toNat + 4 * k.nel) && decide (k.dst.toNat < g.dst.toNat + 4 * g.nel)

/-- An earlier command to the same bytes has yet to pass the step. -/
def State.gredBehind (s : State) (g : GredCmd) (blocks : GredCmd → Bool) : Bool :=
  (s.engines.greds.takeWhile (·.id ≠ g.id)).any fun k => k.overlaps g && blocks k

/-- Raising the pending count of a line (R318). -/
def State.raiseLine (s : State) (line : Nat) : State :=
  let n := ((s.caches.empties.find? (·.line = line)).map Pending.count).getD 0
  { s with caches := { s.caches with empties := ⟨line, n + 1⟩ :: s.caches.empties.filter (·.line ≠ line) } }

/-- Lowering the pending count of a line; at zero the line is full (R318). -/
def State.lowerLine (s : State) (line : Nat) : State :=
  let n := ((s.caches.empties.find? (·.line = line)).map Pending.count).getD 0
  let rest := s.caches.empties.filter (·.line ≠ line)
  { s with caches := { s.caches with empties := if n ≤ 1 then rest else ⟨line, n - 1⟩ :: rest } }

/-- A lane of the command's issue has its part logged or held: the command is sent with it (R199, R200). -/
def State.partsOut (s : State) (g : GredCmd) : Bool :=
  s.ops.any fun o => o.stroke = g.stroke && o.ctx = g.ctx &&
    (match o.stage with | .gredLogged p _ => p.dst = g.dst | _ => false)

/-- GRED_COMMAND_ACCEPT (R201, R318, R395): the result row's lines become empty. -/
def execGredCommandAccept (cmd : Nat) (s : State) : Host.Outcome State Fault Refusal :=
  .next <| match s.gred? cmd with
  | none => s
  | some g =>
    if g.accepted || g.token.isSome || g.failRow.isSome || s.partsOut g || s.gredBehind g (fun k => !k.accepted) then s
    else
      let pages : List ((Nat × Nat) × Except (Nat ⊕ WalkFail) Leaf) :=
        (resultPieces g.dst g.nel).map fun p => (p, resultPage (s.translate g.ctx p.1) g.col)
      match pages.findSome? fun p => match p.2 with | .error m => some (p.1.1, m) | .ok _ => none with
      | some (va, Sum.inr f) =>
        let (k, s) := s.pageFault g.ctx g.col g.core (BitVec.ofNat 64 va) 1 f
        s.setGred { g with token := some k }
      | some (_, Sum.inl _) => s.setGred { g with failRow := (g.rows.head?.map (·.2)).orElse fun _ => some 0 }
      | none =>
        let places := pages.filterMap fun (p : (Nat × Nat) × Except (Nat ⊕ WalkFail) Leaf) =>
          match p.2 with | Except.ok l => some (l.pa, p.1.2) | Except.error _ => none
        let leaves := pages.filterMap fun (p : (Nat × Nat) × Except (Nat ⊕ WalkFail) Leaf) => p.2.toOption
        let s := leaves.foldl (fun s l => s.freshResult g.ctx l) s
        let g := { g with accepted := true, places := places }
        (g.resultLines.foldl State.raiseLine (s.setGred g)).wake

/-- The bytes of a piece: as they were read at issue, or as they are now; none when they are marked (R201). -/
def State.pieceBytes (s : State) (g : GredCmd) (q : GredLine) : Option (List Byte) :=
  match q.data with
  | some b => b
  | none => if s.columnMarked g.col q.pa q.len || !s.servedRange q.pa q.len then none else some (s.columnRead g.col q.pa q.len)

/-- The values of a piece that a unit reads: elements with their binary32 patterns. -/
def State.pieceParts (s : State) (g : GredCmd) (q : GredLine) : List (Nat × Nat) :=
  let esz := if g.bf16 then 2 else 4
  let b := (s.pieceBytes g q).getD []
  (List.range (q.len / esz)).map fun i =>
    let v := leNat ((b.drop (i * esz)).take esz)
    (q.elem + i, if g.bf16 then v * 65536 else v)

/-- An accepted command is split into its units' sub-commands; its rows' pages are looked up, and what was not read at issue is read
(R234, R316, R352). -/
def State.splitCommand (s : State) (g : GredCmd) : State :=
  match s.commandPieces g with
  | .ok ls =>
    let late := ls.filter fun q => !g.early.any fun r => r.any (·.va = q.va)
    (late.foldl (fun s q => s.noteRead g.ctx g.col q.va q.len) s).setGred { g with lines := ls, split := true }
  | .error (.fail, row) => s.setGred { g with failRow := some row }
  | .error (.page va f, _) =>
    let (k, s) := s.pageFault g.ctx g.col 0x7F va 4 f
    s.setGred { g with token := some k }

/-- REDUCE_SUBCOMMAND (R316): the unit takes its oldest sub-command and reads its lines; a row on an empty result line waits,
as a load would (R318), and a marked row fails the command (R201). -/
def execReduceSubcommand (cmd unit : Nat) (s : State) : Host.Outcome State Fault Refusal :=
  .next <| match s.gred? cmd with
  | none => s
  | some g =>
    if !g.accepted || g.token.isSome || g.failRow.isSome then s
    else if !g.split then s.splitCommand g
    else
      let mine := g.lines.filter (·.unit = unit)
      let earlier := (s.engines.greds.takeWhile (·.id ≠ g.id)).any fun k => k.lines.any (·.unit = unit)
      if mine.isEmpty || earlier || s.engines.segments.contains unit then s
      else match mine.find? fun q => q.data.isNone && s.lineEmpty (q.pa / 128) with
      | some q =>
        match g.waits with
        | none => s.setGred { g with waits := some s.now }
        | some since => if since + 110000 ≤ s.now then s.setGred { g with failRow := some q.row } else s
      | none =>
        match mine.find? fun q => (s.pieceBytes g q).isNone with
        | some q => s.setGred { g with failRow := some q.row }
        | none =>
          let s := s.setGred { g with
            lines := g.lines.filter (·.unit ≠ unit), parts := g.parts ++ mine.flatMap (s.pieceParts g), waits := none }
          { s with engines := { s.engines with segments := unit :: s.engines.segments } }

/-- REDUCE_SEGMENT_END (R317): the unit releases its banks. -/
def execReduceSegmentEnd (unit : Nat) (s : State) : Host.Outcome State Fault Refusal :=
  .next { s with engines := { s.engines with segments := s.engines.segments.filter (· ≠ unit) } }

/-- The current bytes of a command's result row. -/
def State.resultBytes (s : State) (g : GredCmd) : List Byte := g.places.flatMap fun p => s.peek p.1 p.2

/-- The rounded result row (R200). -/
def State.gredResult (s : State) (g : GredCmd) : List Byte :=
  let old := s.resultBytes g
  (List.range g.nel).flatMap fun e =>
    let vals := (g.parts.filter (·.1 = e)).map fun p => unpack .f32 p.2
    let vals := if g.acc then vals ++ [unpack .f32 (leNat ((old.drop (4 * e)).take 4))] else vals
    leBytes 4 (roundVal .f32 0 (sumVals 0 vals))

/-- Writing a result row at its places. -/
def State.putResult (s : State) (tid : Nat) : List (Nat × Nat) → List Byte → State
  | [], _ => s
  | (pa, n) :: r, b => (s.homeWrites tid (n / 128 + 2) pa (b.take n)).putResult tid r (b.drop n)

/-- The command leaves: its lines' counts fall, and loads that waited are tried again (R318). -/
def State.endGred (s : State) (g : GredCmd) : State :=
  let s := if g.accepted then g.resultLines.foldl State.lowerLine s else s
  ({ s with engines := { s.engines with greds := s.engines.greds.filter (·.id ≠ g.id) } }).wake

/-- GRED_RESULT_WRITE (R200, R316, R318): the partials are added, each element is rounded once and the row is written. -/
def execGredResultWrite (cmd : Nat) (s : State) : Host.Outcome State Fault Refusal :=
  .next <| match s.gred? cmd with
  | none => s
  | some g =>
    if !g.accepted || !g.split || !g.lines.isEmpty || g.failRow.isSome || s.gredBehind g (fun _ => true) then s
    else
      let marked := g.places.any fun p => s.poisoned p.1 p.2
      let b := s.gredResult g
      let s := s.putResult 0 g.places b
      let s := if g.acc && marked then s else g.places.foldl (fun s p => s.clearPoison p.1 p.2) s
      s.endGred g

/-- GRED_COMMAND_FAILURE (R201): the result lines become full and marked, and the failure is recorded. -/
def execGredCommandFailure (cmd : Nat) (s : State) : Host.Outcome State Fault Refusal :=
  .next <| match s.gred? cmd with
  | none => s
  | some g =>
    match g.failRow with
    | none => s
    | some row =>
      if s.gredBehind g (fun _ => true) || s.recordsFull g.col then s
      else
        let s := g.resultLines.foldl (fun s l => s.markPoison (l * 128) 128) s
        let s := s.record (s.ofLaunch g.launch
          { ctx := g.ctx, col := g.col, core := g.core, kind := 4, addr := g.dst, item := row, info := infoWord 0x1F 0 false })
        (s.failLaunch g.launch).endGred g

/-- EMPTY_LINE_TIMEOUT (R318): a load that has waited 110,000 cycles at an empty line returns poisoned data. -/
def execEmptyLineTimeout (op : Nat) (s : State) : Host.Outcome State Fault Refusal :=
  .next <| match s.op? op with
  | some o =>
    match o.stage with
    | .emptyLine x _ since => if x.act.isLoad && since + 110000 ≤ s.now then s.setOp { o with stage := .failed 0x0F 0 none true } else s
    | _ => s
  | none => s

/-! ## `rstat` and `rdctr` -/

/-- The leaf of a line of a RESULT page, if it is one. -/
def State.resultLeaf (s : State) (ctx va : Nat) : Option Leaf :=
  match s.translate ctx va with
  | .ok l => if l.cls = 4 then some l else none
  | .error _ => none

/-- `rstat` (R202): a line that no RESULT page shows reads full and acquires nothing (DESIGN CHOICE, notes/assumptions/88.md). -/
def execRstat (h : Head) (o : XF) (s : State) : Host.Outcome State Fault Refusal :=
  issue (.rstat h o) h s fun s c th =>
    let va := th.pair o.a.toNat
    if !canonical va then s.raise c th 0x07 0 va
    else
      let look := (List.range 32).map fun i => s.resultLeaf th.ctx ((va.toNat / 128 + i) * 128 % 2 ^ 64)
      let full (l : Option Leaf) : Bool := match l with | some l => s.unused l || !s.lineEmpty (l.pa / 128) | none => true
      let v := (look.zipIdx.map fun p => if full p.1 then 2 ^ p.2 else 0).sum
      let s := if look.any fun l => match l with | some q => full l && q.share ≠ 0 | none => false then s.acquire th.col else s
      leasingReady h (wordRegs o.d) [BitVec.ofNat 32 v] s c th

/-- The value of a counter as a reader of a context sees it (R204, R415). -/
def State.counterOf (s : State) (th : Thread) (n : Nat) : Nat :=
  let f := (s.context th.ctx).func
  match s.regs.counters.find? fun k => k.col = th.col && k.n = n with
  | none => 0
  | some k =>
    let fabric := decide (0x080 ≤ field k.select 0 12) && decide (field k.select 0 12 ≤ 0x082)
    if (decide (n < 32) && f ≠ 0) || (decide (32 ≤ n) && (f = 0 || s.sched.holder ≠ f || fabric)) then 0 else k.value.toNat

/-- `rdctr` (R204). -/
def execRdctr (h : Head) (o : XF) (s : State) : Host.Outcome State Fault Refusal :=
  issue (.rdctr h o) h s fun s c th =>
    let v := s.counterOf th o.fn.toNat
    leasingReady h (pairRegs o.d) [BitVec.ofNat 32 v, BitVec.ofNat 32 (v / 2 ^ 32)] s c th

end Sys2Proof.Machine
end

