-- ==== Sys2Proof/Machine/Fetch.lean ====
section
/-! DEFINITION. Fetching a clause (R53, R54, R58, R59, R375, R406), readiness, and the picker of a pen (R206 to R213). -/

namespace Sys2Proof.Machine

/-! ## Fetching (R58, R59) -/

/-- What fetching a clause gives: the clause, a page fault, or a fault at its header with its cause, its address where the
spec states one, and whether it makes a trap entry unusable (R375). -/
inductive Fetched where
  | clause (c : Clause)
  | page (va : DWord) (f : WalkFail)
  | fault (cause : Nat) (addr : Option DWord) (unusable : Bool)
  deriving DecidableEq, Repr

/-- One word of code as a thread fetches it: the current bytes (R59). A share violation at a trap entry does not make the entry unusable
(R375). -/
def State.fetchWord (s : State) (th : Thread) (va : DWord) : Except Fetched DWord :=
  match s.fetchAt th va with
  | .inl (.page f) => .error (.page va f)
  | .inl (.fault cause a) => .error (.fault cause (some a) (cause ≠ 0x08))
  | .inl _ => .error (.fault 0x01 none true)
  | .inr l =>
    if va.toNat % 8 ≠ 0 then .error (.fault 0x01 none true)
    else if s.poisoned l.pa 8 || !s.served l.pa then .error (.fault 0x0F none false)
    else .ok (BitVec.ofNat 64 (s.peekNat l.pa 8))

/-- The words of a clause from an address on. -/
def State.fetchWords (s : State) (th : Thread) (va : DWord) : Nat → Except Fetched (List DWord)
  | 0 => .ok []
  | n + 1 =>
    match s.fetchWord th va with
    | .error (.fault cause a _) => .error (.fault cause a false)
    | .error e => .error e
    | .ok w => (s.fetchWords th (va + 8) n).map (w :: ·)

/-- The clause at an address (R53, R54, R58). -/
def State.fetchClause (s : State) (th : Thread) (head : DWord) : Fetched :=
  match s.fetchWord th head with
  | .error e => e
  | .ok w =>
    if !isHeader w then .fault 0x01 none true
    else if !headerOk w then .fault 0x01 none false
    else match s.fetchWords th (head + 8) ((headerOf w).count.toNat + 1) with
    | .error e => e
    | .ok ws => .clause ⟨head, w, ws⟩

/-! ## Readiness (R69, R207) -/

/-- The thread stands between clauses. -/
def Thread.atBoundary (th : Thread) : Bool := th.pc = th.head

/-- WAIT of the header a thread stands at; none for a word that is no header. -/
def State.headerWait (s : State) (th : Thread) : BitVec 8 :=
  match s.fetchWord th th.head with
  | .ok w => if headerOk w then (headerOf w).wait else 0
  | .error _ => 0

/-- The cycles after a marking from which a clause boundary parks a thread (R371, R378). -/
def Context.deadline (c : Context) : Nat := if field c.desc 16 32 = 0 then 22000 else field c.desc 16 32

/-- A wait at which a thread is parked for a save: a blocking instruction that has not completed, a `spawn`, or a word of an atomic
group whose page is awaited (R146, R161). An issue that stalls, a fetch or transfer that waits for its page, `tcom`, `exit`, `pemit`
and the `mma` of a final `sign` are none (R154, R161, R180). -/
def Wait.parks : Wait → Bool
  | .stalled _ => false
  | .page _ _ form => form = 0 || form = 3
  | .commit _ => false
  | .exit => false
  | .signed _ => false
  | .setup _ _ => false
  | _ => true

/-- A thread of a marked team stands at a point where it is parked (R378). -/
def State.parkDue (s : State) (th : Thread) : Bool :=
  match (s.team? th.team).bind Team.marked with
  | none => false
  | some since =>
    !th.parked && (th.mask.isSome || th.trap.isSome || th.hold.isSome ||
      (match th.block with | some b => b.wait.parks | none => false) ||
      (th.atBoundary && decide (since + (s.context th.ctx).deadline ≤ s.now) &&
        (match th.block.map Block.wait with | some .exit => false | _ => true)))

/-- The thread's issue is not held back by a word that has not completed: none, or one that stalled in an earlier cycle. -/
def Thread.free (th : Thread) (cycle : Nat) : Bool :=
  match th.block with
  | none => true
  | some b => (match b.wait with | .stalled _ => decide (b.since < cycle) | _ => false)

/-- The thread's last word stalled: it is issued to it again. -/
def Thread.stalled (th : Thread) : Bool := match th.block.map Block.wait with | some (.stalled _) => true | _ => false

/-- The thread waits at a word that is no blocking instruction, so that it stays in its stroke: an issue that stalls, a page that its word
needs, `pemit`, or the `mma` of a final `sign` (R74, R180, R212). -/
def Thread.waitsInStroke (th : Thread) : Bool :=
  match th.block.map Block.wait with
  | some (.stalled _) => true
  | some (.setup _ _) => true
  | some (.signed _) => true
  | some (.page _ _ form) => form = 1 || form = 3
  | _ => false

/-- A member has left the stroke for good: a trap, a hold, a parking, or another place to go on at (R212). One whose word stalls has
not. -/
def State.hasLeft (s : State) (k : Stroke) (th : Thread) : Bool :=
  th.trap.isSome || th.hold.isSome || th.parked || s.parkDue th || (th.block.isNone && (th.pc ≠ k.pc || th.head ≠ k.head))

/-- The thread is a member of a stroke in flight. -/
def State.inStroke (s : State) (th : Thread) : Bool := s.strokes.any fun k => k.members.contains th.id && !s.hasLeft k th

/-- The thread is ready (R207). -/
def State.ready (s : State) (th : Thread) : Bool :=
  th.trap.isNone && th.hold.isNone && !th.parked && th.free s.now && decide (th.nextIssue ≤ s.now) && !s.inStroke th &&
    !s.parkDue th && (!th.atBoundary || (th.pending.isEmpty && s.maskClear th.id (s.headerWait th)))

/-- Threads that are not ready become ready in a later cycle, which gives their age (R208). -/
def State.tickAges (s : State) : State :=
  { s with threads := s.threads.map fun t => if s.ready t then t else { t with readySince := s.now + 1 } }

/-! ## Forming a stroke (R208 to R210) -/

/-- A thread is older than another (R208). -/
def Thread.older (a b : Thread) : Bool :=
  a.readySince < b.readySince ||
    (a.readySince = b.readySince && (a.lane < b.lane || (a.lane = b.lane && decide (a.slot < b.slot))))

/-- The oldest member of a unit. -/
def eldest : List Thread → Option Thread
  | [] => none
  | t :: r => some (r.foldl (fun a b => if b.older a then b else a) t)

/-- A unit is older than another. -/
def unitOlder (a b : List Thread) : Bool :=
  match eldest a, eldest b with
  | some x, some y => x.older y
  | _, _ => false

/-- A unit put into a list, oldest first. -/
def insertUnit (u : List Thread) : List (List Thread) → List (List Thread)
  | [] => [u]
  | v :: r => if unitOlder v u then v :: insertUnit u r else u :: v :: r

/-- The threads homed on a pen's lanes. -/
def State.penThreads (s : State) (p : Pen) : List Thread :=
  s.threads.filter fun t => t.col = p.col && t.core = p.core && t.lane / 32 = p.pen

/-- The units of a pen in this cycle, oldest first (R209). -/
def State.units (s : State) (p : Pen) : List (List Thread) :=
  let all := s.penThreads p
  let rd := all.filter s.ready
  let quadOf (t : Thread) : List Thread := all.filter fun u => u.quad.isSome && u.quadId = t.quadId && u.pc = t.pc
  let us := rd.filterMap fun t =>
    if t.quad.isNone then some [t]
    else if (quadOf t).all s.ready && ((quadOf t).head?.map Thread.id) = some t.id then some (quadOf t)
    else none
  us.foldr insertUnit []

/-- Taking units whose lanes are free. -/
def takeUnits : List Thread → List (List Thread) → List Thread
  | got, [] => got
  | got, u :: r => if u.any fun t => got.any fun g => g.lane = t.lane then takeUnits got r else takeUnits (got ++ u) r

/-- A thread put into a list in lane order. -/
def insertLane (t : Thread) : List Thread → List Thread
  | [] => [t]
  | u :: r => if u.lane < t.lane then u :: insertLane t r else t :: u :: r

/-- A fetch waits for its page: the thread waits where it stands, and what a mask word named stays what a save keeps (R30, R352). -/
def State.fetchWait (s : State) (th : Thread) (va : DWord) (f : WalkFail) : State :=
  let (k, s) := s.pageFault th.ctx th.col th.core va 3 f
  s.setThread { th with block := some { wait := .page k va 1, since := s.now, next := th.pc, nextHead := th.head, mask := th.mask } }

/-- Ready threads whose clause lies on a page without a valid leaf: the fetch waits, and they are not ready (R207, R352). -/
def State.awaitPages (s : State) (p : Pen) : State :=
  ((s.penThreads p).filter s.ready).foldl (fun s t => match s.fetchClause t t.head with | .page va f => s.fetchWait t va f | _ => s) s

/-- STROKE_FORMATION: a pen forms a stroke from its oldest unit and the units at the same program counter (R209, R210). -/
def execStrokeFormation (col core pen : Nat) (s : State) : Host.Outcome State Fault Refusal :=
  .next <|
    let p : Pen := ⟨col, core, pen⟩
    let mine := s.strokes.filter fun k => k.col = col && k.core = core && k.pen = pen
    if s.power ≠ .on || 8 ≤ mine.length || mine.any (fun k => k.formed = s.now) then s
    else
      let s := s.awaitPages p
      let us := s.units p
      let unmarked := us.filter fun u => !u.any Thread.yieldMark
      let us := if unmarked.isEmpty then us else unmarked
      match us.head?.bind eldest with
      | none => s
      | some t =>
        let got := takeUnits [] (us.filter fun u => u.all fun x => x.pc = t.pc && x.ctx = t.ctx)
        let members := (got.foldr insertLane []).map Thread.id
        let cleared := { s with threads := s.threads.map fun (x : Thread) =>
          if x.col = col && x.core = core && x.lane / 32 = pen && s.ready x then { x with yieldMark := false } else x }
        let (k, s) := cleared.newId
        { s.count col 0x011 (some t.ctx) 1 with strokes := s.strokes ++ [{
            id := k, col := col, core := core, pen := pen, ctx := t.ctx, members := members, head := t.head, pc := t.pc
            clause := none, formed := s.now }] }

/-! ## The issue of a pen (R211, R212) -/

/-- The escalation of a thread whose trap entry cannot be used (R375): the trap record is kept. -/
def State.escalateEntry (s : State) (th : Thread) : State :=
  s.escalate th 1
    { cause := th.trapInfo.toNat % 256, sub := th.trapInfo.toNat / 65536 % 256, addr := th.trapAddr
      deferred := th.trapInfo.getLsbD 8, pc := th.pc, head := th.head }

/-- A fault of the fetch, taken by each member at the header (R58, R59, R375). A member that goes on inside a clause, after `tret`, a restore
or a detachment, saves the word at which it stands (DESIGN CHOICE, notes/assumptions/72.md). -/
def State.fetchFault (s : State) (th : Thread) (cause : Nat) (addr : Option DWord) (unusable : Bool) : State :=
  if th.entering && unusable then s.escalateEntry th
  else
    let (a, s) := match addr with | some a => (a, s) | none => s.free
    s.takeTrap th { cause := cause, sub := 0, addr := a, deferred := false, pc := th.pc, head := th.head }

/-- A member is in the stroke when it can next issue: it has not left, and no blocking instruction of it is incomplete (R212). -/
def State.staysIn (s : State) (k : Stroke) (th : Thread) : Bool := !s.hasLeft k th && (th.block.isNone || th.waitsInStroke)

/-- A member would fault at the word by items 1 to 6 of R70 (R116). -/
def State.faultsAt (s : State) (c : Issue) (h : Head) (i : Instr) (t : Thread) : Bool :=
  let th := t.settle s.now
  s.deferredDue th i || (s.decodeFault c th h i).isSome || (if th.guard h then (s.sourceFault c th h i).isSome else s.guardUnderrun th h)

/-- Replacing a stroke by its new record. -/
def State.setStroke (s : State) (k : Stroke) : State := { s with strokes := s.strokes.map fun q => if q.id = k.id then k else q }

/-- A stroke leaves its pen. -/
def State.dropStroke (s : State) (id : Nat) : State := { s with strokes := s.strokes.filter (·.id ≠ id) }

/-- The addresses of a word's accesses to memory, one on each page, for the words that take part in the lookup of R346. -/
def accessAt (s : State) (th : Thread) : Instr → List DWord
  | .ld _ o => [effAddr th o]
  | .st _ o => [effAddr th o]
  | .ldro _ o => [effAddr th o]
  | .ldw _ o => [effAddr th o]
  | .atom _ o => [th.pair o.a.toNat]
  | .cas _ o => [th.pair o.a.toNat]
  | .red _ o => [th.pair o.a.toNat]
  | .xadd _ o => [th.pair o.a.toNat]
  | .xrd _ o => [th.pair o.a.toNat]
  | .mbarr _ o => [th.pair o.a.toNat]
  | .append _ o => [th.pair o.a.toNat]
  | .inkstat _ o => [th.pair o.a.toNat]
  | .gred _ o =>
    let p := gredPart s th o
    p.table :: (resultPieces p.dst p.nel).map fun q => BitVec.ofNat 64 q.1
  | _ => []

/-- The lookup of an issue: each page that the lanes whose guard passes touch is looked up once (R346). -/
def State.issuePages (s : State) (h : Head) (i : Instr) (ths : List Thread) : List (Nat × (Leaf ⊕ WalkFail)) :=
  (ths.flatMap fun t =>
    let th := t.settle s.now
    if th.guard h then (accessAt s th i).map fun va => (th.ctx, va.toNat % 2 ^ 57 / 65536) else []).eraseDups.map fun p =>
      (p.2, match s.translate p.1 (p.2 * 65536) with | .ok l => .inl l | .error f => .inr f)

/-- The stroke issues a word of its clause to members: the word at its place, or the word at `at_` again to those at which it stalled
(R211, R212, notes/assumptions/56.md). -/
def State.issueWord (s : State) (k : Stroke) (c : Clause) (at_ : DWord) (ths : List Thread) : State :=
  let idx := if at_ = k.head then 0 else (at_ - k.head).toNat / 8 - 1
  match c.words[idx]? with
  | none => (ths.foldl (fun s t => s.fetchFault t 0x01 none false) s).dropStroke k.id
  | some w =>
    let (n, s) := s.newId
    let ids := ths.map Thread.id
    let i0 : Issue :=
      { tid := 0, clause := c, idx := idx, stroke := n, faulting := [], members := ids, pages := s.issuePages (headOf w) (decodeFields w) ths }
    let i := { i0 with faulting := (ths.filter (s.faultsAt i0 (headOf w) (decodeFields w))).map Thread.id }
    let s := i0.pages.foldl (fun s p => s.noteWalk k.ctx (p.1 * 65536)) s
    { s with cur := some i, issuing := ids.map fun t => (n, t) }.setStroke { k with clause := some c, pc := c.addr (i.nextIdx (headOf w)) }

/-- The stroke issues a word of its clause: first to the members at which it stalled (R211). -/
def State.issueStroke (s : State) (k : Stroke) (c : Clause) (stay : List Thread) : State :=
  match stay.filter Thread.stalled with
  | t :: r => s.issueWord k c t.pc (t :: r)
  | [] => s.issueWord k c k.pc stay

/-- The stroke's clause is fetched before its first issue: the stroke with its clause, or none when its members wait for a page or take a
fault of the fetch instead (R58, R59, R211). -/
def State.openStroke (s : State) (k : Stroke) (stay : List Thread) : Option (Stroke × Clause) × State :=
  match k.clause, stay with
  | some c, _ => (some (k, c), s)
  | none, [] => (none, s.dropStroke k.id)
  | none, t :: _ =>
    match s.fetchClause t k.head with
    | .clause c =>
      let q := { k with clause := some c }
      (some (q, c), (s.noteRead k.ctx k.col k.head.toNat (8 * c.words.length + 8)).setStroke q)
    | .page va f => (none, (stay.foldl (fun s t => s.fetchWait t va f) s).dropStroke k.id)
    | .fault cause a u => (none, (stay.foldl (fun s t => s.fetchFault t cause a u) s).dropStroke k.id)

/-- The members of a stroke that have not left it. -/
def State.membersOf (s : State) (k : Stroke) : List Thread := (k.members.filterMap s.thread?).filter fun t => !s.hasLeft k t

/-- The stroke can issue in this cycle: it was formed before, every member has reached its next-issue cycle, and none waits in it for
anything but its word (R209, R211). -/
def State.canIssue (s : State) (k : Stroke) : Bool :=
  decide (k.formed < s.now) && (s.membersOf k).all fun t => decide (t.nextIssue ≤ s.now) && (!t.waitsInStroke || t.stalled)

/-- The cycle is the first in which the strokes of a pen that can issue could do so: members whose blocking instruction has not
completed detach, and a stroke without members dissolves (R212). -/
def State.detach (s : State) (p : Pen) : State :=
  { s with strokes := s.strokes.filterMap fun (k : Stroke) =>
      if k.col = p.col && k.core = p.core && k.pen = p.pen && s.canIssue k then
        match (s.membersOf k).filter (s.staysIn k) with
        | [] => none
        | stay => some { k with members := stay.map Thread.id }
      else some k }

/-- The stroke has issued the last word of its clause to every member (R212). -/
def State.strokeOver (s : State) (k : Stroke) : Bool :=
  match k.clause with
  | none => false
  | some c => k.pc = c.after && !(s.membersOf k).any Thread.waitsInStroke

/-- Strokes that have ended, or have no members left, leave their pens, so that their places are free in the next cycle (R212). -/
def State.endStrokes (s : State) : State :=
  { s with strokes := s.strokes.filter fun k => !s.strokeOver k && !(s.membersOf k).isEmpty }

/-- Issue cycles are withheld from the column's pens in odd cycles while its power or heat demands it (R430, R431). -/
def State.withheld (s : State) (col : Nat) : Bool :=
  (s.platform.exceeded || s.platform.throttled.contains col) && decide (s.now % 2 = 1)

/-! ## Issues that stall (R123, R169, R192, R211, R316; notes/assumptions/56.md) -/

/-- How the issue of a word can stall: 0 not at all; 1 for all members of the stroke, when it stalls for one; 2 member by member, since one
member's operation may hold what another's waits for. -/
def stallForm : Instr → Nat
  | .ld _ _ | .st _ _ | .ldro _ _ | .ldw _ _ | .atom _ _ | .cas _ _ | .red _ _ | .xadd _ _ | .xrd _ _ | .mbarr _ _ | .append _ _ | .inkstat _ _ => 1
  | .call _ _ | .callx _ _ | .ret _ _ | .mbwait _ _ | .fence _ _ | .neval _ _ | .pemit _ _ | .gred _ _ => 1
  | .copy _ _ | .mma _ _ | .accld _ _ | .accst _ _ | .trace _ _ | .tcont _ _ | .sign _ _ | .cvarm _ _ => 2
  | _ => 0

/-- A thread that is to issue the stroke's word still can. -/
def Thread.issues (th : Thread) (cycle : Nat) : Bool := th.trap.isNone && th.hold.isNone && !th.parked && th.free cycle

/-- The word stalled at the thread in this cycle. -/
def Thread.stalledIn (th : Thread) (cycle : Nat) : Bool := th.stalled && (th.block.map Block.since = some cycle)

/-- The members of an issue at which its word would stall, found by trying it at each in lane order. -/
def State.stalls (run : Instr → State → State) (c : Issue) : List (Nat × Nat) → State → List Nat
  | [], _ => []
  | (n, tid) :: r, s =>
    match s.thread? tid, c.clause.words[c.idx]? with
    | some th, some w =>
      if th.issues s.now then
        let t := run (decodeFields w) { s with issuing := r, cur := some { c with tid := tid, stroke := n } }
        let rest := State.stalls run c r t
        if (t.thread? tid).any (·.stalledIn s.now) then tid :: rest else rest
      else State.stalls run c r s
    | _, _ => State.stalls run c r s

/-- The word stalls at a member that is to issue it: it waits at the word, which is not issued to it (R416). -/
def State.stallMember (s : State) (c : Issue) (w : DWord) (tid : Nat) : State :=
  match s.thread? tid with
  | some th =>
    let t := th.stall { c with tid := tid } (headOf w) s.now
    s.setThread { t with block := t.block.map fun b => { b with wait := .stalled false } }
  | none => s

/-- The issue of a stroke's word, from the state that is about to issue it: none when it stalls, and then the stroke does not issue in this
cycle. -/
def State.unstalled (run : Instr → State → State) (s : State) : Option State :=
  match s.cur with
  | none => some s
  | some c =>
    match c.clause.words[c.idx]? with
    | none => some s
    | some w =>
      let form := stallForm (decodeFields w)
      if form = 0 || s.issuing.isEmpty then some s
      else
        let out := State.stalls run c s.issuing s
        if out.isEmpty then some s
        else if form = 1 || s.issuing.all fun p => out.contains p.2 then none
        else some { out.foldl (fun s tid => s.stallMember c w tid) s with issuing := s.issuing.filter fun p => !out.contains p.2 }

/-- The first stroke of the list that can issue and whose word does not stall issues it (R211). -/
def State.serveStrokes (run : Instr → State → State) : List Stroke → State → State
  | [], s => s
  | k :: r, s =>
    if !s.canIssue k then State.serveStrokes run r s
    else match s.openStroke k (s.membersOf k) with
    | (none, t) => t
    | (some (q, c), t) =>
      match (t.issueStroke q c (t.membersOf q)).unstalled run with
      | some u => u
      | none => State.serveStrokes run r t

/-- A pen's turn in a cycle: the stroke formed earliest among those that can issue does so (R211, R212). `run` carries out a word. -/
def State.servePen (run : Instr → State → State) (s : State) (p : Pen) : State :=
  let s := s.detach p
  if s.power ≠ .on || s.withheld p.col then s
  else State.serveStrokes run (s.strokes.filter fun k => k.col = p.col && k.core = p.core && k.pen = p.pen) s

end Sys2Proof.Machine
end

