-- ==== Sys2Proof/Machine/Progress.lean ====
section
/-! DEFINITION. What comes about in a thread or a team between its words: results written, deferred faults found and
delivered, blocking instructions complete, handlers entered, escalations posted, teams retired (R24, R68, R124, R156, R164,
R375). -/

namespace Sys2Proof.Machine

/-! ## Results (R24, R68) -/

/-- An operation whose values are known ends: its results are written, its leases and its share of the slot go (R24). -/
def State.deliverOp (s : State) (o : Op) (writes : List (Nat × Word)) (poison : Bool) : State :=
  match s.thread? o.tid with
  | some th => ((s.setThread (th.land writes poison)).dropOp o.id).wake
  | none => (s.dropOp o.id).wake

/-- A request that was sent is performed where it goes, under the mapping it was sent under, and ends if nothing more holds it back
(R347, R390, R392). -/
def State.completeRemote (s : State) (o : Op) (x : Access) (l : Leaf) : State :=
  let (p, s) := s.performHere o.actor x l
  match stageOf x s.now p with
  | .ready ws b => s.deliverOp o ws b
  | g => s.setOp { o with stage := g }

/-- DESTINATION_WRITTEN: a variable-latency instruction completes, or a request to the second tier does; an arrival or a part of a `gred` that
waited for its thread's earlier accesses acts (R24, R199, R222, R390). -/
def execDestinationWritten (op : Nat) (s : State) : Host.Outcome State Fault Refusal :=
  .next <| match s.op? op with
  | none => s
  | some o =>
    match o.stage with
    | .ready ws b => s.deliverOp o ws b
    | .refused ws => s.deliverOp o ws false
    | .arrival b c => s.arriveLate o b c
    | .gredLogged p [] => (s.replayGred o p []).wake
    | .remote x l _ => if regionOf l.pa ≠ 3 then s.completeRemote o x l else s
    | _ => s

/-! ## Deferred faults (R124) -/

/-- A deferred fault of an operation whose thread has gone is recorded, with the place and the ITEM that its thread had (R12, R411, R412). -/
def State.recordOrphan (s : State) (o : Op) (cause sub : Nat) (addr : DWord) : State :=
  (s.record { s.actorRecord o.actor 1 cause true with addr := addr, info := infoWord cause sub true, item := o.item }).failLaunch o.launch

/-- A deferred fault is found: the operation ends, and the thread keeps the fault pending. Its report names the faulting
instruction's address where no rule states another (R124). -/
def State.findFault (s : State) (o : Op) (cause sub : Nat) (at_ : Option DWord) (mem : Bool) : State :=
  let addr := at_.getD o.pc
  match s.thread? o.tid with
  | some th =>
    let f : PendingFault :=
      { cause := cause, sub := sub, addr := addr, pc := o.pc, regs := o.dst, slot := o.slot, order := o.id, access := mem }
    ((s.setThread { th with pending := insertPending f th.pending }).dropOp o.id).wake
  | none => ((s.recordOrphan o cause sub addr).dropOp o.id).wake

/-- DEFERRED_FAULT_FOUND (R124). -/
def execDeferredFaultFound (op : Nat) (s : State) : Host.Outcome State Fault Refusal :=
  .next <| match s.op? op with
  | none => s
  | some o =>
    match o.stage with
    | .failed cause sub addr mem => s.findFault o cause sub addr mem
    | _ => s

/-- The thread stands at a clause boundary with a fault to deliver (R124, R207). -/
def State.deliveryDue (s : State) (th : Thread) : Bool :=
  th.atBoundary && !th.pending.isEmpty && th.trap.isNone && th.hold.isNone && !th.parked && !s.inStroke th && th.free s.now

/-- DEFERRED_FAULT_DELIVERY: the first pending fault is delivered at a clause boundary (R124). -/
def execDeferredFaultDelivery (tid : Nat) (s : State) : Host.Outcome State Fault Refusal :=
  .next <| match s.thread? tid with
  | some th => if s.deliveryDue th then s.deliver { th with block := none } else s
  | none => s

/-! ## Handlers (R164, R375) -/

/-- TRAP_HANDLER_ENTRY: a trap that waited for slots is taken (R164). -/
def execTrapHandlerEntry (tid : Nat) (s : State) : Host.Outcome State Fault Refusal :=
  .next <| match s.thread? tid with
  | some th =>
    match th.trap with
    | some t => if s.slotsClear tid && !th.parked then s.enterHandler th t else s
    | none => s
  | none => s

/-- The bytes of an escalation record (R375). -/
def Hold.bytes (k : Hold) (th : Thread) : List Byte :=
  let info := infoWord k.trap.cause k.trap.sub k.trap.deferred ||| (if k.reason = 0 then 0x200 else 0)
  leBytes 64 (k.trap.pc.toNat * 2 ^ 448 + k.trap.addr.toNat * 2 ^ 384 + info.toNat * 2 ^ 352 + k.token % 2 ^ 32 * 2 ^ 320 +
    th.ctx % 64 * 2 ^ 314 + th.col % 32 * 2 ^ 309 + th.core % 128 * 2 ^ 302 + th.lane % 128 * 2 ^ 295 + th.slot % 32 * 2 ^ 290 +
    k.reason % 4 * 2 ^ 288)

/-- The thread of that number, resident or saved. -/
def State.anyThread? (s : State) (tid : Nat) : Option Thread :=
  (s.thread? tid).orElse fun _ => s.sched.saved.findSome? fun v => v.threads.find? (·.id = tid)

/-- The escalation record of a thread, resident or saved, is posted. -/
def State.markPosted (s : State) (tid : Nat) : State :=
  let f (t : Thread) : Thread := if t.id = tid then { t with hold := t.hold.map fun k => { k with posted := true } } else t
  { s with
    threads := s.threads.map f
    sched := { s.sched with saved := s.sched.saved.map fun (v : SavedTeam) => { v with threads := v.threads.map f } } }

/-- ESCALATION_RECORD_DELAYED: the record of a held thread, resident or saved, is posted once its queue has room (R375). -/
def execEscalationRecordDelayed (tid : Nat) (s : State) : Host.Outcome State Fault Refusal :=
  .next <| match s.anyThread? tid with
  | some th =>
    match th.hold with
    | some k =>
      let d := (s.context th.ctx).desc
      let base := field d 512 64
      let log := field d 56 4
      if !k.posted && s.ringRoom base log then
        (s.ringPost base log (k.bytes th)).markPosted tid
      else s
    | none => s
  | none => s

/-! ## Blocking instructions (R68, R133, R142, R150 to R152, R154, R156, R160, R183) -/

/-- A wait on a team barrier ends once its phase is reached (R150). -/
def State.completePhase (s : State) (th : Thread) (b target pd : Nat) : State :=
  match s.team? th.team with
  | none => s
  | some tm =>
    if phaseReached (tm.barrier b).phase target then
      s.setThread (th.complete s.now (if pd < 7 then [.pred pd (tm.barrier b).err] else []))
    else s

/-- A wait on a barrier object looks again (R151). -/
def State.completeObject (s : State) (th : Thread) (b : Block) (va : DWord) (target : Nat) : State :=
  if s.mustFollow th.id ⟨.load 8 false [] 0, va, 1⟩ then s
  else match s.readObject th va with
  | (.fault cause a, t) => t.faultWaiting th cause a
  | (.page f, t) =>
    let (k, t) := t.pageFault th.ctx th.col th.core va 0 f
    t.setThread { th with block := some { b with wait := .page k va 0 } }
  | (.hold, _) => s
  | (.value v share line, t) =>
    if v / 2 ^ 24 % 2 ^ 24 = 0 then t.trapBlocked th 0x15
    else if phaseReached (v / 2 ^ 48) target then (t.acquireAt th.col share line).setThread (th.complete t.now [])
    else s

/-- A `tcom` that waited for earlier accesses acts (R147). -/
def State.completeCommit (s : State) (th : Thread) (pd : BitVec 8) : State :=
  if (th.group.getD Group.empty).aborted then
    let u := th.endGroup th.head false
    if 256 ≤ u.aborts then
      let (v, s) := s.free
      s.faultWaiting u 0x1B v
    else s.setThread (u.complete s.now (dstPred pd false))
  else if s.unperformed th.id then s
  else (s.commitGroup th).setThread ((th.endGroup th.head true).complete s.now (dstPred pd true))

/-- A wait for surface writes ends: `sffence` discards the core's texture lines, and a leaving `pxord` leaves the region (R175, R183). -/
def State.completeSurface (s : State) (th : Thread) (leave : Bool) : State :=
  if s.writesWait th.id then s
  else if leave then (s.leaveRegion th).setThread { th.complete s.now [] with ordered := false }
  else (s.dropTexLines th.col th.core).setThread (th.complete s.now [])

/-- What a waiting thread's instruction does when its wait can end. -/
def State.completeWait (s : State) (th : Thread) (b : Block) : State :=
  match b.wait with
  | .fence va ord =>
    if (ord = 2 || ord = 3) && th.accessFault then s.deliverAt th th.pc th.head
    else if s.fenceWaits th.id ord then s else (s.fenceAt th ord (s.shareAt th.ctx va)).setThread (th.complete s.now [])
  | .sealing region true _ =>
    match s.ink? th.ctx region with
    | some r =>
      if (r.rstate = 0 && r.closing ≠ 0) || s.unperformed th.id then s else (s.release th.col th.ctx r.share).setThread (th.complete s.now [])
    | none => s.setThread (th.complete s.now [])
  | .freeing region false va => if s.requestHeld th.id region then s else s.freeLate th b region va
  | .bwait n target pd => s.completePhase th n target pd
  | .barrw n target pd => s.completePhase th n target pd
  | .mbwait va target => s.completeObject th b va target
  | .sbw m =>
    if th.maskFault m then s.deliverAt th th.pc th.head
    else if s.maskClear th.id m then s.setThread (th.complete s.now []) else s
  | .exit => s.leave th
  | .signed i => s.completeSign th i
  | .pxord =>
    match th.ticket with
    | some k => if s.regionFree k then (s.enterRegion th).setThread { th.complete s.now [] with ordered := true } else s
    | none => s.setThread (th.complete s.now [])
  | .spawnRoom entry args =>
    if s.unperformed th.id then s
    else match s.enterBin th entry args with
    | some s => s.setThread (th.complete s.now [])
    | none => s
  | .maintain va len inv => if s.unperformed th.id then s else (s.maintain th va len inv).setThread (th.complete s.now [])
  | .commit pd => s.completeCommit th pd
  | .pushHeld q ws tried => if s.unperformed th.id then s else s.pushNow th b q ws tried
  | .barrwHeld n d => if s.unperformed th.id then s else s.arriveNow th b n d
  | .surfaceWrites leave => s.completeSurface th leave
  | _ => s

/-- BLOCKING_INSTRUCTION_COMPLETE: a blocking instruction completes once what it waits for holds (R68). A parked thread's is
left to be issued again, but for the `mma` of a final `sign` (R161, R379). -/
def execBlockingInstructionComplete (tid : Nat) (s : State) : Host.Outcome State Fault Refusal :=
  .next <| match s.thread? tid with
  | some th =>
    match th.block with
    | some b => if th.parked && (match b.wait with | .signed _ => false | _ => true) then s else s.completeWait th b
    | none => s
  | none => s

/-! ## Teams (R156, R262) -/

/-- A team has nothing left to run: no thread, no spawn request, no engine operation, and for a pixel team no further quad. -/
def State.teamDone (s : State) (t : Team) : Bool :=
  !(s.threads.any (·.team = t.id)) && !(s.bins.any fun b => b.requests.any (·.team = t.id)) &&
    !(s.engines.ops.any (·.team = t.id)) &&
    (t.kind ≠ .pixel || decide (t.size < t.started + 4) ||
      (match s.launch? t.launch with | some l => !s.moreQuads l t.col | none => true))

/-- TEAM_RETIREMENT: the team's state goes and its resources are free, slots held for pixel threads among them; a geometry team's
buffer in setup is closed (R156, R217, R256, R262). -/
def execTeamRetirement (team : Nat) (s : State) : Host.Outcome State Fault Refusal :=
  .next <| match s.team? team with
  | none => s
  | some t =>
    if s.teamDone t then
      ({ s with
        teams := s.teams.filter (·.id ≠ team), locks := s.locks.filter (·.team ≠ team)
        raster := { s.raster with setups := s.raster.setups.map fun (u : Setup) => if u.team = team then { u with closed := true } else u } }).releaseWaiting
          t.col t.core
    else s

end Sys2Proof.Machine
end

