-- ==== Sys2Proof/Machine/Queues.lean ====
section
/-! DEFINITION. Work queues and launch records (R326 to R336): queue entries and tails, the examination and dispatch of
records, wait events and completion signals. -/

namespace Sys2Proof.Machine

/-! ## Queue entries (R326, R327) -/

/-- Storing a queue's entry. -/
def State.setQueue (s : State) (w : WorkQueue) : State :=
  if s.queues.any (·.idx = w.idx) then { s with queues := s.queues.map fun x => if x.idx = w.idx then w else x }
  else { s with queues := s.queues ++ [w] }

/-- RBASE. -/
def WorkQueue.rbase (w : WorkQueue) : DWord := w.entry.extractLsb' 192 64
/-- HEAD. -/
def WorkQueue.head (w : WorkQueue) : Nat := field w.entry 160 32
/-- DSEQ. -/
def WorkQueue.dseq (w : WorkQueue) : Nat := field w.entry 104 24
/-- CTX. -/
def WorkQueue.ctx (w : WorkQueue) : Nat := field w.entry 8 6
/-- LOGN. -/
def WorkQueue.logn (w : WorkQueue) : Nat := field w.entry 4 4
/-- ERR. -/
def WorkQueue.err (w : WorkQueue) : Bool := w.entry.getLsbD 1
/-- EN. -/
def WorkQueue.en (w : WorkQueue) : Bool := w.entry.getLsbD 0

/-- An entry from its fields. -/
def queueEntry (rbase : DWord) (head tail dseq ctx logn : Nat) (err en : Bool) : BitVec 256 :=
  BitVec.ofNat 256 (rbase.toNat * 2 ^ 192 + head % 2 ^ 32 * 2 ^ 160 + tail % 2 ^ 32 * 2 ^ 128 + dseq % 2 ^ 24 * 2 ^ 104 +
    ctx % 64 * 256 + logn % 16 * 16 + (if err then 2 else 0) + (if en then 1 else 0))

/-- The same queue with other counts. -/
def WorkQueue.with_ (w : WorkQueue) (head tail dseq : Nat) (err en : Bool) : WorkQueue :=
  { w with entry := queueEntry w.rbase head tail dseq w.ctx w.logn err en }

/-- The address of record `n` (R327). -/
def WorkQueue.slot (w : WorkQueue) (n : Nat) : DWord := w.rbase + BitVec.ofNat 64 (128 * (n % 2 ^ w.logn))

/-! ## Reading for a launch (R352) -/

/-- Why the device cannot read a range: a page without a valid leaf, or nothing that system software can mend. -/
inductive NoRead where
  | page (va : DWord) (f : WalkFail)
  | bad
  deriving DecidableEq, Repr

/-- A range within one page that the device reads at its home gives no good data: marked, lost, or without an answer (R362, R390, R406). -/
def State.badRead (s : State) (ctx : Nat) (l : Leaf) (n : Nat) : Bool := s.marked ctx l n || !s.servedRange l.pa n

/-- Bytes of a context's memory as the device reads them at a launch, from column 0 (R352, R406, R432). -/
def State.deviceRead (s : State) (ctx va n : Nat) : Except NoRead (List Byte) := do
  let parts ← (cutRange 65536 (n / 65536 + 2) va n).mapM fun p =>
    if !canonical (BitVec.ofNat 64 p.1) || inWindow p.1 then .error .bad
    else match s.translate ctx p.1 with
    | .error f => .error (.page (BitVec.ofNat 64 p.1) f)
    | .ok l =>
      if (l.share = 0 && l.owner ≠ 0) || l.cls = 3 then .error .bad
      else if s.unused l then .ok (List.replicate p.2 0)
      else if s.badRead ctx l p.2 then .error .bad
      else .ok (s.peek l.pa p.2)
  .ok parts.flatten

/-- A counter's place: 8-byte aligned, on a page with SHARE PACKAGE or SYSTEM (R335). `write` asks for W, and not for data that can be
read: a completion counter is translated and checked only (R334). -/
def State.counterLeaf (s : State) (ctx : Nat) (va : DWord) (write : Bool) : Except NoRead Leaf :=
  if !canonical va || inWindow va.toNat || va.toNat % 8 ≠ 0 then .error .bad
  else match s.translate ctx va.toNat with
  | .error f => .error (.page va f)
  | .ok l =>
    if l.share = 0 then .error .bad
    else if write && !l.w then .error (.page va ⟨l.level, 3⟩)
    else if !write && regionOf l.pa ≠ 4 && s.badRead ctx l 8 then .error .bad
    else .ok l

/-- The value of an event counter: of a doorbell's register, the tail (R327, R335). -/
def State.counterValue (s : State) (ctx : Nat) (l : Leaf) : Nat :=
  if regionOf l.pa = 4 then ((s.doorbell? ctx (l.pa % 2 ^ 44)).map WorkQueue.tail).getD 0 else s.peekNat l.pa 8

/-- The completion signal at a counter: bits [62:0] rise by one, bit 63 is set for a failure, as one atomic action and a
release (R336); none when it cannot be performed, as on a DEVICE page, which takes no read-modify-write (R128). -/
def State.signalCounter (s : State) (ctx : Nat) (va : DWord) (failed : Bool) : Option State :=
  match s.counterLeaf ctx va true with
  | .error _ => none
  | .ok l =>
    if l.cls = 3 || (s.badRead ctx l 8 && !s.unused l) then none else
    let s := s.freshResult ctx l
    let s := (List.range 32).foldl (fun s c => (s.countRelease c ctx).flushOlder c ctx) s
    let (b, s) := s.homeRead s.nextId l.pa 8
    let v := leNat b
    let n := (v % 2 ^ 63 + 1) % 2 ^ 63 + (if failed then 2 ^ 63 else v / 2 ^ 63 * 2 ^ 63)
    some (s.homeWrite s.nextId l.pa (leBytes 8 n))

/-- A record of kind 10 (R412). -/
def State.recordLaunch (s : State) (ctx q lrec : Nat) (addr : DWord) (item : Nat) : State :=
  s.record { ctx := ctx, kind := 10, addr := addr, item := item, queue := q, lrec := lrec }

/-! ## Records (R329 to R332) -/

/-- CE of a record. -/
def recordCe (r : BitVec 1024) : Bool := r.getLsbD 10
/-- CADDR. -/
def recordCaddr (r : BitVec 1024) : DWord := r.extractLsb' 320 64
/-- PRIO. -/
def recordPrio (r : BitVec 1024) : Nat := field r 4 3
/-- KIND. -/
def recordKind (r : BitVec 1024) : Nat := field r 0 4
/-- The address and the value of a wait event: 0 for the first, 1 for the second. -/
def recordWait (r : BitVec 1024) (i : Nat) : DWord × Nat := (r.extractLsb' (64 + 128 * i) 64, field r (128 + 128 * i) 64)
/-- A wait event is in force. -/
def recordWaits (r : BitVec 1024) (i : Nat) : Bool := r.getLsbD (8 + i)

/-- The conditions of R334 that a record's own bytes decide. -/
def recordOk (r : BitVec 1024) : Bool :=
  let kind := recordKind r
  let sx := field r 672 10 + 1
  let sy := field r 682 10 + 1
  let sz := field r 692 10 + 1
  let size := sx * sy * sz
  let gx := field r 576 32
  let gy := field r 608 32
  let gz := field r 640 32
  let coh := field r 29 7 + 1
  let waitOk (i : Nat) : Bool := !recordWaits r i || (decide ((recordWait r i).2 < 2 ^ 63) && (recordWait r i).1.toNat % 8 = 0)
  let grid :=
    field r 11 15 = 0 && field r 702 2 = 0 && decide (32 ≤ size) && decide (size ≤ 1024) && size % 32 = 0 && gx ≠ 0 &&
      gy ≠ 0 && gz ≠ 0 && decide (gx * gy * gz ≤ 2 ^ 32) && gx * gy * gz % coh = 0 && field r 45 8 ≤ 128 &&
      field r 36 9 ≤ 256 && field r 448 64 % 64 = 0 && field r 512 64 % 64 = 0
  waitOk 0 && waitOk 1 && (!recordCe r || (recordCaddr r).toNat % 8 = 0) &&
    match kind with
    | 1 => grid && field r 53 11 = 0 && field r 736 32 = 0 && field r 864 160 = 0
    | 2 => grid && coh = 1 && field r 384 64 % 64 = 0
    | 3 =>
      field r 11 53 = 0 && !r.getLsbD 7 && field r 384 64 % 64 = 0 && field r 448 32 % 64 = 0 && field r 480 32 % 64 = 0 &&
        field r 480 32 ≠ 0 && field r 544 480 = 0
    | 4 => field r 11 53 = 0 && !r.getLsbD 7 && field r 384 640 = 0
    | _ => false

/-- The team plan keeps R333: a launch's scratchpad holds its rings. -/
def planOk (p : BitVec 1536) (scr : Nat) : Bool :=
  ((List.range 16).all fun b => field p (32 * b + 24) 8 = 0) &&
    ((List.range 16).all fun q =>
      let w := field p (512 + 32 * q) 32
      let entry := if w / 2 ^ 23 % 2 = 1 then 16 else 8
      w / 2 ^ 19 % 16 = 0 &&
        (w / 2 ^ 24 = 0 || (w % 2 ^ 19 % entry = 0 && decide (w % 2 ^ 19 + (w / 2 ^ 24 + 1) * entry ≤ 4096 * scr)))) &&
    field p 1024 64 % 64 = 0 && field p 1088 32 % 64 = 0 && decide (field p 1120 16 ≤ 64) &&
    decide (64 * field p 1120 16 ≤ field p 1088 32) && field p 1136 400 = 0

/-- The pipeline object keeps R255. -/
def pipeOk (p : BitVec 1024) : Bool :=
  field p 896 128 = 0 && field p 149 43 = 0 && field p 136 8 ≤ 128 && field p 132 4 = 0 && field p 197 22 = 0 &&
    (List.range 8).all fun t =>
      let at_ := 256 + 64 * t
      field p (at_ + 36) 28 = 0 && field p (at_ + 1) 9 = 0 && field p (at_ + 29) 3 ≤ 4 && field p (at_ + 18) 3 ≤ 4 &&
        field p (at_ + 25) 4 ≤ 11 && field p (at_ + 21) 4 ≤ 11 && field p (at_ + 14) 4 ≤ 11 && field p (at_ + 10) 4 ≤ 11

/-- A draw's surfaces keep R254: each handle is a valid surface of a fitting format, with one SAMPLES and enough layers. -/
def State.drawOk (s : State) (l : Launch) : Bool :=
  let handles := ((List.range 8).map l.target_).filter (· ≠ 0xFFFFFFFF)
  let colours := handles.map (s.surface? l.ctx)
  let depths := if l.depth = 0xFFFFFFFF then [] else [s.surface? l.ctx l.depth]
  let all := (colours ++ depths).filterMap id
  decide (all.length = colours.length + depths.length) && (colours.all fun f => match f with | some f => !isDepthFmt f.fmt | none => false) &&
    (depths.all fun f => match f with | some f => isDepthFmt f.fmt | none => false) &&
    (all.all fun f => decide (l.layer < f.layers) && f.samples = ((all.head?.map Surface.samples).getD 1)) && pipeOk l.pipe

/-! ## Who may run (R373, R383) -/

/-! ## Enabling, disabling and tails (R326, R327) -/

/-- The queue waits for a page of column 0 (R352, R432). -/
def State.queueFault (s : State) (w : WorkQueue) (va : DWord) (kind : Nat) (f : WalkFail) : State :=
  let (k, s) := s.pageFault w.ctx 0 0x7F va kind f
  s.setQueue { w with token := some k, atCounter := kind = 5 }

/-- The next record has been withdrawn. -/
def WorkQueue.passed (w : WorkQueue) : WorkQueue :=
  { w.with_ ((w.head + 1) % 2 ^ 32) w.tail w.dseq w.err w.en with record := none, token := none, failing := none }

/-- One step of a queue's withdrawal: the record at HEAD is read and reported, or its completion counter is signalled; the queue waits
where a page has no valid leaf (R326, R352). -/
def State.withdrawStep (s : State) (w : WorkQueue) : State :=
  let at_ := w.slot w.head
  match w.failing, w.record with
  | some (item, _), _ => (s.recordLaunch w.ctx w.idx w.head at_ item).setQueue w.passed
  | none, some r =>
    match s.counterLeaf w.ctx (recordCaddr r) true with
    | .error (.page va f) => s.queueFault w va 5 f
    | _ =>
      match s.signalCounter w.ctx (recordCaddr r) true with
      | some t => t.setQueue w.passed
      | none => (s.recordLaunch w.ctx w.idx w.head at_ 6).setQueue w.passed
  | none, none =>
    match s.deviceRead w.ctx at_.toNat 48 with
    | .error (.page va f) => s.queueFault w va 4 f
    | .error .bad => (s.recordLaunch w.ctx w.idx w.head at_ 5).setQueue w.passed
    | .ok b =>
      let r : BitVec 1024 := BitVec.ofNat 1024 (leNat b)
      let s := (s.noteRead w.ctx 0 at_.toNat 48).recordLaunch w.ctx w.idx w.head at_ 5
      s.setQueue (if recordCe r then { w with record := some r } else w.passed)

/-- The records of a queue that has been disabled are withdrawn in ring order, until all are or one waits (R326, R413); `n` bounds the
steps. -/
def State.withdraw_ (s : State) (q : Nat) : Nat → State
  | 0 => s
  | n + 1 =>
    let w := s.queue q
    if !w.withdrawing || w.token.isSome || s.recordsFull 0 then s
    else if w.head = w.tail then s.setQueue { w with withdrawing := false }
    else (s.withdrawStep w).withdraw_ q n

/-- Steps that the withdrawal of what a queue holds takes. -/
def WorkQueue.steps (w : WorkQueue) : Nat := 2 * ((w.tail + 2 ^ 32 - w.head) % 2 ^ 32) + 2

/-- A write of a whole queue entry (R326); while records are being withdrawn it is ignored (notes/assumptions/66.md). -/
def State.writeQueueEntry (s : State) (q : Nat) (e : BitVec 256) : State :=
  let w := s.queue q
  let err := w.err && !e.getLsbD 1
  if 32768 ≤ q || field e 14 90 ≠ 0 || field e 2 2 ≠ 0 || w.withdrawing then s
  else if w.en then
    if e.getLsbD 0 then s.setQueue (w.with_ w.head w.tail w.dseq err true)
    else
      (s.setQueue { w.with_ w.head w.tail w.dseq err false with
        record := none, token := none, stopped := false, failing := none, withdrawing := true }).withdraw_ q w.steps
  else
    let w := { w with entry := queueEntry (e.extractLsb' 192 64) w.head w.tail w.dseq (field e 8 6) (field e 4 4) err false }
    if e.getLsbD 0 && w.logn ≠ 0 then
      s.setQueue { w.with_ 0 0 1 err true with record := none, met1 := false, met2 := false, token := none, stopped := false }
    else s.setQueue w

/-- QUEUE_ENABLE (R326). -/
def execQueueEnable (q : Nat) (entry : BitVec 256) (s : State) : Host.Outcome State Fault Refusal :=
  .next (if !(s.queue q).en && entry.getLsbD 0 then s.writeQueueEntry q entry else s)

/-- QUEUE_DISABLE: a write that clears EN (R326). -/
def execQueueDisable (q : Nat) (s : State) : Host.Outcome State Fault Refusal :=
  .next (if (s.queue q).en then s.writeQueueEntry q 0 else s)

/-- An accessor reaches a queue's tail register (R385). -/
def State.reachesQueue (s : State) (who : Accessor) (w : WorkQueue) : Bool :=
  match who with
  | .func f => f = 0 || (s.context w.ctx).func = f
  | .program ctx => w.ctx = ctx

/-- TAIL_WRITE: new records are published, or the write is rejected (R327). -/
def execTailWrite (who : Accessor) (q : Nat) (value : BitVec 64) (s : State) : Host.Outcome State Fault Refusal :=
  .next <|
    let w := s.queue q
    let new := field value 0 32
    let ahead (t : Nat) : Nat := (t + 2 ^ 32 - w.head) % 2 ^ 32
    if 32768 ≤ q || !s.reachesQueue who w then s
    else if field value 32 32 ≠ 0 || decide (2 ^ w.logn < ahead new) || decide (ahead new < ahead w.tail) then
      s.setQueue (w.with_ w.head w.tail w.dseq true w.en)
    else s.setQueue (w.with_ w.head new w.dseq w.err w.en)

/-! ## Examination and waits (R328, R335) -/

/-- The record at HEAD fails: it counts, is reported, and its completion is signalled as a failure, unless CADDR itself is at fault. It
waits for room for the report, and for the counter's page (R334, R413, R432). -/
def State.failRecord (s : State) (w : WorkQueue) (item : Nat) (signal : Bool) : State :=
  let r := w.record.getD 0
  let held := { w with token := none, failing := some (item, signal) }
  let target := if signal && recordCe r then some (s.counterLeaf w.ctx (recordCaddr r) true) else none
  if s.recordsFull 0 then s.setQueue held
  else match target with
  | some (.error (.page va f)) => s.queueFault held va 5 f
  | _ =>
    let t := (s.recordLaunch w.ctx w.idx w.head (w.slot w.head) item).setQueue
      { w.with_ ((w.head + 1) % 2 ^ 32) w.tail w.dseq w.err w.en with record := none, token := none, failing := none }
    match target with
    | some (.ok _) =>
      match t.signalCounter w.ctx (recordCaddr r) true with
      | some u => u
      | none => if t.recordsFull 0 then s.setQueue held else t.recordLaunch w.ctx w.idx w.head (w.slot w.head) 6
    | _ => t

/-- The queue at a ring slot that cannot be read: ERR is set, and it stops there (R328). -/
def State.stopQueue (s : State) (w : WorkQueue) : State :=
  s.setQueue { w.with_ w.head w.tail w.dseq true w.en with token := none, stopped := true }

/-- The next record of a queue is read (R328). A record whose own bytes fail it waits for nothing; one that is read poisoned fails, and
is signalled where its word 0 and CADDR are not marked (R334, R406). -/
def State.examine (s : State) (w : WorkQueue) : State :=
  let at_ := (w.slot w.head).toNat
  match s.deviceRead w.ctx at_ 128 with
  | .error (.page va f) => s.queueFault w va 4 f
  | .error .bad =>
    let marked := !inWindow at_ && (match s.translate w.ctx at_ with
      | .ok l => !(l.share = 0 && l.owner ≠ 0) && l.cls ≠ 3 && s.badRead w.ctx l 128
      | .error _ => false)
    if !marked then s.stopQueue w
    else match s.deviceRead w.ctx at_ 48 with
    | .ok b => s.failRecord { w with record := some (BitVec.ofNat 1024 (leNat b)) } 1 true
    | .error _ => s.failRecord { w with record := some 0 } 1 false
  | .ok b =>
    let r : BitVec 1024 := BitVec.ofNat 1024 (leNat b)
    (s.noteRead w.ctx 0 at_ 128).setQueue
      { w with record := some r, met1 := !recordOk r || !recordWaits r 0, met2 := !recordOk r || !recordWaits r 1 }

/-- RECORD_EXAMINE: the next record in ring order is read (R328), a record that fails goes on to its report and signal (R334), or a queue
that has been disabled goes on with its withdrawal (R326). -/
def execRecordExamine (q : Nat) (s : State) : Host.Outcome State Fault Refusal :=
  .next <|
    let w := s.queue q
    if w.withdrawing then s.withdraw_ q w.steps
    else if !w.en || w.stopped || w.token.isSome then s
    else match w.failing with
    | some (item, signal) => s.failRecord w item signal
    | none => if w.record.isSome || w.head = w.tail || !s.mayRun w.ctx then s else s.examine w

/-- WAIT_EVENT_MET: the counter of a wait in force is looked at (R335): bit 63 fails the record, as a counter that cannot be
read does (R334). -/
def execWaitEventMet (q : Nat) (second : Bool) (s : State) : Host.Outcome State Fault Refusal :=
  .next <|
    let w := s.queue q
    match w.record with
    | none => s
    | some r =>
      let i := if second then 1 else 0
      if !w.en || w.token.isSome || w.failing.isSome || (if second then w.met2 else w.met1) || !s.mayRun w.ctx then s
      else match s.counterLeaf w.ctx (recordWait r i).1 false with
      | .error (.page va f) => s.queueFault w va 4 f
      | .error .bad => s.failRecord w 1 true
      | .ok l =>
        let s := s.recallFor 0 l.pa 8
        let v := s.counterValue w.ctx l
        if 2 ^ 63 ≤ v then s.failRecord w 2 true
        else if (recordWait r i).2 ≤ v then s.setQueue (if second then { w with met2 := true } else { w with met1 := true })
        else s

/-! ## Dispatch (R334, R338) -/

/-- Columns of a WEIGHTLOAD's mask. -/
def Launch.cmask (l : Launch) : Nat := field l.record 512 32

/-- A WEIGHTLOAD of the context is under way on a column (R277). -/
def State.loadingWeights (s : State) (ctx col : Nat) : Bool :=
  s.sched.launches.any fun l => l.ctx = ctx && l.kind = 3 && !l.done && l.cmask.testBit col

/-- A launch of the context runs on a column of the mask: a resident or saved team, a launch with teams still to place, which may go to
any column, or a draw, whose pixel work may lie on any (R277). -/
def State.runsOn (s : State) (ctx mask : Nat) : Bool :=
  (s.teams.any fun t => t.ctx = ctx && mask.testBit t.col) ||
    (s.sched.saved.any fun v => v.team.ctx = ctx && mask.testBit v.team.col) ||
    (s.sched.launches.any fun l => l.ctx = ctx &&
      ((l.kind = 2 && !l.done) || (l.kind = 1 && !l.terminated && decide (l.next < l.total))))

/-- With its next draw a queue has fewer than 2^23 in flight, counted from the oldest (R257). -/
def State.drawRoom (s : State) (w : WorkQueue) : Bool :=
  s.sched.launches.all fun l => !(l.kind = 2 && l.q = w.idx) || decide ((w.dseq + 2 ^ 24 - l.draw % 2 ^ 24) % 2 ^ 24 + 1 < 2 ^ 23)

/-- A queue's next record is ready to be served (R257, R277, R328, R338). -/
def State.queueReady (s : State) (w : WorkQueue) : Bool :=
  match w.record with
  | none => false
  | some r =>
    w.en && !w.stopped && w.token.isNone && w.failing.isNone && w.met1 && w.met2 && s.mayRun w.ctx &&
      (recordKind r ≠ 3 || !s.runsOn w.ctx (field r 512 32)) &&
      (recordKind r ≠ 2 || (!(List.range 32).any (s.loadingWeights w.ctx) && s.drawRoom w))

/-- The place of a queue in its priority's round (R338). -/
def State.turn (s : State) (w : WorkQueue) : Nat :=
  let prio := recordPrio (w.record.getD 0)
  (w.idx + 32768 - (s.sched.served.getD prio 32767 + 1)) % 32768

/-- The queue that is served next (R338). -/
def State.nextQueue (s : State) : Option WorkQueue :=
  (s.queues.filter s.queueReady).foldl (fun best w =>
    match best with
    | none => some w
    | some b =>
      let p := recordPrio (w.record.getD 0)
      let o := recordPrio (b.record.getD 0)
      if o < p || (o = p && decide (s.turn w < s.turn b)) then some w else some b) none

/-- The launch that a record makes. -/
def WorkQueue.launch (w : WorkQueue) (id : Nat) (r : BitVec 1024) (pipe : BitVec 1024) (plan : BitVec 1536)
    (params : BitVec 2048) : Launch where
  id := id
  q := w.idx
  lrec := w.head
  ctx := w.ctx
  record := r
  pipe := pipe
  plan := plan
  params := params
  draw := w.dseq
  order := id
  next := 0
  failed := false
  terminated := false
  done := recordKind r = 4
  token := none
  dead := false
  since := none
  target := none
  reserved := []
  held := []
  entries := []
  windows := []

/-- What a record names in memory, read at dispatch: pipeline, plan and parameters (R331). -/
def State.readLaunch (s : State) (ctx : Nat) (r : BitVec 1024) : Except NoRead (BitVec 1024 × BitVec 1536 × BitVec 2048) :=
  if 3 ≤ recordKind r then .ok (0, 0, 0)
  else do
    let pipe ← if recordKind r = 2 then s.deviceRead ctx (field r 384 64) 128 else .ok []
    let params ← s.deviceRead ctx (field r 448 64) 256
    let plan ← if field r 512 64 ≠ 0 then s.deviceRead ctx (field r 512 64) 192 else .ok []
    .ok (BitVec.ofNat 1024 (leNat pipe), BitVec.ofNat 1536 (leNat plan), BitVec.ofNat 2048 (leNat params))

/-- What a dispatch reads is recalled from the columns that own it (R234). -/
def State.recallLaunch (s : State) (ctx : Nat) (r : BitVec 1024) : State :=
  if 3 ≤ recordKind r then s
  else
    let s := if recordKind r = 2 then s.noteRead ctx 0 (field r 384 64) 128 else s
    let s := s.noteRead ctx 0 (field r 448 64) 256
    if field r 512 64 ≠ 0 then s.noteRead ctx 0 (field r 512 64) 192 else s

/-- What was read at dispatch keeps R254, R277 and R333. -/
def State.launchOk (s : State) (l : Launch) : Bool :=
  match l.kind with
  | 1 => planOk l.plan l.scr
  | 2 => planOk l.plan l.scr && s.drawOk l
  | 3 => decide (field l.record 448 32 + field l.record 480 32 ≤ field (s.context l.ctx).desc 580 12 * 65536)
  | _ => true

/-- A met wait acts as an acquire for every access of the launch (R335). -/
def State.acquireAll (s : State) : State := (List.range 32).foldl State.acquire s

/-- Dispatching the record at a queue's head (R331, R334): a draw keeps the entries of its surfaces as they stand, no texture cache holds a
line, and the ink table in memory is brought up to date (R175, R249, R356). -/
def State.dispatch (s : State) (w : WorkQueue) (r : BitVec 1024) : State :=
  let s := { s with sched := { s.sched with served := s.sched.served.set (recordPrio r) w.idx } }
  if !recordOk r then s.failRecord w 1 true
  else match (if recordCe r then (s.counterLeaf w.ctx (recordCaddr r) true).map (fun _ => ()) else .ok ()), s.readLaunch w.ctx r with
  | .error (.page va f), _ => s.queueFault w va 5 f
  | .error .bad, _ => s.failRecord w 1 false
  | .ok _, .error (.page va f) => s.queueFault w va 4 f
  | .ok _, .error .bad => s.failRecord w 1 true
  | .ok _, .ok (pipe, plan, params) =>
    let (id, s) := s.newId
    let l := w.launch id r pipe plan params
    if !s.launchOk l then s.failRecord w 1 true
    else
      let dseq := if recordKind r = 2 then (w.dseq + 1) % 2 ^ 24 else w.dseq
      let s := s.setQueue { w.with_ ((w.head + 1) % 2 ^ 32) w.tail dseq w.err w.en with record := none, met1 := false, met2 := false }
      let l := { l with entries := if l.kind = 2 then (s.boundSurfaces l).map Surface.entry else [] }
      let s := { s with
        sched := { s.sched with launches := s.sched.launches ++ [l] }, caches := { s.caches with textures := [] } }
      let s := (s.recallLaunch w.ctx r).syncInks w.ctx
      if recordWaits r 0 || recordWaits r 1 then s.acquireAll else s

/-- LAUNCH_DISPATCH: the queue that is served next dispatches its record, or the record fails (R334, R338). -/
def execLaunchDispatch (q : Nat) (s : State) : Host.Outcome State Fault Refusal :=
  .next <| match s.nextQueue with
  | none => s
  | some w =>
    match w.record with
    | some r => if w.idx = q then s.dispatch w r else s
    | none => s

/-- A page that a queue waited for was declared unresolvable: a record to withdraw cannot be read or signalled, a ring that cannot be
read stops the queue, and anything else fails the record (R326, R328, R334). -/
def State.queueDead (s : State) (w : WorkQueue) : State :=
  if w.withdrawing then
    (s.setQueue { w with token := none, failing := some (if w.record.isSome then 6 else 5, false) }).withdraw_ w.idx w.steps
  else match w.failing, w.record with
  | some (item, _), _ => s.failRecord w item false
  | none, none => s.stopQueue w
  | none, some _ => s.failRecord w 1 (!w.atCounter)

/-! ## WEIGHTLOAD (R277) -/

/-- Clearing or setting the marks of a range of a weight store, and its bytes. -/
def State.putWeights (s : State) (col at_ : Nat) (bytes : List Byte) (mark : Bool) (n : Nat) : State :=
  let w := (s.regs.weights.find? (·.col = col)).getD ⟨col, [], []⟩
  let out := w.poison.filter fun k => !(at_ ≤ k * 32 && k * 32 + 32 ≤ at_ + n)
  let w := { w with
    bytes := writeBytes w.bytes at_ bytes
    poison := if mark then out ++ (List.range (n / 32)).map (at_ / 32 + ·) else out }
  { s with regs := { s.regs with weights := w :: s.regs.weights.filter (·.col ≠ col) } }

/-- Changing a launch. -/
def State.finishWeights (s : State) (l : Launch) (failed : Bool) : State :=
  s.setLaunch { l with done := true, failed := l.failed || failed, token := none, dead := false, since := none }

/-- Why a byte of the source cannot be read as `ldro` would read it: the cause, or none while its page is awaited or it reads
(R130, R277, R318). -/
def State.weightCause (s : State) (ctx va : Nat) : Option Nat :=
  if !canonical (BitVec.ofNat 64 va) || inWindow va then some 0x07
  else match s.translate ctx va with
  | .error _ => none
  | .ok l =>
    if l.cls = 3 then some 0x06
    else if l.share = 0 && l.owner ≠ 0 then some 0x08
    else match if l.cls = 1 then s.inkTest ctx va 1 false else none with
      | some c => some c
      | none => if s.badRead ctx l 1 then some 0x0F else none

/-- The bytes of the source; or its first byte that cannot be read, with the cause, or with the page that is missing. -/
def State.weightSource (s : State) (l : Launch) : Except (Nat × (Nat ⊕ WalkFail)) (List Byte) := do
  let va := field l.record 384 64
  let n := field l.record 480 32
  let parts ← (cutRange 65536 (n / 65536 + 2) va n).mapM fun p =>
    match s.deviceRead l.ctx p.1 p.2 with
    | .error (.page a f) => .error (a.toNat, .inr f)
    | r =>
      match r, s.translate l.ctx p.1 with
      | .ok b, .ok f =>
        if f.cls = 1 then
          match (List.range p.2).findSome? fun i => (s.weightCause l.ctx (p.1 + i)).map fun c => (p.1 + i, c) with
          | some (a, c) => .error (a, .inl c)
          | none => .ok b
        else .ok b
      | _, _ =>
        match (List.range p.2).findSome? fun i => (s.weightCause l.ctx (p.1 + i)).map fun c => (p.1 + i, c) with
        | some (a, c) => .error (a, .inl c)
        | none => .error (p.1, .inl 0x07)
  .ok parts.flatten

/-- The first byte of the source that lies on an empty result line (R318). -/
def State.weightEmpty (s : State) (l : Launch) : Option Nat :=
  let va := field l.record 384 64
  ((cutRange 128 (field l.record 480 32 / 128 + 2) va (field l.record 480 32)).find? fun p =>
    match s.translate l.ctx p.1 with
    | .ok f => f.cls = 4 && !s.unused f && s.lineEmpty (f.pa / 128)
    | .error _ => false).map (·.1)

/-- WEIGHTLOAD: the source is read and written to every masked column; a source that cannot be read marks the range (R277), as one on a
result line that stays empty does (R318). -/
def execWeightload (launch : Nat) (s : State) : Host.Outcome State Fault Refusal :=
  .next <| match s.launch? launch with
  | none => s
  | some l =>
    if l.kind ≠ 3 || l.done || l.token.isSome || s.recordsFull 0 then s
    else
      let at_ := field (s.context l.ctx).desc 592 12 * 65536 + field l.record 448 32
      let n := field l.record 480 32
      let cols := (List.range 32).filter l.cmask.testBit
      let fail (va cause : Nat) : State :=
        let s := cols.foldl (fun s c => s.putWeights c at_ [] true n) s
        (s.record { ctx := l.ctx, kind := 9, addr := BitVec.ofNat 64 va, info := infoWord cause 0 false, item := l.cmask, queue := l.q
                    lrec := l.lrec }).finishWeights l true
      match s.weightSource l, s.weightEmpty l with
      | .ok _, some va =>
        match l.since with
        | none => s.setLaunch { l with since := some s.now }
        | some t => if t + 110000 ≤ s.now then fail va 0x0F else s
      | .ok b, none =>
        let s := s.noteRead l.ctx 0 (field l.record 384 64) n
        (cols.foldl (fun s c => s.putWeights c at_ b false n) s).finishWeights l false
      | .error (va, .inl c), _ => fail va c
      | .error (va, .inr f), _ =>
        if l.dead then fail va 0x07
        else
          let (k, s) := s.pageFault l.ctx 0 0x7F (BitVec.ofNat 64 va) 4 f
          s.setLaunch { l with token := some k }

/-! ## Completion (R336) -/

/-- A record that waits in a column is of one of a launch's items (R411). -/
def HeldRecord.isOf (r : HeldRecord) (l : Launch) : Bool :=
  let v := leNat r.bytes
  r.ctx = l.ctx && r.copy = 0 && v / 2 ^ 304 % 2 ^ 16 = l.q && v / 2 ^ 272 % 2 ^ 32 = l.lrec

/-- The work of a launch is over and performed, and the records of its items are posted (R336, R413). -/
def State.launchOver (s : State) (l : Launch) : Bool :=
  (s.teams.all fun t => t.launch ≠ l.id) && (s.sched.saved.all fun v => v.team.launch ≠ l.id) &&
    (s.ops.all fun o => o.launch ≠ l.id) && (s.engines.greds.all fun g => g.launch ≠ l.id) &&
    (s.heldRecords.all fun r => !r.isOf l) && (!(l.failed || l.terminated) || !s.recordsFull 0) &&
    match l.kind with
    | 1 => l.terminated || decide (l.next = l.total)
    | _ => l.done

/-- A range of a context's memory reads zero wherever it is mapped. -/
def State.zeroRange (s : State) (ctx va n : Nat) : State :=
  (cutRange 65536 (n / 65536 + 2) va n).foldl (fun s p =>
    match s.translate ctx p.1 with
    | .ok l => s.homeZero l.pa p.2
    | .error _ => s) s

/-- The stack windows that the threads of a launch have had read zero once it is over (R6, notes/assumptions/67.md). -/
def State.zeroWindows (s : State) (l : Launch) : State :=
  l.windows.foldl (fun s w => s.zeroRange l.ctx w.toNat l.stack.2.1) s

/-- LAUNCH_COMPLETION_SIGNAL: the launch is gone, the ink table in memory is brought up to date (R356), a failed launch is reported, and the
completion counter is signalled (R336). -/
def execLaunchCompletionSignal (launch : Nat) (s : State) : Host.Outcome State Fault Refusal :=
  .next <| match s.launch? launch with
  | none => s
  | some l =>
    if !s.launchOver l then s
    else
      let w := s.queue l.q
      let addr := w.slot l.lrec
      let failed := l.failed || l.terminated
      let old := s
      let s := s.zeroWindows l
      let s := { s with sched := { s.sched with launches := s.sched.launches.filter (·.id ≠ l.id) } }.syncInks l.ctx
      let s := if failed then s.recordLaunch l.ctx l.q l.lrec addr (if l.terminated then 4 else 3) else s
      if !l.ce || (s.context l.ctx).desc.getLsbD 3 then s
      else match s.signalCounter l.ctx (recordCaddr l.record) failed with
      | some t => t
      | none => if s.recordsFull 0 then old else s.recordLaunch l.ctx l.q l.lrec addr 6

end Sys2Proof.Machine
end

