-- ==== Sys2Proof/Machine/Placement.lean ====
section
/-! DEFINITION. Placing teams and cohorts (R258, R337 to R339), and marking teams for a save (R218, R340, R378). -/

namespace Sys2Proof.Machine

/-! ## What a launch still has to place (R338) -/

/-- A launch that has teams to place, in a context that may run. -/
def State.waiting (s : State) (l : Launch) : Bool :=
  (l.kind = 1 || l.kind = 2) && !l.terminated && decide (l.next < l.total) && s.mayRun l.ctx

/-- A saved team that may be restored. -/
def State.restorable (s : State) (v : SavedTeam) : Bool := s.mayRun v.team.ctx

/-- PRIO of the launch of a team. -/
def State.prioOf (s : State) (t : Team) : Nat := ((s.launch? t.launch).map Launch.prio).getD 0

/-- The masks of pens. -/
def penMasks : List Nat := (List.range 15).map (· + 1)

/-- A launch's next team fits somewhere on a core. -/
def State.fitsOn (s : State) (l : Launch) (col core : Nat) : Bool :=
  !s.loadingWeights l.ctx col && penMasks.any fun m => s.fits (l.claim ⟨col, core, m⟩) (s.claims l)

/-- The machine with nothing resident. -/
def State.vacant (s : State) : State := { s with teams := [], threads := [] }

/-- The first of some places where the most is free. -/
def mostFree (rs : List Reserve) (free : Reserve → Nat) : Option Reserve :=
  (rs.foldl (fun (b : Option (Reserve × Nat)) r =>
    let k := free r
    match b with
    | some (_, n) => if n < k then some (r, k) else b
    | none => some (r, k)) none).map (·.1)

/-- Places for the teams of a cohort in a column: where they fit now one after another, and the rest where the most of what they need is
free, of the places where they would fit were nothing resident there (R339). -/
def State.plan (s : State) (l : Launch) (col : Nat) : Nat → List Reserve → List Reserve
  | 0, got => got
  | n + 1, got =>
    if l.cohort ≤ got.length then got
    else
      let cs := s.claims l ++ got.map l.claim
      match (placesOf col).find? fun r => s.fits (l.claim r) cs with
      | some r => s.plan l col n (got ++ [r])
      | none =>
        match mostFree ((placesOf col).filter fun r => s.vacant.fits (l.claim r) cs) fun r => (s.gatherAt l r cs).count with
        | some r => s.plan l col n (got ++ [r])
        | none => got

/-- What a cohort could reserve now at the places of a plan, team by team. -/
def State.gather (s : State) (l : Launch) (places : List Reserve) : List Held :=
  places.foldl (fun kept r => kept ++ [s.gatherAt l r (s.claims l ++ kept.map Held.claim)]) []

/-- The column where the most of a cohort's needs are free, at the lowest number (R339). -/
def State.bestColumn (s : State) (l : Launch) : Nat :=
  ((List.range 32).foldl (fun (b : Nat × Nat) c =>
    let k := ((s.gather l (s.plan l c l.cohort [])).map Held.count).sum
    if b.2 < k then (c, k) else b) (0, 0)).1

/-- A cohort that comes up for placement: its target column is fixed, with places for its teams (R339). -/
def State.aim (s : State) (l : Launch) : Launch :=
  match l.target with
  | some _ => l
  | none =>
    let c := s.bestColumn l
    { l with target := some (c, s.now), held := (s.plan l c l.cohort []).map fun r => ⟨r, false, 0, 0, [], []⟩ }

/-- A team of a higher `PRIO` launch that is no cohort is considered first for what is free on a core (R338). -/
def State.higherFirst (s : State) (l : Launch) (col core : Nat) : Bool :=
  s.sched.launches.any fun m => decide (l.prio < m.prio) && s.waiting m && m.cohort = 1 && s.fitsOn m col core

/-- What a team of a launch must leave alone: what others have reserved, and what the cohorts of higher `PRIO` that wait would take at the
places of their teams, which are considered first and take no more than they need (R338, R339). -/
def State.ahead (s : State) (l : Launch) : List Claim :=
  let first (m : Launch) : Bool := decide (l.prio < m.prio) && s.waiting m && decide (1 < m.cohort)
  let rest : State := { s with sched := { s.sched with launches := s.sched.launches.filter fun m => !first m } }
  rest.claims l ++ (s.sched.launches.filter first).flatMap fun m => (s.gather m ((s.aim m).held.map Held.place)).map Held.claim

/-- A saved team is restored ahead: of its launch's own teams, and on its core of teams of equal or lower `PRIO` (R338). -/
def State.savedFirst (s : State) (l : Launch) (col core : Nat) : Bool :=
  s.sched.saved.any fun v =>
    s.restorable v &&
      (v.team.launch = l.id || (v.team.col = col && v.team.core = core && decide (l.prio ≤ s.prioOf v.team)))

/-- An earlier team of an ordered launch is marked and still resident: a later one is neither placed nor restored before it (R215, R338). -/
def State.heldBack (s : State) (l : Launch) (index : Nat) : Bool :=
  l.ord && s.teams.any fun t => t.launch = l.id && t.kind ≠ .pixel && t.marked.isSome && decide (t.index < index)

/-- A place is open to the next team of a launch. -/
def State.placeOpen (s : State) (l : Launch) (r : Reserve) : Bool :=
  !s.loadingWeights l.ctx r.col && !s.heldBack l l.next && s.fits (l.claim r) (s.ahead l) && !s.higherFirst l r.col r.core &&
    !s.savedFirst l r.col r.core

/-! ## Pixel teams (R258, R260) -/

/-- A place for a new pixel team: the reserved one while it is free, else the first that fits and that no team which comes before takes (R258,
R337, R338). -/
def State.pixelPlace (s : State) (l : Launch) (col : Nat) : Option Reserve :=
  match l.reserved.find? fun r => r.col = col && !s.atReserve l r && s.fits (l.pixelClaim r) ((s.claims l).erase (l.pixelClaim r)) with
  | some r => some r
  | none => (placesOf col).find? fun r =>
    s.fits (l.pixelClaim r) (s.ahead l) && !s.higherFirst l r.col r.core && !s.savedFirst l r.col r.core

/-- The team for a quad: one with room, or a new one at a free place. -/
def State.takeQuadTeam (s : State) (l : Launch) (col : Nat) : Option (Team × State) :=
  match s.quadTeam l col with
  | some t => some (t, s)
  | none =>
    (s.pixelPlace l col).map fun r =>
      let (id, s) := s.newId
      let t := l.pixelTeam id r
      (t, { s with teams := s.teams ++ [t] })

/-- RASTERIZE: a column's rasterizer takes the least primitive of a work queue and starts its next quad: tickets in sequence
order, then four pixel threads (R257 to R262). A primitive without a further quad leaves its queue.
None starts in a context that may not run (R383). -/
def execRasterize (col queue : Nat) (s : State) : Host.Outcome State Fault Refusal :=
  .next <| match s.leastHead col queue with
  | none => s
  | some b =>
    match b.prims with
    | [] => s
    | p :: rest =>
      if s.mayPrecede none queue p.seq || (s.launch? p.launch).any fun l => !s.mayRun l.ctx then s
      else match s.launch? p.launch with
      | none => s.setInbound { b with prims := rest, cursor := 0 }
      | some l =>
        let area := l.area
        let n := l.samples
        let (_, _, nx, ny) := p.quadBox area
        match p.turned.nextQuad col n area b.cursor (nx * ny + 1) with
        | none => s.setInbound { b with prims := rest, cursor := 0 }
        | some (k, x, y, cover) =>
          let banks := (((quadPixels x y).zip cover).filter fun q => q.2 ≠ 0).map fun q => l.bankOf q.1.1 q.1.2
          if banks.any fun c => decide (8192 < s.bankTickets col c + (banks.filter (· = c)).length) then s
          else match s.takeQuadTeam l col with
          | none => s
          | some (t, s') =>
            if !s'.quadRoom l t then s
            else
              let (s, ks) := s'.issueTickets l p x y n cover
              let s := (s.acquire col).startQuad l t p x y cover ks
              (s.setTeam { t with started := t.started + 4 }).setInbound { b with cursor := k + 1 }

/-- The columns where a quad of a draw waits for a new pixel team (R258, R260). -/
def State.quadColumns (s : State) (l : Launch) : List Nat :=
  if l.kind ≠ 2 || !s.mayRun l.ctx then []
  else (List.range 32).filter fun c =>
    (match (s.leastHead c l.q).bind fun b => b.prims.head? with | some p => p.launch = l.id | none => false) && (s.quadTeam l c).isNone

/-! ## Placement (R258, R337, R339) -/

/-- The room for a pixel team of a draw on a column, reserved before any geometry team of it is placed there (R258). -/
def State.reservePixel (s : State) (l : Launch) (r : Reserve) : Option (Launch × State) :=
  if l.kind ≠ 2 || l.reserved.any (·.col = r.col) then some (l, s)
  else
    match (placesOf r.col).find? fun p => s.fits (l.pixelClaim p) (s.ahead l ++ [l.claim r]) with
    | some p =>
      let m := { l with reserved := l.reserved ++ [p] }
      some (m, s.setLaunch m)
    | none => none

/-- TEAM_PLACEMENT: the next team of a launch starts at a place where it fits (R337, R338). -/
def execTeamPlacement (launch col core pens : Nat) (s : State) : Host.Outcome State Fault Refusal :=
  .next <| match s.launch? launch with
  | none => s
  | some l =>
    let r : Reserve := ⟨col, core, pens⟩
    if s.waiting l && l.cohort = 1 && decide (pens < 16) && s.placeOpen l r then
      match s.reservePixel l r with
      | some (l, s) => (s.startTeam l r).lapse
      | none => s
    else s

/-- What a cohort reserves at the places of its teams, one team after another: what is free for it there, and no more than what it holds
where others come first or the column takes no team now (R277, R338, R339). -/
def State.reserveMore (s : State) (l : Launch) : List Held :=
  l.held.foldl (fun kept h =>
    let new := s.gatherAt l h.place (s.ahead l ++ kept.map Held.claim)
    let shut := s.loadingWeights l.ctx h.place.col || s.higherFirst l h.place.col h.place.core || s.savedFirst l h.place.col h.place.core
    kept ++ [if shut then h.common new else new]) []

/-- COHORT_PLACEMENT: the target column is fixed, resources are reserved as they are free, and once every team has all that it needs all
start in one cycle (R339). -/
def execCohortPlacement (launch : Nat) (s : State) : Host.Outcome State Fault Refusal :=
  .next <| match s.launch? launch with
  | none => s
  | some l =>
    if s.waiting l && decide (1 < l.cohort) && !s.heldBack l l.next then
      let m := s.aim l
      let m := { m with held := s.reserveMore m }
      if m.held.length = m.cohort && m.held.all (·.full m) then
        let s := s.setLaunch { m with target := none, held := [] }
        (m.held.foldl (fun s h =>
          match s.launch? launch with
          | some k => s.startTeam k h.place
          | none => s) s).lapse
      else (s.setLaunch m).lapse
    else s

/-! ## Marking for a save (R218, R340, R378, R380) -/

/-- Bytes of a team's image, in whole 64 KiB units (R380). -/
def Team.imageSize (t : Team) : Nat :=
  (8192 + t.scratchSize + 1024 * t.accTiles + 22528 * t.lanes.length + 65535) / 65536 * 65536

/-- The save area of a context: base and size (R371). -/
def Context.saveArea (c : Context) : Nat × Nat := (field c.desc 640 64, 65536 * field c.desc 608 32)

/-- The first free place of a size in a context's save area beside the images there. -/
def placeImage (area : Nat × Nat) (taken : List (Nat × Nat)) (size : Nat) : Option Nat :=
  (area.1 :: taken.map fun t => t.1 + t.2).foldl (fun best a =>
    let free := area.1 ≤ a && decide (a + size ≤ area.1 + area.2) && taken.all fun t => decide (t.1 + t.2 ≤ a) || decide (a + size ≤ t.1)
    if free then some (match best with | some b => min a b | none => a) else best) none

/-- The images in a context's save area. -/
def State.images (s : State) (ctx : Nat) : List (Nat × Nat) :=
  (s.sched.saved.filter fun v => v.team.ctx = ctx).map fun v => (v.base, v.size)

/-- Images of the given sizes fit beside those taken. -/
def imagesFit (area : Nat × Nat) : List (Nat × Nat) → List Nat → Bool
  | _, [] => true
  | taken, n :: r =>
    match placeImage area taken n with
    | some b => imagesFit area ((b, n) :: taken) r
    | none => false

/-- The resident teams of a team's cohort (R339). -/
def State.cohortOf (s : State) (t : Team) : List Team :=
  match s.launch? t.launch with
  | some l => s.teams.filter fun u => u.launch = t.launch && u.kind = t.kind && u.index / l.cohort = t.index / l.cohort
  | none => [t]

/-- The images of a team's cohort fit in the save area beside those there and those of the teams already marked (R380). -/
def State.savable (s : State) (t : Team) : Bool :=
  let ours := s.cohortOf t
  let others := s.teams.filter fun u => u.ctx = t.ctx && u.marked.isSome && !ours.any (·.id = u.id)
  t.kind ≠ .pixel && t.marked.isNone &&
    imagesFit (s.context t.ctx).saveArea (s.images t.ctx) ((others ++ ours).map Team.imageSize)

/-- A team is marked: bins of its context on the core release, and the gatherer dispatches its requests (R192, R217, R218,
R379). -/
def State.mark (s : State) (t : Team) : State :=
  let s := s.setTeam { t with marked := some s.now }
  let s := (s.bins.filter fun b => b.col = t.col && b.core = t.core && b.ctx = t.ctx).foldl
    (fun (s : State) b => s.releaseBin { b with released := true }) s
  s.flushTeam t.id t.col t.core

/-- The machine without some of its teams and their threads. -/
def State.without (s : State) (p : Team → Bool) : State :=
  { s with
    teams := s.teams.filter fun t => !p t
    threads := s.threads.filter fun t => !(match s.team? t.team with | some u => p u | none => false) }

/-- A saved team finds its places free, beside what others have reserved (R258, R339, R381). -/
def State.placeFree (s : State) (v : SavedTeam) : Bool :=
  let t := v.team
  let l := s.launch? t.launch
  let cs := (l.map s.ahead).getD []
  let regs := (l.map Launch.pregs).getD 0
  decide (1 ≤ s.teamRoom t.col t.core cs) && decide (t.scratchSize / 4096 ≤ s.scrRoom t.col t.core cs) &&
    decide (t.accTiles ≤ s.accRoom t.col t.core cs) &&
    (v.threads.all fun th => !s.threads.any fun u => u.col = t.col && u.core = t.core && u.lane = th.lane && u.slot = th.slot) &&
    (lanesOf 15).all fun lane =>
      let mine := v.threads.filter (·.lane = lane)
      decide (mine.length + t.heldOn lane ≤ s.slotRoom t.col t.core lane cs) &&
        decide ((mine.map Thread.allot).sum + t.heldOn lane * regs ≤ s.blockRoom t.col t.core lane cs)

/-- A thread as it goes on after a restore: an escalation answered meanwhile has been applied. A wait that goes on is as old as it was (R161,
R222). -/
def Thread.resumed (th : Thread) (now : Nat) : Thread :=
  { th with parked := false, wholeSave := false, mask := none, nextIssue := now, readySince := now }

/-- A saved team is resident again. -/
def State.putBack (s : State) (v : SavedTeam) : State :=
  { s with
    teams := s.teams ++ [v.team]
    threads := s.threads ++ v.threads.map fun (th : Thread) => th.resumed s.now
    sched := { s.sched with saved := s.sched.saved.filter fun w => w.team.id ≠ v.team.id } }

/-- The saved teams of a team's cohort (R339). -/
def State.savedCohort (s : State) (v : SavedTeam) : List SavedTeam :=
  match s.launch? v.team.launch with
  | some l => s.sched.saved.filter fun w => w.team.launch = l.id && w.team.index / l.cohort = v.team.index / l.cohort
  | none => [v]

/-- Saved teams find their places free, one after another. -/
def State.allFree (s : State) : List SavedTeam → Bool
  | [] => true
  | v :: r => s.placeFree v && (s.putBack v).allFree r

/-- The next team of a launch fits on a column, for a draw with the room for a pixel team that goes with it (R258, R337). -/
def State.teamFits (s : State) (l : Launch) (col : Nat) : Bool :=
  if l.kind ≠ 2 || l.reserved.any (·.col = col) then (List.range 128).any (s.fitsOn l col)
  else !s.loadingWeights l.ctx col && (placesOf col).any fun r =>
    s.fits (l.claim r) (s.claims l) && (placesOf col).any fun p => s.fits (l.pixelClaim p) (s.claims l ++ [l.claim r])

/-- What a launch would place next: the pixel teams that its quads wait for, each of its saved cohorts, else its next team or cohort. `fit`
says of each whether it fits in a state. -/
def State.wants (s : State) (l : Launch) : List (State → Bool) :=
  let saved := s.sched.saved.filter fun v => v.team.launch = l.id && s.restorable v
  (s.quadColumns l).map (fun c t => (t.pixelPlace l c).isSome) ++
  if !saved.isEmpty then saved.map fun v t => t.allFree (s.savedCohort v)
  else if !s.waiting l then []
  else [fun t => (List.range 32).any fun c =>
    if l.cohort = 1 then t.teamFits l c
    else !t.loadingWeights l.ctx c && decide (l.cohort ≤ (t.gather l (t.plan l c l.cohort [])).countP (·.full l))]

/-- Everything that the launch would place next fits. -/
def State.nextFits (s : State) (l : Launch) : Bool := (s.wants l).all fun fit => fit s

/-- The resident teams of the launch that were dispatched after a team, when the launch is ordered: the team is not saved before them
(R215). -/
def State.later (s : State) (t : Team) : List Team :=
  match s.launch? t.launch with
  | some l => if l.ord then s.teams.filter fun u => u.launch = t.launch && u.kind ≠ .pixel && decide (t.index < u.index) else []
  | none => []

/-- The team may be chosen for a save, as may every later team of its ordered launch (R215, R380). -/
def State.choosable (s : State) (t : Team) : Bool :=
  s.savable t && (s.later t).all fun u => u.marked.isSome || s.savable u

/-- Teams of a lower `PRIO` that this rule may save or is saving. -/
def State.below (s : State) (l : Launch) (t : Team) : Bool :=
  decide (s.prioOf t < l.prio) && (t.marked.isSome || s.choosable t)

/-- A victim goes before another: lower `PRIO`, then the launch dispatched later, then the higher index (R340). -/
def State.victimFirst (s : State) (a b : Team) : Bool :=
  let order (t : Team) : Nat := ((s.launch? t.launch).map Launch.order).getD 0
  decide (s.prioOf a < s.prioOf b) ||
    (s.prioOf a = s.prioOf b && (decide (order b < order a) || (order a = order b && decide (b.index < a.index))))

/-- The next victim of a launch. -/
def State.victimTeam (s : State) (l : Launch) : Option Team :=
  (s.teams.filter fun t => s.below l t && t.marked.isNone).foldl (fun best t =>
    match best with
    | none => some t
    | some b => if s.victimFirst t b then some t else some b) none

/-- PREEMPTION: a team, or a cohort to restore, that fits nowhere while teams of lower `PRIO` hold the resources has the next victim's
cohort marked, unless the teams already marked make room (R340). -/
def execPreemption (launch : Nat) (s : State) : Host.Outcome State Fault Refusal :=
  .next <| match s.launch? launch with
  | none => s
  | some l =>
    let marked := s.without fun t => t.marked.isSome
    let low := s.without (s.below l)
    if (s.wants l).any fun fit => !fit s && !fit marked && fit low then
      match s.victimTeam l with
      | some t => (s.cohortOf t).foldl (fun s u => match s.team? u.id with | some w => s.mark w | none => s) s
      | none => s
    else s

end Sys2Proof.Machine
end

