-- ==== Sys2Proof/Machine/Preempt.lean ====
section
/-! DEFINITION. Parking, saving and restoring teams, the answers to escalations, and time slices (R161, R376 to R384). -/

namespace Sys2Proof.Machine

/-! ## Parking (R161, R378) -/

/-- A blocking instruction that has acted and is not issued again after the save: its wait goes on (R150, R154, R180). -/
def Wait.acted : Wait → Bool
  | .barrw _ _ _ => true
  | .signed _ => true
  | .setup _ _ => true
  | _ => false

/-- A word of an atomic group whose page is awaited (R146). -/
def Wait.inGroup : Wait → Bool
  | .page _ _ form => form = 3
  | _ => false

/-- The mask word that names the live state of a thread parked now: of the safe point just issued, or of the blocking
instruction it waits in; none for the whole state (R30, R73, R161). -/
def Thread.parkMask (th : Thread) : Option DWord :=
  if th.trap.isSome || th.hold.isSome then none
  else match th.block with
    | some b => if b.wait.inGroup then none else b.mask
    | none => th.mask

/-- The thread is parked: it leaves the lines it waits in, and a blocking instruction that has not acted is left to be issued
again; an atomic group that waits for a page is abandoned, to run again from its clause's header (R146). -/
def State.park (s : State) (th : Thread) : State :=
  let acted := match th.block with | some b => b.wait.acted | none => false
  let grouped := match th.block with | some b => b.wait.inGroup | none => false
  let s := if acted then s else s.withdraw th
  let m := th.parkMask
  ({ s with blkgets := s.blkgets.filter (·.tid ≠ th.id) }).setThread
    { th with
      parked := true, mask := m, wholeSave := m.isNone, block := if acted then th.block else none
      pc := if grouped then th.head else th.pc
      group := if grouped then none else th.group.map fun (g : Group) => { g with aborted := true } }

/-- THREAD_PARK (R378). -/
def execThreadPark (tid : Nat) (s : State) : Host.Outcome State Fault Refusal :=
  .next <| match s.thread? tid with
  | some th => if s.parkDue th then s.park th else s
  | none => s

/-- The deadline of a marked team has passed for a thread that stands between clauses (R30, R378). -/
def State.deadlineDue (s : State) (tm : Team) (th : Thread) : Bool :=
  th.team = tm.id && s.parkDue th && th.atBoundary &&
    (match tm.marked with | some since => decide (since + (s.context tm.ctx).deadline ≤ s.now) | none => false)

/-- DEADLINE_EXPIRY: the deadline of a marked team has passed, and its threads between clauses are parked (R378). -/
def execDeadlineExpiry (team : Nat) (s : State) : Host.Outcome State Fault Refusal :=
  .next <| match s.team? team with
  | some tm => (s.threads.filter (s.deadlineDue tm)).foldl (fun s th => s.park th) s
  | none => s

/-! ## Saving (R30, R379, R380) -/

/-- A thread as it is saved: what its mask word names, or its whole state (R30). -/
def Thread.pruned (th : Thread) : Thread :=
  match th.mask with
  | none => th
  | some w =>
    let m := maskOf w
    let live (n : Nat) : Bool := m.blk.getLsbD (n / 16)
    { th with
      regs := th.regs.filter fun c => live c.1, poisoned := th.poisoned.filter live, preds := th.preds &&& m.prd
      stack := th.stack.take m.csd.toNat, mask := none }

/-- A parked thread has nothing in flight (R379). -/
def State.drained (s : State) (th : Thread) : Bool :=
  th.parked && (th.flights.all fun f => decide (f.ready ≤ s.now)) &&
    match th.block with
    | none => true
    | some b => (match b.wait with | .barrw _ _ _ => true | _ => false)

/-- An engine operation that a save does not wait for: a copy with no chunk in flight (R315, R379). -/
def Engine.pausable : Engine → Bool
  | .copy j => j.phase ≠ .running || j.inFlight.isEmpty
  | _ => false

/-- The drain of a marked team is over, and no team of its ordered launch that was dispatched after it is resident (R215, R379): copies
pause, and `gred` commands are not waited for. -/
def State.saveDue (s : State) (t : Team) : Bool :=
  t.marked.isSome && (s.threads.all fun th => th.team ≠ t.id || s.drained th) && (s.ops.all fun o => o.team ≠ t.id) &&
    (s.bins.all fun b => b.requests.all fun r => r.team ≠ t.id) &&
    (s.engines.ops.all fun e => e.team ≠ t.id || e.engine.pausable) &&
    (s.threads.any (·.team = t.id) || s.engines.ops.any (·.team = t.id)) && (s.later t).isEmpty

/-- Free bytes (notes/assumptions/3.md). -/
def State.freeBytes (s : State) (n : Nat) : List Byte × State :=
  ((List.range n).map fun i => (Config.freeValue (s.fresh + i)).setWidth 8, { s with fresh := s.fresh + n })

/-- The cells of memory in a range. -/
def cellsIn (lo n : Nat) (m : Memory) : List Host.Cell := m.filter fun c => lo ≤ c.1 && c.1 < lo + n

/-- A copy of a saved team holds no engine (R315). -/
def EngOp.paused (e : EngOp) : EngOp :=
  match e.engine with
  | .copy j => { e with engine := .copy { j with engine := 4 } }
  | _ => e

/-- The team's image is written to a place in the save area, and its resources are free; the bytes of an image are not
architectural (R380). -/
def State.save (s : State) (t : Team) (base : Nat) : State :=
  let size := t.imageSize
  let (b, s) := s.freeBytes size
  let s := s.homeWrites s.nextId (size / 128 + 1) base b
  let mine := (s.threads.filter (·.team = t.id)).map fun th => ((th.settle s.now).pruned : Thread)
  ({ s with
    threads := s.threads.filter (·.team ≠ t.id)
    teams := s.teams.filter (·.id ≠ t.id)
    engines := { s.engines with ops := s.engines.ops.map fun (e : EngOp) => if e.team = t.id then e.paused else e }
    sched := { s.sched with saved := s.sched.saved ++
      [(⟨{ t with marked := none, lineBufs := [[], [], [], []] }, mine, base, size, cellsIn base size s.mem⟩ : SavedTeam)] } }).releaseWaiting
    t.col t.core

/-- A marking is withdrawn: the team's threads go on. -/
def State.unmark (s : State) (t : Team) : State :=
  { s.setTeam { t with marked := none } with
    threads := s.threads.map fun (th : Thread) => if th.team = t.id && th.parked then
      { th with parked := false, wholeSave := false, mask := none, readySince := s.now, nextIssue := max th.nextIssue s.now } else th }

/-- The teams whose save can no longer come about when a team stays resident: itself, its cohort, and the earlier teams of its ordered
launch (R215, R339). -/
def State.stayWith (s : State) (t : Team) : List Team :=
  s.teams.filter fun u => u.marked.isSome && ((s.cohortOf t).any (·.id = u.id) || (s.later u).any (·.id = t.id))

/-- TEAM_SAVE: once the drain of a marked team is over its image is written, if the save area has room (R380). -/
def execTeamSave (team : Nat) (s : State) : Host.Outcome State Fault Refusal :=
  .next <| match s.team? team with
  | none => s
  | some t =>
    if s.saveDue t then
      match placeImage (s.context t.ctx).saveArea (s.images t.ctx) t.imageSize with
      | some base => s.save t base
      | none => (s.stayWith t).foldl State.unmark s
    else s

/-! ## Restoring (R381, R382) -/

/-- The image of a saved team is as the device wrote it (R380). -/
def State.intact (s : State) (v : SavedTeam) : Bool :=
  s.peek v.base v.size = readBytes v.image v.base v.size && !s.poisoned v.base v.size

/-- A thread that ends without a fault of its own: its record's address is not stated, so a free value stands there
(notes/assumptions/6.md). -/
def State.terminatePlain (s : State) (th : Thread) : State :=
  let (a, s) := s.free
  s.terminateThread th 0 0 a th.pc false

/-- Every thread of a team ends; a held one reports its escalated event (R377, R380, R411). -/
def State.terminateOne (s : State) (th : Thread) : State :=
  match th.hold with
  | some k => s.terminateThread th k.trap.cause k.trap.sub k.trap.addr k.trap.pc k.trap.deferred
  | none => s.terminatePlain th

/-- The threads of a team end (R377). -/
def State.terminateTeam (s : State) (team : Nat) : State :=
  (s.threads.filter (·.team = team)).foldl (fun s th => match s.thread? th.id with | some u => s.terminateOne u | none => s) s

/-- The copies of a team whose image is lost are reported failed and end. -/
def State.loseCopies (s : State) (team : Nat) : State :=
  (s.engines.ops.filter fun e => e.team = team && !e.engine.isAcc).foldl (fun s e => (s.recordEngine e none).endEngine e true) s

/-- A team is restored, or, when its image has been altered, its threads end and its launch fails (R380, R381). -/
def State.restore (s : State) (v : SavedTeam) : State :=
  if s.intact v then s.putBack v
  else (((s.putBack v).loseCopies v.team.id).terminateTeam v.team.id).failLaunch v.team.launch

/-- Teams restored one after another while each finds its place free; `none` when one does not. -/
def State.restoreAll (s : State) : List SavedTeam → Option State
  | [] => some s
  | v :: r => if s.placeFree v then (s.restore v).restoreAll r else none

/-- No team of the cohort is still resident and marked: a cohort is saved whole before it is restored (R339). -/
def State.cohortOut (s : State) (v : SavedTeam) : Bool := (s.cohortOf v.team).all fun t => t.marked.isNone

/-- A saved team is restored before another: an earlier cohort of the same ordered launch, or a team of higher `PRIO` on the same core
(R215, R338, notes/assumptions/67.md). -/
def State.restoredBefore (s : State) (w v : SavedTeam) : Bool :=
  s.restorable w &&
    ((w.team.col = v.team.col && w.team.core = v.team.core && decide (s.prioOf v.team < s.prioOf w.team)) ||
      (w.team.launch = v.team.launch &&
        match s.launch? v.team.launch with
        | some l => l.ord && decide (w.team.index / l.cohort < v.team.index / l.cohort)
        | none => false))

/-- Nothing comes before a saved team for what is free on its core (R215, R338). -/
def State.mayReturn (s : State) (v : SavedTeam) : Bool :=
  !(match s.launch? v.team.launch with
    | some l => s.higherFirst l v.team.col v.team.core || s.heldBack l (v.team.index / l.cohort * l.cohort)
    | none => false) &&
    !s.sched.saved.any fun w => s.restoredBefore w v

/-- TEAM_RESTORE: a saved team, with its cohort, takes its places again (R338, R381). -/
def execTeamRestore (team : Nat) (s : State) : Host.Outcome State Fault Refusal :=
  .next <| match s.sched.saved.find? (·.team.id = team) with
  | none => s
  | some v =>
    if s.restorable v && s.cohortOut v && (s.savedCohort v).all s.mayReturn then
      match s.restoreAll (s.savedCohort v) with
      | some t => t.lapse
      | none => s
    else s

/-! ## Answers to escalations (R376, R377, R382) -/

/-- The held thread that an answer names. -/
def heldThread (ctx token : Nat) (ths : List Thread) : Option (Thread × Hold) :=
  ths.findSome? fun th => match th.hold with
    | some k => if th.ctx = ctx && k.token = token && k.posted then some (th, k) else none
    | none => none

/-- The saved team with a held thread that an answer names. -/
def State.savedHeld (s : State) (ctx token : Nat) : Option (SavedTeam × Thread × Hold) :=
  s.sched.saved.findSome? fun v => (heldThread ctx token v.threads).map fun p => (v, p.1, p.2)

/-- A held thread goes on at the record's program counter; for REASON 1 it fetches TRAPENT again (R377). -/
def Thread.resumeAt (th : Thread) (k : Hold) (now : Nat) : Thread :=
  { th with
    hold := none, pc := k.trap.pc, head := k.trap.head, entering := decide (k.reason = 1), block := none
    nextIssue := max th.nextIssue now, readySince := now }

/-- Replacing a saved team by its new record; one with nothing left retires from its image (R382). -/
def State.setSaved (s : State) (v : SavedTeam) : State :=
  ({ s with sched := { s.sched with saved := s.sched.saved.map fun (w : SavedTeam) => if w.team.id = v.team.id then v else w } }).retireSaved v.team.id

/-- HFRESP_RESUME (R377). -/
def execHfrespResume (ctx token : Nat) (s : State) : Host.Outcome State Fault Refusal :=
  .next <| match heldThread ctx token s.threads with
  | some (th, k) => s.setThread (th.resumeAt k s.now)
  | none =>
    match s.savedHeld ctx token with
    | some (v, th, k) =>
      s.setSaved { v with threads := v.threads.map fun t => if t.id = th.id then th.resumeAt k s.now else t }
    | none => s

/-- A thread of a saved image ends: its failure and its pending faults are recorded (R382). -/
def State.endSaved (s : State) (v : SavedTeam) (th : Thread) : State :=
  let rec_ (s : State) (cause sub : Nat) (addr pc : DWord) (deferred : Bool) : State :=
    (s.record (s.ofLaunch v.team.launch { th.recordOf 1 with
      addr := addr, pc := pc, info := th.recordInfo cause sub deferred, item := th.tid.toNat })).failLaunch v.team.launch
  let s := match th.hold with
    | some k => rec_ s k.trap.cause k.trap.sub k.trap.addr k.trap.pc k.trap.deferred
    | none => let (a, s) := s.free; rec_ s 0 0 a th.pc false
  th.pending.foldl (fun s f => rec_ s f.cause f.sub f.addr f.pc true) s

/-- HFRESP_TERMINATE_THREAD (R377, R382). -/
def execHfrespTerminateThread (ctx token : Nat) (s : State) : Host.Outcome State Fault Refusal :=
  .next <| match heldThread ctx token s.threads with
  | some (th, _) => (s.terminateOne th).checkTeam th.team
  | none =>
    match s.savedHeld ctx token with
    | some (v, th, _) => (s.endSaved v th).setSaved { v with threads := v.threads.filter (·.id ≠ th.id) }
    | none => s

/-- The copies of a launch that wait on a record are cancelled (R314, R377). -/
def State.cancelWaiting (s : State) (p : EngOp → Bool) : State :=
  (s.engines.ops.filter p).foldl (fun s e =>
    match e.engine with
    | .copy j =>
      match j.phase with
      | .failed reason _ _ => s.askCancel e j reason
      | _ => s
    | _ => s) s

/-- A launch is terminated: its threads end, its bin requests and its work still in setup go, copies that wait on records are
cancelled, nothing more of it is placed, and what it had reserved is free for the bins that wait (R217, R336, R377, R382). -/
def State.terminateLaunch (s : State) (id : Nat) : State :=
  match s.launch? id with
  | none => s
  | some l =>
    let s := s.setLaunch { l with
      terminated := true, failed := true, done := l.done || l.kind = 3, token := none, target := none, held := []
      reserved := if l.kind = 2 then l.reserved else [] }
    let mine (t : Nat) : Bool := match s.team? t with | some u => u.launch = id | none => false
    let bins := s.bins.map fun (b : Bin) => { b with requests := b.requests.filter fun r => !mine r.team }
    let s := { s with bins := bins.filter fun b => !b.requests.isEmpty }
    let s := (s.teams.filter (·.launch = id)).foldl (fun s t => s.terminateTeam t.id) s
    let s := s.cancelWaiting (·.launch = id)
    let s := (l.held.map Held.place ++ if l.kind = 2 then [] else l.reserved).foldl (fun s r => s.releaseWaiting r.col r.core) s
    let s := (s.sched.saved.filter (·.team.launch = id)).foldl (fun s v =>
      (v.threads.foldl (fun s th => s.endSaved v th) s).setSaved { v with threads := [] }) s
    { s with raster := { s.raster with
        setups := s.raster.setups.filter (·.launch ≠ id)
        inbound := s.raster.inbound.map fun (q : Inbound) =>
          { q with
            prims := q.prims.filter (·.launch ≠ id)
            cursor := if q.prims.head?.any (·.launch = id) then 0 else q.cursor } } }

/-- HFRESP_TERMINATE_LAUNCH (R377). -/
def execHfrespTerminateLaunch (ctx token : Nat) (s : State) : Host.Outcome State Fault Refusal :=
  .next <| match heldThread ctx token s.threads with
  | some (th, _) => match s.team? th.team with | some t => s.terminateLaunch t.launch | none => s
  | none =>
    match s.savedHeld ctx token with
    | some (v, _, _) => s.terminateLaunch v.team.launch
    | none => s

end Sys2Proof.Machine
end

