-- ==== Sys2Proof/Machine/Counters.lean ====
section
/-! DEFINITION. The counter table, counter commands, and the time slices of virtual functions (R383, R384, R415 to R420). -/

namespace Sys2Proof.Machine

/-! ## The counter table (R418, R419) -/

/-- The address of the entry of a function, a column and a bank index. -/
def State.counterEntry (s : State) (f col k : Nat) : Nat := field s.regs.ctrbase 19 33 * 2 ^ 19 + 16384 * f + 512 * col + 16 * k

/-- The counter of a function at a bank index. -/
def bankCounter (f k : Nat) : Nat := if f = 0 then k else 32 + k

/-- The bits of a select word that hold something (R415). -/
def selectMask : DWord := 0x3FF0FFF

/-- A counter; one that was never loaded reads zero (R415). -/
def State.counter (s : State) (col n : Nat) : Counter :=
  (s.regs.counters.find? fun k => k.col = col && k.n = n).getD ⟨col, n, 0, 0⟩

/-- Storing a counter. -/
def State.setCounter (s : State) (k : Counter) : State :=
  { s with regs := { s.regs with counters := k :: s.regs.counters.filter fun j => !(j.col = k.col && j.n = k.n) } }

/-- A counter from its entry (R418, R419). -/
def State.loadCounter (s : State) (f col k : Nat) : State :=
  let (b, s) := s.homeRead s.nextId (s.counterEntry f col k) 16
  s.setCounter ⟨col, bankCounter f k, BitVec.ofNat 64 (leNat (b.take 8)) &&& selectMask, BitVec.ofNat 48 (leNat (b.drop 8))⟩

/-- A counter into its entry (R418, R419). -/
def State.storeCounter (s : State) (f col k : Nat) : State :=
  let c := s.counter col (bankCounter f k)
  s.homeWrite s.nextId (s.counterEntry f col k) (leBytes 8 c.select.toNat ++ leBytes 8 c.value.toNat)

/-- An action on each entry of a function in the columns of a mask. -/
def State.eachCounter (s : State) (mask : Nat) (act : State → Nat → Nat → State) : State :=
  ((List.range 32).filter mask.testBit).foldl (fun s c => (List.range 32).foldl (fun s k => act s c k) s) s

/-- The bank of a function is live (R415). -/
def State.functionLive (s : State) (f : Nat) : Bool := f = 0 || f = s.sched.holder

/-- Loading a function's counters, where its bank is live (R419). -/
def State.loadBank (s : State) (f mask : Nat) : State :=
  if s.functionLive f then s.eachCounter mask fun s c k => s.loadCounter f c k else s

/-- Storing a function's counters, where its bank is live (R419). -/
def State.storeBank (s : State) (f mask : Nat) : State :=
  if s.functionLive f then s.eachCounter mask fun s c k => s.storeCounter f c k else s

/-- CTRCMD as it reads after a command has started. -/
def ctrBusy (value : DWord) : DWord := (value &&& 0x6000001FFFFFFFFF) ||| 0x8000000000000000

/-- CTRCMD_LOAD (R419): ignored while BUSY is 1 (R418). The counters are written as the first act of a later cycle, so that every event
of that cycle is added to what they were loaded with (CTR_COMMAND_DONE). -/
def execCtrcmdLoad (value : BitVec 64) (s : State) : Host.Outcome State Fault Refusal :=
  .next <|
    if s.regs.ctrcmd.getLsbD 63 || field value 61 2 ≠ 1 then s else { s with regs := { s.regs with ctrcmd := ctrBusy value } }

/-- CTRCMD_STORE (R419): ignored while BUSY is 1 (R418). -/
def execCtrcmdStore (value : BitVec 64) (s : State) : Host.Outcome State Fault Refusal :=
  .next <|
    if s.regs.ctrcmd.getLsbD 63 || field value 61 2 ≠ 2 then s
    else ({ s with regs := { s.regs with ctrcmd := ctrBusy value } }).storeBank (field value 32 5) (field value 0 32)

/-- CTR_COMMAND_DONE: every column has finished, a load with its counters written, and BUSY clears (R419). -/
def execCtrCommandDone (s : State) : Host.Outcome State Fault Refusal :=
  .next <|
    let v := s.regs.ctrcmd
    if !v.getLsbD 63 then s
    else
      let s := if field v 61 2 = 1 then s.loadBank (field v 32 5) (field v 0 32) else s
      { s with regs := { s.regs with ctrcmd := v &&& 0x7FFFFFFFFFFFFFFF } }

/-! ## Time slices (R383, R384, R420) -/

/-- A context is live. -/
def Context.live (c : Context) : Bool := c.desc.getLsbD 0 && !c.desc.getLsbD 3

/-- A virtual function has dispatchable or saved work, or work under way (R383). -/
def State.hasWork (s : State) (f : Nat) : Bool :=
  let mine (ctx : Nat) : Bool := (s.context ctx).live && (s.context ctx).func = f
  s.sched.launches.any (fun l => mine l.ctx) || s.sched.saved.any (fun v => mine v.team.ctx) || s.teams.any (fun t => mine t.ctx) ||
    s.queues.any fun q => q.en && !q.stopped && q.head ≠ q.tail && mine q.ctx

/-- The function that comes next in the round, if one but the holder has work (R383). -/
def State.nextFunction (s : State) : Option Nat :=
  ((List.range 31).map fun i => (s.sched.holder + i) % 31 + 1).find? fun f => f ≠ s.sched.holder && s.hasWork f

/-- The slice of the holder is over, or yielded: it has run its length, or no work is left (R383). -/
def State.sliceOver (s : State) : Bool :=
  let h := s.sched.holder
  h = 0 || decide (s.sched.sliceFrom + field (s.regs.slices.getD h 1100000) 0 32 ≤ s.now) || !s.hasWork h

/-- The next function takes the slice: its counters are loaded (R384, R420). -/
def State.takeSlice (s : State) (f : Nat) : State :=
  ({ s with sched := { s.sched with holder := f, sliceFrom := s.now, switching := false } }).loadBank f (2 ^ 32 - 1)

/-- A team put into a list in order of falling index. -/
def insertFalling (t : Team) : List Team → List Team
  | [] => [t]
  | u :: r => if u.index < t.index then t :: u :: r else u :: insertFalling t r

/-- The outgoing function's teams are marked, later ones of a launch first; one that cannot be saved, and every pixel team, runs on, as
does a team of an ordered launch while a later one does (R215, R384). -/
def State.markOutgoing (s : State) : State :=
  ((s.teams.filter fun t => (s.context t.ctx).func = s.sched.holder).foldr insertFalling []).foldl (fun s t =>
    match s.team? t.id with
    | some u => if s.savable u && (s.later u).all (·.marked.isSome) then s.mark u else s
    | none => s) s

/-- SLICE_END: a world switch begins, and ends once no team of the outgoing function is resident; where no other function has work the
holder's next slice begins (R383, R384, notes/assumptions/51.md). -/
def execSliceEnd (s : State) : Host.Outcome State Fault Refusal :=
  .next <|
    let h := s.sched.holder
    if s.sched.switching then
      if s.teams.any fun t => (s.context t.ctx).func = h then s
      else
        let s := s.storeBank h (2 ^ 32 - 1)
        match s.nextFunction with
        | some f => s.takeSlice f
        | none => s.takeSlice h
    else if !s.sliceOver then s
    else match s.nextFunction with
    | none => if h = 0 || !s.hasWork h then s else { s with sched := { s.sched with sliceFrom := s.now } }
    | some f =>
      if h = 0 then s.takeSlice f
      else ({ s with sched := { s.sched with switching := true } }).markOutgoing

end Sys2Proof.Machine
end

