-- ==== Sys2Proof/Machine/Paging.lean ====
section
/-! DEFINITION. What the caches do of themselves, answers to page faults, the invalidation command, and cost-compare migration
(R227, R234, R235, R348 to R355). -/

namespace Sys2Proof.Machine

/-! ## Tokens, recalls and evictions (R227, R234, R235, R242) -/

/-- PERSISTENT_REQUEST: a core's request for a line becomes persistent, so that every atomic group of the column's other cores
that holds a token of it aborts; it is active and complete in this event (R227, R242, notes/assumptions/69.md). -/
def execPersistentRequest (col core line : Nat) (s : State) : Host.Outcome State Fault Refusal :=
  .next { s with threads := s.threads.map fun (t : Thread) =>
    match t.group with
    | some g =>
      if t.col = col && t.core ≠ core && g.lines.contains line then { t with group := some { g with aborted := true } } else t
    | none => t }

/-- RECALL: the home recalls a line from its owner (R235). -/
def execRecall (line : Nat) (s : State) : Host.Outcome State Fault Refusal := .next (s.recall 0 line)

/-- EVICTION: a line leaves a column, its copy or what the column's own slices hold of it, and its scope record; dirty bytes go to
the home, and ownership with them (R234, R238, R239). -/
def execEviction (col line : Nat) (s : State) : Host.Outcome State Fault Refusal :=
  .next <| match s.copy? col line with
  | some c => s.writeBack c
  | none => s.dropCopy col line

/-! ## Page-fault records and their answers (R349 to R352) -/

/-- PAGE_FAULT_RECORD_DELAYED: a record that waited in its column is posted once its ring has room (R349). -/
def execPageFaultRecordDelayed (token : Nat) (s : State) : Host.Outcome State Fault Refusal :=
  .next <| match s.pageRecords.find? (·.token = token) with
  | some r => s.postPage r
  | none => s

/-- The posted record that an answer names (R350). -/
def State.answered (s : State) (col ctx token : Nat) : Option PageRecord :=
  s.pageRecords.find? fun r => r.token = token && r.ctx = ctx && r.col = col && r.posted

/-- The record is gone. -/
def State.dropRecord (s : State) (token : Nat) : State := { s with pageRecords := s.pageRecords.filter (·.token ≠ token) }

/-- A thread is parked. -/
def State.isParked (s : State) (tid : Nat) : Bool := match s.thread? tid with | some th => th.parked | none => false

/-- An operation whose page is resolved goes on (R350, R352); a traversal whose thread a drain reached meanwhile stops at the next return
point (R305). -/
def State.resolveOp (s : State) (token : Nat) (o : Op) : State :=
  match o.stage with
  | .logged x k => if k = token then s.replay o x else s
  | .gredLogged p ks => if ks.contains token then s.replayGred o p (ks.filter (· ≠ token)) else s
  | .gather handle inputs sub (some (k, _)) => if k = token then s.enterGather o handle inputs sub else s
  | .traverse t =>
    if t.token = some token then s.setOp { o with stage := .traverse { t with token := none, drained := t.record.isSome && s.isParked o.tid } }
    else s
  | _ => s

/-- A thread that waited for the page issues its word again, or fetches again. -/
def Thread.pageResolved (token now : Nat) (th : Thread) : Thread :=
  match th.block with
  | some b =>
    match b.wait with
    | .page k _ _ =>
      if k ≠ token then th
      else if th.atBoundary then { th with block := none, readySince := now }
      else { th with block := some { b with wait := .stalled true } }
    | _ => th
  | none => th

/-- What else waited for the page tries again: engine operations, `gred` commands, queues and launches (R352). -/
def State.resolveOthers (s : State) (token : Nat) : State :=
  { s with
    threads := s.threads.map (Thread.pageResolved token s.now)
    queues := s.queues.map fun (w : WorkQueue) => if w.token = some token then { w with token := none } else w
    engines := { s.engines with
      ops := s.engines.ops.map fun (e : EngOp) => if e.token = some token then { e with token := none } else e
      greds := s.engines.greds.map fun (g : GredCmd) => if g.token = some token then { g with token := none } else g }
    sched := { s.sched with
      launches := s.sched.launches.map fun (l : Launch) => if l.token = some token then { l with token := none } else l } }

/-- TFRESP_RESOLVED: the column walks again, and what waited for the page goes on in order (R350). -/
def execTfrespResolved (col ctx token : Nat) (s : State) : Host.Outcome State Fault Refusal :=
  .next <| match s.answered col ctx token with
  | none => s
  | some r =>
    let s := s.dropRecord r.token
    ((s.ops.foldl (fun s o => match s.op? o.id with | some p => s.resolveOp token p | none => s) s).resolveOthers token).wake

/-- An operation whose page is declared unresolvable (R350, R352, R362); `logged` is the state before the answer, which says what stands
behind an entry of the page. -/
def State.refuseOp (logged s : State) (r : PageRecord) (o : Op) : State :=
  let here (va : DWord) : Bool := va.toNat / 65536 = r.va.toNat / 65536
  match o.stage with
  | .logged x k => if k = r.token then s.setOp { o with stage := .failed 0x07 0 (some x.va) true } else s
  | .behind x _ =>
    if o.ctx = r.ctx && here x.va && !(logged.logPages o).isEmpty then
      s.setOp { o with stage := .failed 0x07 0 (some x.va) true }
    else s
  | .gredLogged p ks =>
    if ks.contains r.token then
      s.setOp { o with stage := .failed 0x07 0 (some (if here p.dst then p.dst else r.va &&& 0xFFFFFFFFFFFF0000)) true }
    else s
  | .gather handle _ sub (some (k, desc)) =>
    if k = r.token then s.setOp { o with stage := gatherStage o handle sub (.error (if desc then 2 else 1)) } else s
  | .traverse t =>
    if t.token ≠ some r.token then s
    else if t.record.isNone then s.setOp { o with stage := .failed 0x07 0 (some t.va) true }
    else s.setOp { o with stage := .traverse { t with token := none, dead := r.va.toNat / 65536 :: t.dead } }
  | .appendData _ _ _ => if o.ctx = r.ctx then s.losePage o (r.va.toNat / 65536) else s
  | _ => s

/-- A thread that waited for the page: a deferred translation fault, a fault of the fetch, or the return-stack fault (R25, R59,
R350, R375). -/
def State.refuseThread (s : State) (token : Nat) (th : Thread) : State :=
  match th.block.map Block.wait with
  | some (.page k va form) =>
    if k ≠ token then s
    else if form = 0 then
      let (n, s) := s.newId
      let f : PendingFault := { cause := 0x07, sub := 0, addr := va, pc := th.pc, regs := [], slot := none, order := n, access := true }
      s.setThread { th.complete s.now [] with pending := insertPending f th.pending }
    else if form = 2 then s.faultWaiting th 0x1C va
    else if th.atBoundary then s.fetchFault { th with block := none } 0x07 (some va) (decide (va = th.pc))
    else s.faultWaiting th 0x07 va
  | _ => s

/-- An engine operation whose page is declared unresolvable: a destination fails as one (R352, R412). -/
def State.refuseEngine (s : State) (r : PageRecord) (e : EngOp) : State :=
  let write := match e.engine with
    | .copy j => (match j.missed with | some (_, _, w) => w | none => false)
    | _ => match s.runAcc e with | .wait _ w _ => w | _ => r.kind = 5
  s.setEngOp { e with token := none, dead := some write }

/-- A `gred` command whose page is declared unresolvable fails at its first row on it (R201, R352). -/
def State.refuseGred (s : State) (r : PageRecord) (g : GredCmd) : State :=
  let n := g.nel * (if g.bf16 then 2 else 4)
  let page := r.va.toNat / 65536
  let row := (g.rows.find? fun q => q.1.toNat / 65536 ≤ page && page ≤ (q.1.toNat + n - 1) / 65536).orElse fun _ => g.rows.head?
  s.setGred { g with token := none, failRow := some ((row.map (·.2)).getD 0) }

/-- TFRESP_UNRESOLVABLE (R350, R352). -/
def execTfrespUnresolvable (col ctx token : Nat) (s : State) : Host.Outcome State Fault Refusal :=
  .next <| match s.answered col ctx token with
  | none => s
  | some r =>
    let logged := s
    let s := s.dropRecord r.token
    let s := s.ops.foldl (fun s o => match s.op? o.id with | some p => State.refuseOp logged s r p | none => s) s
    let s := s.threads.foldl (fun s t => match s.thread? t.id with | some u => s.refuseThread token u | none => s) s
    let s := (s.engines.ops.filter (·.token = some token)).foldl (fun s e => s.refuseEngine r e) s
    let s := (s.engines.greds.filter (·.token = some token)).foldl (fun s g => s.refuseGred r g) s
    let s := (s.queues.filter (·.token = some token)).foldl (fun s w => s.queueDead w) s
    ({ s with sched := { s.sched with
        launches := s.sched.launches.map fun (l : Launch) =>
          if l.token = some token then { l with token := none, dead := true } else l } }).wake

/-! ## The invalidation command (R348) -/

/-- The command that runs discards a translation of a context that covers a range: the pages that it named when it began (R348). -/
def State.invalidated (s : State) (ctx lo size : Nat) : Bool :=
  let first := field s.regs.tinvrange 16 41
  ctx = field s.regs.tinvctl 32 6 &&
    (s.regs.tinvctl.getLsbD 62 || (decide (lo < (first + field s.regs.tinvctl 0 32) * 65536) && decide (first * 65536 < lo + size)))

/-- The command discards the entry through which an address was translated, all of its page (R343, R348). -/
def State.discards (s : State) (ctx va : Nat) (l : Leaf) : Bool := s.invalidated ctx (va % 2 ^ 57 / l.size * l.size) l.size

/-- The command may discard an entry through which a row of `gred` was translated: the pages of any size that it lies on count. -/
def State.discardsRow (s : State) (g : GredCmd) (va : DWord) : Bool :=
  s.invalidated g.ctx (va.toNat % 2 ^ 57 / 2 ^ 30 * 2 ^ 30) (2 ^ 30 + 4 * g.nel)

/-- A `gred` command that has not been split into its pieces looks its rows up again: none of its pieces has been read (R347). -/
def State.forgetEarly (s : State) (g : GredCmd) : GredCmd :=
  if !g.split && g.rows.any fun q => s.discardsRow g q.1 then { g with early := g.early.map fun _ => [] } else g

/-- TINVCTL_COMMAND: ignored while BUSY is 1; a command over no page is over at once. What TINVADDR holds now is what it acts on
(R348). -/
def execTinvctlCommand (value : BitVec 64) (s : State) : Host.Outcome State Fault Refusal :=
  .next <|
    if s.regs.tinvctl.getLsbD 63 then s
    else
      let v := value &&& 0x4000003FFFFFFFFF
      let none_ := field value 0 32 = 0 && !value.getLsbD 62
      let s := { s with regs := { s.regs with tinvctl := if none_ then v else v ||| 0x8000000000000000, tinvrange := s.regs.tinvaddr } }
      if none_ then s
      else { s with engines := { s.engines with greds := s.engines.greds.map s.forgetEarly } }.pruneTags

/-- The access was sent, waits at its home, or waits behind others, under a mapping (R347). -/
def Stage.under? : Stage → Option (Access × Leaf)
  | .remote x l _ => some (x, l)
  | .emptyLine x l _ => some (x, l)
  | .watermark x l => some (x, l)
  | .behind x l => l.map fun l => (x, l)
  | _ => none

/-- Something that used a translation which the command discards has still to be performed, and is in no operand log: an access, a
buffered store of an atomic group, or a row of a `gred` command that has been split, or that is to be written (R348). -/
def State.usesDiscarded (s : State) : Bool :=
  (s.ops.any fun o => match o.stage.under? with | some (x, l) => s.discards o.ctx x.va.toNat l && (s.logPages o).isEmpty | none => false) ||
    (s.threads.any fun t => match t.group with | some g => g.stores.any fun w => s.discards t.ctx w.1.toNat w.2.2 | none => false) ||
    s.engines.greds.any fun g =>
      (g.accepted && s.discardsRow g g.dst) || (g.split && !g.lines.isEmpty && g.rows.any fun q => s.discardsRow g q.1)

/-- TINV_COMPLETE: BUSY clears once every access that used a discarded translation has been performed (R348). -/
def execTinvComplete (s : State) : Host.Outcome State Fault Refusal :=
  .next <|
    if s.usesDiscarded then s else { s with regs := { s.regs with tinvctl := s.regs.tinvctl &&& 0x7FFFFFFFFFFFFFFF } }.pruneTags

/-! ## Cost-compare migration (R353 to R355) -/

/-- The migration unit of a column. -/
def State.migration (s : State) (col : Nat) : Migration := s.regs.migrations.getD col Migration.reset

/-- Changing a migration unit. -/
def State.setMigration (s : State) (col : Nat) (m : Migration) : State :=
  { s with regs := { s.regs with migrations := s.regs.migrations.set col m } }

/-- PROD of a ring. -/
def Migration.prod (m : Migration) (r : Nat) : Nat := field (m.idxs.getD r 0) 32 32
/-- CONS of a ring. -/
def Migration.cons_ (m : Migration) (r : Nat) : Nat := field (m.idxs.getD r 0) 0 32
/-- Entries a ring holds (R354). -/
def Migration.held (m : Migration) (r : Nat) : Nat := (m.prod r + 2 ^ 32 - m.cons_ r) % 2 ^ 32
/-- The address of an entry of a ring. -/
def Migration.ringAt (m : Migration) (r n : Nat) : Nat := field (m.bases.getD r 0) 13 39 * 8192 + 8 * (n % 1024)
/-- Setting the counts of a ring. -/
def Migration.setIdx (m : Migration) (r prod cons_ : Nat) : Migration :=
  { m with idxs := m.idxs.set r (BitVec.ofNat 64 (prod % 2 ^ 32 * 2 ^ 32 + cons_ % 2 ^ 32)) }

/-- Releasing a frame onto ring 2 (R354). -/
def State.release2 (s : State) (col frame : Nat) : State :=
  let m := s.migration col
  (s.homeWrite s.nextId (m.ringAt 2 (m.prod 2)) (leBytes 8 frame)).setMigration col (m.setIdx 2 (m.prod 2 + 1) (m.cons_ 2))

/-- The frame is of the kind that a ring holds (R354). -/
def State.frameFits (s : State) (col r frame : Nat) : Bool :=
  frame % 65536 = 0 && !s.inPool frame 65536 &&
    if r = 0 then decide (frame / 2 ^ 37 = col) && decide (frame % 2 ^ 37 + 65536 ≤ hbmSize)
    else decide (frame / 2 ^ 44 = 1) && decide (frame % 2 ^ 44 + 65536 ≤ tierSize)

/-- Taking the next good frame of a ring; bad entries go to ring 2 unused (R354). Nothing is taken while ring 2 has no room beside what the
moves under way will put there. -/
def State.takeFrame (s : State) (col r : Nat) : Nat → Option Nat × State
  | 0 => (none, s)
  | n + 1 =>
    let m := s.migration col
    if m.held r = 0 || 1024 ≤ m.held 2 + m.moving.length then (none, s)
    else
      let f := s.peekNat (m.ringAt r (m.cons_ r)) 8
      let s := s.setMigration col (m.setIdx r (m.prod r) (m.cons_ r + 1))
      if s.frameFits col r f then (some f, s) else (s.release2 col f).takeFrame col r n

/-- A lock covers a byte of a page: its addresses are sign-extended from 57 bits (R169, R341). -/
def Lock.covers (l : Lock) (page : Nat) : Bool :=
  let lo := l.lo % 2 ^ 57
  let hi := lo + (l.hi - l.lo)
  l.space = .memory && ((decide (lo < (page + 1) * 65536) && decide (page * 65536 < hi)) || decide (page * 65536 + 2 ^ 57 < hi))

/-- A move leaves the page alone: a range lock covers a byte of it, of a saved team's paused copy too, or an operand log holds an access to
it (R355). -/
def State.pageHeld (s : State) (ctx page : Nat) : Bool :=
  (s.locks.any fun l => l.covers page && s.teamCtx l.team = some ctx) ||
    s.ops.any fun o => o.ctx = ctx && (s.logPages o).any fun p => p % 2 ^ 41 = page

/-- An address moved from one frame to another. -/
def moved (old new a : Nat) : Nat := if old ≤ a && a < old + 65536 then a - old + new else a

/-- Sectors of a frame. -/
def sectorIn (frame k : Nat) : Bool := frame ≤ k * 32 && k * 32 < frame + 65536

/-- Requests on their way to a frame, or waiting there, follow its contents (R355). -/
def Op.moveFrame (old new : Nat) (o : Op) : Op :=
  let to_ (l : Leaf) : Leaf := { l with pa := moved old new l.pa }
  match o.stage with
  | .remote x l k => { o with stage := .remote x (to_ l) k }
  | .emptyLine x l k => { o with stage := .emptyLine x (to_ l) k }
  | .watermark x l => { o with stage := .watermark x (to_ l) }
  | .behind x (some l) => { o with stage := .behind x (some (to_ l)) }
  | _ => o

/-- Pieces and places of a `gred` command in a frame follow its contents. -/
def GredCmd.moveFrame (old new : Nat) (g : GredCmd) : GredCmd :=
  { g with
    early := g.early.map fun q => q.map fun (q : GredLine) => { q with pa := moved old new q.pa }
    lines := g.lines.map fun (q : GredLine) => { q with pa := moved old new q.pa }
    places := g.places.map fun p => (moved old new p.1, p.2) }

/-- The contents of a frame, with its marks, in another: every column's copies of its lines go first, dirty bytes to the home
(R355). -/
def State.moveFrame (s : State) (old new : Nat) : State :=
  let line (k : Nat) : Nat := moved old new (k * 128) / 128
  let lines := (List.range 512).map (old / 128 + ·)
  let s := lines.foldl (fun s k => s.breakGroups 0 k) s
  let copies := s.caches.copies.filter fun c => lines.contains c.line
  let s := (copies.filter (·.owned)).foldl (fun (s : State) c => s.recall s.nextId c.line) s
  let s := (copies.filter (!·.owned)).foldl (fun (s : State) c => s.writeBack c) s
  let cells := (s.mem.filter fun c => old ≤ c.1 && c.1 < old + 65536).map fun c => (moved old new c.1, c.2)
  let marks := (s.poison.filter (sectorIn old)).map fun k => moved old new (k * 32) / 32
  { s with
    mem := cells.foldl (fun m c => cellWrite (w := 8) c.1 c.2 m) (cellClear (w := 8) new 65536 s.mem)
    poison := (s.poison.filter fun k => !sectorIn new k) ++ marks
    caches := { s.caches with
      scopes := s.caches.scopes.filter fun (r : ScopeRecord) => !lines.contains r.line
      empties := s.caches.empties.map fun (p : Pending) => { p with line := line p.line }
      results := s.caches.results.map fun p => (p.1, p.2.1, moved old new (p.2.2 * 65536) / 65536) }
    ops := s.ops.map (Op.moveFrame old new)
    engines := { s.engines with greds := s.engines.greds.map (GredCmd.moveFrame old new) } }

/-- An entry with FRAME and TIER of another frame (R342, R355). -/
def entryFor (e : DWord) (frame : Nat) : DWord :=
  (e &&& 0xFFF0000000000DFF) ||| BitVec.ofNat 64 (frame / 4096 * 4096 + (if regionOf frame = 1 then 512 else 0))

/-- The entry of a page table at a place, as its home holds it. -/
def State.entryNow (s : State) (at_ : Nat) : DWord × State :=
  let (b, s) := s.homeRead s.nextId at_ 8
  (BitVec.ofNat 64 (leNat b), s)

/-- The move of one page of a column's table begins, if there is a frame for it: its entry is walked to (R355). -/
def State.startMove (s : State) (col : Nat) (q : Heat) (l : Leaf) (ring : Nat) : State :=
  match s.takeFrame col ring 1024 with
  | (none, s) => s
  | (some new, s) =>
    let (e, s) := s.entryNow l.entryAt
    let m := s.migration col
    s.setMigration col { m with moving := m.moving ++ [⟨q.ctx, q.page, l.entryAt, e, l.pa / 65536 * 65536, new⟩] }

/-- The end of a move: the frame is copied and the entry compared and swapped; if it is no longer the one walked to, the new frame goes to
ring 2 and the old one keeps the page (R355). A page that has come to be held meanwhile is left until it is not. -/
def State.finishMove (s : State) (col : Nat) (v : Move) : State :=
  if s.pageHeld v.ctx v.page then s
  else
    let m := s.migration col
    let (e, s) := (s.setMigration col { m with moving := m.moving.erase v }).entryNow v.entryAt
    if e ≠ v.entry || !(s.context v.ctx).live then s.release2 col v.new
    else ((s.moveFrame v.old v.new).homeWrite s.nextId v.entryAt (leBytes 8 (entryFor e v.new).toNat)).release2 col v.old

/-- The page of an entry of the table, if the unit handles it: 64 KiB, MIG 1, at home in the column (R353). -/
def State.heatLeaf (s : State) (col : Nat) (q : Heat) : Option Leaf :=
  match s.translate q.ctx (q.page * 65536) with
  | .ok l => if l.size = 65536 && l.mig = 1 && l.home = col then some l else none
  | .error _ => none

/-- An entry put into a list: by descending count, then by lower address. -/
def insertHeat (up : Bool) (q : Heat) : List Heat → List Heat
  | [] => [q]
  | r :: rs =>
    let first := if up then q.count < r.count else r.count < q.count
    if first || (q.count = r.count && decide (q.page < r.page)) then q :: r :: rs else r :: insertHeat up q rs

/-- Moves of one direction, `n` considered at most: promotions to ring 0 or demotions to ring 1 (R353); what is left of `n`. -/
def State.moves (s : State) (col : Nat) (up : Bool) (threshold : Nat) : Nat → List Heat → Nat × State
  | 0, _ => (0, s)
  | n + 1, [] => (n + 1, s)
  | n + 1, q :: r =>
    let m := s.migration col
    let floor := field m.ctl 0 16
    match s.heatLeaf col q with
    | none => s.moves col up threshold (n + 1) r
    | some l =>
      let due := if up then
          regionOf l.pa = 1 && decide (threshold ≤ q.count) && decide (floor < m.held 0)
        else regionOf l.pa = 0 && decide (q.count ≤ threshold) && decide (m.held 0 < floor) && decide (0 < m.held 1)
      if !due then s.moves col up threshold (n + 1) r
      else if s.pageHeld q.ctx q.page || m.moving.any (fun v => v.ctx = q.ctx && v.page = q.page) then s.moves col up threshold n r
      else (s.startMove col q l (if up then 0 else 1)).moves col up threshold n r

/-- MIGRATION_EPOCH_END: moves under way end; at the end of an epoch of 1,048,576 cycles pages are chosen to be promoted and demoted, and
every count halves; an occupancy above 255 counts as 255 (R353, R355). -/
def execMigrationEpochEnd (col occupancy : Nat) (s : State) : Host.Outcome State Fault Refusal :=
  .next <|
    let s := (s.migration col).moving.foldl (fun s v => s.finishMove col v) s
    let m := s.migration col
    if 32 ≤ col || s.now = 0 || s.now % 1048576 ≠ 0 || !m.ctl.getLsbD 63 then s
    else
      let hot := m.heat.foldr (insertHeat false) []
      let cold := m.heat.foldr (insertHeat true) []
      let (n, s) := s.moves col true (field m.ctl 32 16 + field m.ctl 24 8 * min occupancy 255) 256 hot
      let s := (s.moves col false (field m.ctl 16 8) n cold).2
      let m := s.migration col
      s.setMigration col { m with heat := m.heat.map fun (q : Heat) => { q with count := q.count / 2 } }

end Sys2Proof.Machine
end

