-- ==== Sys2Proof/Machine/Contexts.lean ====
section
/-! DEFINITION. Creating, changing and destroying contexts (R6, R371 to R373). -/

namespace Sys2Proof.Machine

/-- Storing a context's descriptor. -/
def State.setContext (s : State) (idx : Nat) (d : BitVec 1024) : State :=
  if s.contexts.any (·.idx = idx) then
    { s with contexts := s.contexts.map fun (c : Context) => if c.idx = idx then { c with desc := d } else c }
  else { s with contexts := s.contexts ++ [⟨idx, d⟩] }

/-- A physical base keeps its alignment and names a region that may hold it (R372). -/
def baseOk (align b : Nat) : Bool := b % align = 0 && decide (b / 2 ^ 44 ≤ 2)

/-- The descriptor keeps R372. -/
def descOk (d : BitVec 1024) : Bool :=
  let log (i : Nat) : Bool := decide (4 ≤ field d i 4)
  field d 704 320 = 0 && field d 604 4 = 0 && field d 576 4 = 0 && field d 48 4 = 0 && field d 13 3 = 0 && field d 4 4 = 0 &&
    baseOk 65536 (field d 640 64) && baseOk 4096 (field d 512 64) && baseOk 4096 (field d 448 64) && baseOk 4096 (field d 384 64) &&
    baseOk 4096 (field d 64 64) && field d 256 64 % 32 = 0 && field d 192 64 % 8 = 0 && field d 128 64 % 64 = 0 &&
    log 52 && log 56 && log 60 && decide (field d 592 12 + field d 580 12 ≤ 2048)

/-- The weight-store region of a context is zero in every column (R6, R276). -/
def State.zeroWeights (s : State) (d : BitVec 1024) : State :=
  let lo := 65536 * field d 592 12
  let n := 65536 * field d 580 12
  { s with regs := { s.regs with weights := s.regs.weights.map fun (w : WeightStore) =>
      { w with bytes := cellClear lo n w.bytes, poison := w.poison.filter fun k => !(lo ≤ k * 32 && k * 32 < lo + n) } } }

/-- The surface, network and ink tables of a new context read zero (R245, R356, R372). -/
def State.zeroTables (s : State) (idx : Nat) : State :=
  let d := (s.context idx).desc
  ((s.zeroRange idx (field d 128 64) 4194304).zeroRange idx (field d 192 64) 32768).zeroRange idx (field d 256 64) 2097152

/-- CONTEXT_CREATE (R372): an invalid descriptor makes no context, and its VALID reads 0; DYING is not written. -/
def execContextCreate (idx : Nat) (desc : BitVec 1024) (s : State) : Host.Outcome State Fault Refusal :=
  .next <|
    let old := (s.context idx).desc
    let d := desc &&& ~~~8#1024
    if 64 ≤ idx || old.getLsbD 0 || old.getLsbD 3 || !desc.getLsbD 0 then s
    else if descOk d then ((s.setContext idx d).zeroWeights d).zeroTables idx
    else s.setContext idx (d &&& ~~~1#1024)

/-- The bits of a descriptor that a live context lets software write: DLINE, CHKSB, SMREP, TRAPENT (R373). -/
def liveMask : BitVec 1024 := BitVec.ofNat 1024 ((2 ^ 64 - 1) * 2 ^ 320 + (2 ^ 32 - 1) * 2 ^ 16 + 6)

/-- CONTEXT_FIELD_WRITE (R373). -/
def execContextFieldWrite (idx : Nat) (desc : BitVec 1024) (s : State) : Host.Outcome State Fault Refusal :=
  .next <|
    let old := (s.context idx).desc
    if 64 ≤ idx || !old.getLsbD 0 || old.getLsbD 3 || !desc.getLsbD 0 then s
    else s.setContext idx ((old &&& ~~~liveMask) ||| (desc &&& liveMask))

/-! ## Destruction (R373) -/

/-- Every copy of a context is cancelled: one that waits on a record under its reason (R314, R373). -/
def State.cancelCopies (s : State) (ctx : Nat) : State :=
  let s := s.cancelWaiting (·.ctx = ctx)
  (s.engines.ops.filter fun e => e.ctx = ctx && !e.engine.isAcc).foldl (fun s e => (s.recordEngine e none).endEngine e true) s

/-- Reduce commands of a context go, and the result lines that they held empty are full for whoever has the frames next (R6, R318). -/
def State.dropGreds (s : State) (ctx : Nat) : State := (s.engines.greds.filter (·.ctx = ctx)).foldl State.endGred s

/-- Page faults of a dying context that its engine operations wait for are not answered any more: the operations end as failed. -/
def State.endWaits (s : State) (idx : Nat) : State :=
  { s with
    pageRecords := s.pageRecords.filter (·.ctx ≠ idx)
    engines := { s.engines with ops := s.engines.ops.map fun (e : EngOp) =>
      if e.ctx = idx && e.token.isSome then { e with token := none, dead := some false } else e } }

/-- Steps 1 to 3: launches are terminated, undispatched records dropped unread, copies cancelled; saved images and accesses in
flight go. Nothing of it is reported, since the context is dying (R12, R373, R382). -/
def State.beginDestroy (s : State) (idx : Nat) : State :=
  let d := (s.context idx).desc
  let s := s.setContext idx (d ||| 8#1024)
  let s := (s.sched.launches.filter (·.ctx = idx)).foldl (fun s l => s.terminateLaunch l.id) s
  let s := { s with queues := s.queues.map fun (w : WorkQueue) =>
    if w.ctx = idx then
      { w.with_ w.tail w.tail w.dseq w.err w.en with record := none, token := none, failing := none, withdrawing := false }
    else w }
  let s := (s.cancelCopies idx).dropGreds idx
  { s.endWaits idx with
    ops := s.ops.filter (·.ctx ≠ idx)
    heldRecords := s.heldRecords.filter (·.ctx ≠ idx)
    engines := { (s.endWaits idx).engines with tiles := s.engines.tiles.filter (·.ctx ≠ idx) }
    sched := { s.sched with saved := s.sched.saved.filter (·.team.ctx ≠ idx) } }

/-- Nothing of the context runs any more. -/
def State.quiet (s : State) (idx : Nat) : Bool :=
  (s.sched.launches.all (·.ctx ≠ idx)) && (s.teams.all (·.ctx ≠ idx)) && (s.threads.all (·.ctx ≠ idx)) && (s.ops.all (·.ctx ≠ idx)) &&
    (s.engines.greds.all (·.ctx ≠ idx)) && (s.engines.ops.all (·.ctx ≠ idx)) && s.sched.saved.all (·.team.ctx ≠ idx)

/-- A ring of a context is zero: its two counts and its 2^log records of a size (R6, R371). -/
def State.zeroRing (s : State) (base log size : Nat) : State :=
  ((s.homeZero base 4).homeZero (base + 8) 4).homeZero (base + 64) (size * 2 ^ log)

/-- The fault records, the page-fault ring and the host fault queue of a context are zero (R6, R349, R371, R375). -/
def State.zeroRings (s : State) (d : BitVec 1024) : State :=
  ((s.zeroRing (field d 384 64) (field d 60 4) 64).zeroRing (field d 448 64) (field d 52 4) 32).zeroRing (field d 512 64) (field d 56 4) 64

/-- Steps 4 and 5: surfaces, ink regions and the weight-store region are released with the zeroing of R6 and R359, and every
cached line of the context is discarded; so is all else that belongs to the context's span, its rings among it (R6, R373, notes/assumptions/67.md). -/
def State.releaseContext (s : State) (idx : Nat) : State :=
  let s := s.zeroRings (s.context idx).desc
  let s := (s.inks.filter (·.ctx = idx)).foldl (fun (s : State) r => (s.dropPages (s.inkPages r)).zeroPages (s.inkPages r)) s
  let s := s.zeroWeights (s.context idx).desc
  { s with
    caches := { s.caches with
      copies := s.caches.copies.filter (·.ctx ≠ idx)
      epochs := s.caches.epochs.filter (·.ctx ≠ idx)
      scopes := s.caches.scopes.filter (·.ctx ≠ idx)
      tags := s.caches.tags.filter (·.ctx ≠ idx)
      textures := s.caches.textures.filter (·.ctx ≠ idx)
      results := s.caches.results.filter (·.1 ≠ idx) }
    inks := s.inks.filter (·.ctx ≠ idx)
    replicas := s.replicas.filter (·.ctx ≠ idx)
    bins := s.bins.filter (·.ctx ≠ idx)
    pageRecords := s.pageRecords.filter (·.ctx ≠ idx)
    heldRecords := s.heldRecords.filter (·.ctx ≠ idx)
    queues := s.queues.filter (·.ctx ≠ idx)
    raster := { s.raster with surfaces := s.raster.surfaces.filter (·.ctx ≠ idx) }
    regs := { s.regs with migrations := s.regs.migrations.map fun (m : Migration) => { m with heat := m.heat.filter (·.ctx ≠ idx) } } }

/-- CONTEXT_DESTROY: a write of VALID = 0 begins it; it ends, with DYING and then VALID cleared, once nothing of the context
runs any more (R373). The other fields of the descriptor return to their reset value, zero, with the span they live in (R6). -/
def execContextDestroy (idx : Nat) (s : State) : Host.Outcome State Fault Refusal :=
  .next <|
    let d := (s.context idx).desc
    if !d.getLsbD 0 then s
    else if !d.getLsbD 3 then s.beginDestroy idx
    else if s.quiet idx then (s.releaseContext idx).setContext idx 0
    else s.endWaits idx

end Sys2Proof.Machine
end

