-- ==== Sys2Proof/Machine/Errors.lean ====
section
/-! DEFINITION. Errors met in stored bits, control errors, requests that time out, and the Puquin Link (R390 to R393, R403 to
R413). -/

namespace Sys2Proof.Machine

/-! ## Counts (R404) -/

/-- Raising a column's counts of a structure class, which saturate at 32 bits (R404). -/
def State.countErrors (s : State) (col cls corrected poisoned : Nat) : State :=
  let sat (n : Nat) : Nat := min n (2 ^ 32 - 1)
  let old := (s.platform.corrections.find? fun k => k.col = col && k.cls = cls).getD ⟨col, cls, 0, 0⟩
  let new : Correction := ⟨col, cls, sat (old.corrected + corrected), sat (old.poisoned + poisoned)⟩
  { s with platform := { s.platform with
      corrections := new :: s.platform.corrections.filter fun k => !(k.col = col && k.cls = cls) } }

/-! ## Sites (R403) -/

/-- A physical range that exists as memory (R344). -/
def memoryAt (addr n : Nat) : Bool :=
  regionOf addr ≤ 3 && frameOk (addr / 65536 * 65536) 65536 && frameOk ((addr + n - 1) / 65536 * 65536) 65536

/-- The column and structure class of a site (R404): 0 registers, 1 scratchpad, 2 L1, 3 L2, 4 Vellum, 5 weight store, 6
accumulator store, 7 HBM, 8 parity refetches; none when there is no such granule. Which lines an L1 holds, and which of its own lines a
column's L2 holds, the model does not keep: any may stand there (notes/assumptions/71.md). -/
def State.sitePlace (s : State) : Site → Option (Nat × Nat)
  | .register tid reg =>
    match s.thread? tid with
    | some th => if reg < 16 + 16 * th.allot then some (th.col, 0) else none
    | none => none
  | .scratch team sector =>
    match s.team? team with
    | some t => if sector * 32 < t.scratchSize then some (t.col, 1) else none
    | none => none
  | .level1 col core sector => if col < 32 && core < 128 && memoryAt (sector * 32) 32 then some (col, 2) else none
  | .cache col sector =>
    if (s.copy? col (sector / 4)).isSome || (col < 32 && homeColumn (sector * 32) = col && memoryAt (sector * 32) 32) then some (col, 3) else none
  | .texels ctx index sector =>
    match s.surface? ctx index with
    | some f => some (f.tileColumn (sector * 32 / f.tileBytes), 4)
    | none => none
  | .weights col sector => if col < 32 && sector < 4194304 then some (col, 5) else none
  | .accumulator team element =>
    match s.team? team with
    | some t => if element < 256 * t.accTiles then some (t.col, 6) else none
    | none => none
  | .memory sector => if regionOf (sector * 32) = 0 && sector * 32 % 2 ^ 37 < hbmSize then some (homeColumn (sector * 32), 7) else none
  | .parity col => if col < 32 then some (col, 8) else none

/-- An uncorrectable error whose granule is marked poisoned: its count and its entry in the log (R404, R414). -/
def State.logPoison (s : State) (col core cls addr : Nat) : State := (s.countErrors col cls 0 1).logError 1 col core 0 cls addr

/-- An uncorrectable error in a clean copy or a parity-guarded entry: the data is fetched again (R403). -/
def State.refetch (s : State) (col cls : Nat) : State := s.countErrors col cls 1 0

/-- A copy whose sector of that number in its line, which holds no dirty byte, has been fetched again, with its mark at home. -/
def State.fetchSector (s : State) (c : LineCopy) (k : Nat) : LineCopy :=
  { c with
    bytes := c.bytes.mapIdx fun i b => if i / 32 = k then cellRead (w := 8) (c.line * 128 + i) s.mem else b
    poison := (c.poison &&& (15 - 2 ^ k)) ||| (s.lineMarks c.line &&& 2 ^ k) }

/-- The column may hold the sector dirty: its copy has dirty bytes there, or the line is its own, of which memory may have older bytes. -/
def State.mayBeDirty (s : State) (col sector : Nat) : Bool :=
  match s.copy? col (sector / 4) with
  | some c => c.dirtyOf (sector % 4) ≠ 0
  | none => homeColumn (sector * 32) = col

/-- An uncorrectable error in a sector that a cache holds: dirty, its mark goes with the column's bytes of it; clean, it is fetched again. Where
a cache of the column might hold it either way, which is free (R403, notes/assumptions/71.md). -/
def State.spoilCached (s : State) (col core cls sector : Nat) : State :=
  let (v, s) := s.free
  match s.copy? col (sector / 4) with
  | some c =>
    if s.mayBeDirty col sector && (cls = 3 || v.getLsbD 0) then (s.markSector (some c) sector).logPoison col core cls (sector * 32)
    else if cls ≠ 3 then s.refetch col cls
    else if c.dirty = 0 then (s.dropCopy col c.line).refetch col cls
    else (s.putCopy (s.fetchSector c (sector % 4))).refetch col cls
  | none =>
    if s.mayBeDirty col sector && v.getLsbD 0 then (s.markSector none sector).logPoison col core cls (sector * 32) else s.refetch col cls

/-- An uncorrectable error at a site (R403). -/
def State.spoilSite (s : State) (site : Site) : State :=
  match site with
  | .register tid reg =>
    match s.thread? tid with
    | some th =>
      (s.setThread { th with poisoned := reg :: th.poisoned.filter (· ≠ reg) }).logPoison th.col th.core 0 0
    | none => s
  | .scratch team sector =>
    match s.team? team with
    | some t =>
      (s.setTeam { t with scratchPoison := sector :: t.scratchPoison.filter (· ≠ sector) }).logPoison t.col t.core 1 0
    | none => s
  | .level1 col core sector => s.spoilCached col core 2 sector
  | .cache col sector => s.spoilCached col 0x7F 3 sector
  | .texels ctx index sector =>
    match s.surface? ctx index with
    | some f =>
      (s.setSurface { f with poison := sector :: f.poison.filter (· ≠ sector) }).logPoison
        (f.tileColumn (sector * 32 / f.tileBytes)) 0x7F 4 0
    | none => s
  | .weights col sector => (s.putWeights col (sector * 32) [] true 32).logPoison col 0x7F 5 0
  | .accumulator team element =>
    match s.team? team with
    | some t => (s.setTeam { t with accPoison := element :: t.accPoison.filter (· ≠ element) }).logPoison t.col t.core 6 0
    | none => s
  | .memory sector =>
    (s.markSector none sector).logPoison (homeColumn (sector * 32)) 0x7F 7 (sector * 32)
  | .parity col => s.refetch col 8

/-- UNCORRECTABLE_ERROR (R403). -/
def execUncorrectableError (site : Site) (s : State) : Host.Outcome State Fault Refusal :=
  .next <| if (s.sitePlace site).isSome then s.spoilSite site else s

/-- The patrol scrub reads the structure: HBM, Vellum, L2, weight store (R403). -/
def scrubbed (cls : Nat) : Bool := cls = 3 || cls = 4 || cls = 5 || cls = 7

/-- PATROL_SCRUB: the word is read and corrected, or its sector is marked. A correction that a read of any structure makes is this event too
(R403, R404). -/
def execPatrolScrub (col : Nat) (site : Site) (bad : Bool) (s : State) : Host.Outcome State Fault Refusal :=
  .next <| match s.sitePlace site with
  | some (c, cls) =>
    if c ≠ col then s
    else if !bad then s.countErrors col cls 1 0
    else if scrubbed cls then s.spoilSite site
    else s
  | none => s

/-! ## Control errors (R407) -/

/-- An operation of a core after a reset of the core: what has left the core goes on by itself, as does a fault that waits to be found;
a logged access, one behind it, and anything else is gone. -/
def Op.afterReset (o : Op) : Option Op :=
  let left := match o.stage with
    | .arrival _ _ => false
    | .behind _ _ => false
    | g => g.outlives && !g.isLogged
  if left then some { o with slot := none, dst := [] } else none

/-- What a reset of a core discards of a thread that has ended already is recorded as failed, and its launch fails (R12, R407). -/
def State.recordDiscarded (s : State) (o : Op) : State :=
  if (s.thread? o.tid).isSome || o.afterReset.isSome then s
  else match o.stage.access? with
  | some x => s.recordOrphan o 0 0 x.va
  | none => s.recordOrphan o 0 0 o.pc

/-- A reset of a core: its threads end, and its bins, gatherer queue, operand log and locks are discarded; its teams' engine
operations fail (R407). -/
def State.resetCore (s : State) (col core : Nat) : State :=
  let teams := s.teams.filter fun t => t.col = col && t.core = core
  let s := (s.ops.filter fun o => o.col = col && o.core = core).foldl State.recordDiscarded s
  let s := { s with
    ops := s.ops.filterMap fun (o : Op) => if o.col = col && o.core = core then o.afterReset else some o
    bins := s.bins.filter fun b => !(b.col = col && b.core = core)
    strokes := s.strokes.filter fun k => !(k.col = col && k.core = core)
    blkgets := s.blkgets.filter fun b => !(b.col = col && b.core = core)
    locks := s.locks.filter fun l => !(l.col = col && l.core = core)
    engines := { s.engines with tiles := s.engines.tiles.filter fun t => !(t.col = col && t.core = core) } }
  let s := (s.engines.ops.filter fun e => teams.any (·.id = e.team)).foldl (fun s e =>
    match s.engOp? e.id with
    | some f => s.failEngine f none
    | none => s) s
  teams.foldl (fun s t => (s.terminateTeam t.id).failLaunch t.launch) s

/-- CORE_CONTROL_ERROR (R407). -/
def execCoreControlError (col core : Nat) (s : State) : Host.Outcome State Fault Refusal :=
  .next <| if col < 32 && core < 128 then (s.resetCore col core).logError 4 col core 0 0 0 else s

/-- A line that the column's caches cannot write back: one that the column owns is marked at its home, any other where it is (R407). -/
def State.abandonLine (s : State) (c : LineCopy) : State :=
  if c.owned then (List.range 4).foldl (fun (s : State) k => s.markSector none (4 * c.line + k)) (s.dropCopy c.col c.line)
  else s.putCopy { c with poison := 15 }

/-- COLUMN_CONTROL_ERROR: every core is reset, and the column's caches write back every line that they can, all but the stuck ones (R407). -/
def execColumnControlError (e : ColumnError) (s : State) : Host.Outcome State Fault Refusal :=
  .next <|
    if e.col < 32 then
      let s := (List.range 128).foldl (fun s k => s.resetCore e.col k) s
      ((s.caches.copies.filter (·.col = e.col)).foldl (fun (s : State) c =>
        if e.stuck.contains c.line then s.abandonLine c else s.writeBack c) s).logError 5 e.col 0x7F 0 0 0
    else s

/-! ## Records that wait for room (R413) -/

/-- The first record that a column holds for a context whose ring has room. -/
def State.heldReady (s : State) (col : Nat) : List HeldRecord → List Nat → Option HeldRecord
  | [], _ => none
  | r :: rs, seen =>
    if r.col ≠ col || seen.contains r.ctx then s.heldReady col rs seen
    else if s.ringRoom (field (s.context r.ctx).desc 384 64) (field (s.context r.ctx).desc 60 4) then some r
    else s.heldReady col rs (r.ctx :: seen)

/-- FAULT_RECORD_POST_DELAYED: the column's first record that can go is posted; a copy that waits on it knows its address, and what waited for
room goes on (R313, R413). -/
def execFaultRecordPostDelayed (col : Nat) (s : State) : Host.Outcome State Fault Refusal :=
  .next <| match s.heldReady col s.heldRecords [] with
  | none => s
  | some r =>
    let base := field (s.context r.ctx).desc 384 64
    let log := field (s.context r.ctx).desc 60 4
    let at_ := base + 64 + 64 * (s.peekNat base 4 % 2 ^ log)
    let s := ({ s with heldRecords := s.heldRecords.erase r }).ringPost base log r.bytes
    match s.engOp? r.copy with
    | some e =>
      match e.engine with
      | .copy j =>
        match j.phase with
        | .failed reason faddr none => (s.setEngOp { e with engine := .copy { j with phase := .failed reason faddr (some at_) } }).wake
        | _ => s.wake
      | _ => s.wake
    | none => s.wake

/-! ## Requests without an answer (R390, R392) -/

/-- A request that is ended: a read returns poisoned data, and a write is recorded as failed (R12, R390). -/
def State.endRequest (s : State) (o : Op) (x : Access) : State :=
  if x.act.isLoad || !x.act.dst.isEmpty then s.setOp { o with stage := .failed 0x0F 0 none true }
  else
    let s := match s.thread? o.tid with
      | some th => s.recordThread th 0 0 x.va o.pc false
      | none => s.recordOrphan o 0 0 x.va
    (s.dropOp o.id).wake

/-- A request has been under way for 1 ms since it was sent. -/
def State.overdue (s : State) (since : Nat) : Bool := decide (since + 1100000 ≤ s.now)

/-- A virtual range of a context lies on a page of a region of physical memory. -/
def State.touchesRegion (s : State) (ctx lo n region : Nat) : Bool :=
  (pageNumbers lo n).any fun p => match s.translate ctx (p * 65536) with | .ok l => regionOf l.pa = region | .error _ => false

/-- A request of an engine or of a `gred` command to a region is ended without an answer: the operation fails, or the command at its first
row there (R169, R201, R390, R392). -/
def State.loseRequest (s : State) (req region : Nat) : State :=
  match s.engOp? req with
  | some e =>
    if s.overdue e.issued && s.locks.any fun k => k.owner = e.id && k.space = .memory && s.touchesRegion e.ctx k.lo (k.hi - k.lo) region then
      s.setEngOp { e with lost := true }
    else s
  | none =>
    match s.engines.greds.find? (·.id = req) with
    | some g =>
      match g.rows.find? fun q => s.touchesRegion g.ctx q.1.toNat (g.nel * (if g.bf16 then 2 else 4)) region with
      | some q => if s.overdue g.issued && g.accepted && g.failRow.isNone then s.setGred { g with token := none, failRow := some q.2 } else s
      | none => s
    | none => s

/-- CXL_TIMEOUT: a second-tier request without completion for 1,100,000 cycles is ended (R390). -/
def execCxlTimeout (req : Nat) (s : State) : Host.Outcome State Fault Refusal :=
  .next <| match s.op? req with
  | some o =>
    match o.stage with
    | .remote x l since => if regionOf l.pa = 1 && s.overdue since then s.endRequest o x else s
    | _ => s
  | none => s.loseRequest req 1

/-- PEER_TIMEOUT: a request to a peer that is unreachable, or without answer for 1,100,000 cycles, is ended (R392). -/
def execPeerTimeout (req : Nat) (s : State) : Host.Outcome State Fault Refusal :=
  .next <| match s.op? req with
  | some o =>
    match o.stage with
    | .remote x l since => if regionOf l.pa = 3 && (s.overdue since || !s.served l.pa) then s.endRequest o x else s
    | _ => s
  | none => s.loseRequest req 3

/-! ## The Puquin Link (R391 to R393) -/

/-- Retirements that a lost peer has not acknowledged wait for its routes to have been down for long enough (R393). -/
def InkRegion.losePeer (lost : List Nat) (r : InkRegion) : InkRegion :=
  let gone := (r.acks.filter (34 ≤ ·)).map (· - 34) |>.filter lost.contains
  { r with acks := r.acks.filter fun a => !(34 ≤ a && gone.contains (a - 34)), peers := r.peers ++ gone }

/-- A port has gone down: routes that crossed it move to the first port that is up, and with every port down every peer package is unreachable
from now on (R391, R392, notes/assumptions/86.md). -/
def State.loseRoutes (s : State) (port : Nat) : State :=
  let up := (List.range 24).find? fun p => !s.platform.links.any fun k => k.port = p && k.down
  match up with
  | some q =>
    { s with platform := { s.platform with settings := { s.platform.settings with
        routes := s.platform.settings.routes.map fun r => if r.2 = port then (r.1, q) else r } } }
  | none =>
    let lost := ((s.platform.settings.routes.map (·.1)).eraseDups).filter fun k => !s.peersDown.any (·.1 = k)
    { s with peersDown := s.peersDown ++ lost.map fun k => (k, s.now), inks := s.inks.map (InkRegion.losePeer lost) }

/-- FLIT_CRC_FAIL: a flit fails, or its replay does (`again`); after 16 failed replays of one flit the port goes down (R391). How the log names
the port within its group, and with which column, is not stated: free values stand there (notes/assumptions/6.md). -/
def execFlitCrcFail (e : FlitError) (s : State) : Host.Outcome State Fault Refusal :=
  .next <|
    let port := e.port
    let old := (s.platform.links.find? (·.port = port)).getD ⟨port, 0, false⟩
    if 24 ≤ port || old.down then s
    else
      let n := if e.again then old.fails + 1 else 0
      let new : LinkPort := ⟨port, n, decide (16 ≤ n)⟩
      let s := { s with platform := { s.platform with links := new :: s.platform.links.filter (·.port ≠ port) } }
      if new.down then
        let (v, s) := s.free
        (s.logError 7 (v.toNat / 16) 0x7F v.toNat 0 0).loseRoutes port
      else s

/-- This package's oldest request to a peer at an address. -/
def State.peerRequest (s : State) (peer addr : Nat) : Option (Op × Access × Leaf) :=
  s.ops.findSome? fun o => match o.stage with
    | .remote x l _ => if l.pa = addr && regionOf l.pa = 3 && s.peerOf l.pa = some peer then some (o, x, l) else none
    | _ => none

/-- An access to memory that comes from outside the package, at the homes of its lines (R388, R392): what it reads. A marked
sector, and a place that no root port or peer serves, gives free bytes (R389, R406). -/
def State.outsideRead (s : State) (addr n : Nat) : List Byte × State :=
  let s := s.freshFrames addr n
  if s.poisoned addr n || !s.servedRange addr n then s.freeBytes n else s.homeReads s.nextId (n / 128 + 2) addr n

/-- A write to memory that comes from outside the package. -/
def State.outsideWrite (s : State) (addr : Nat) (bytes : List Byte) : State :=
  if s.servedRange addr bytes.length then
    ((s.freshFrames addr bytes.length).homeWrites s.nextId (bytes.length / 128 + 2) addr bytes).pruneTags
  else s

/-- What an access from outside the package is to memory of its own (R388, R392): its bytes in reply, and the state. A marked sector has no
effect for an operation of R136 (R406). -/
def State.outside (s : State) (addr : Nat) : Request → List Byte × State
  | .read n => s.outsideRead addr n
  | .write bytes => ([], s.outsideWrite addr bytes)
  | .atomic aop aty b cmp =>
    let n := (Action.atomic aop aty b cmp []).width
    if addr % n ≠ 0 || s.poisoned addr n || !s.servedRange addr n then ([], s)
    else
      let (old, s) := (s.freshFrames addr n).homeRead s.nextId addr n
      match ((Action.atomic aop aty b cmp []).apply old).bytes with
      | some new => (old, s.outsideWrite addr new)
      | none => (old, s)
  | .answer _ _ => ([], s)

/-- Bytes that a request concerns. -/
def requestSize : Request → Nat
  | .read n => n
  | .write bytes => bytes.length
  | .atomic aop aty b cmp => (Action.atomic aop aty b cmp []).width
  | .answer bytes _ => bytes.length

/-- A peer's answer to this package's oldest request at an address: what the peer's memory held, or that it was marked (R390, R392). -/
def State.peerAnswer (s : State) (peer addr : Nat) (bytes : List Byte) (marked : Bool) : State :=
  match s.peerRequest peer addr with
  | none => s
  | some (o, x, l) =>
    if x.act.isStore then s.completeRemote o x l
    else if marked then s.setOp { o with stage := .failed 0x0F 0 none true }
    else if bytes.length = x.act.width then ({ s with mem := writeBytes s.mem addr bytes }).completeRemote o x l
    else s

/-- A peer changes its own memory, which this package sees through an aperture (R392). -/
def State.peerOwn (s : State) (addr : Nat) (r : Request) : State :=
  let at_ := s.through addr
  let old := readBytes s.mem at_ (requestSize r)
  match r with
  | .write bytes => { s with mem := writeBytes s.mem at_ bytes }
  | .atomic aop aty b cmp => { s with mem := writeBytes s.mem at_ ((((Action.atomic aop aty b cmp []).apply old).bytes).getD old) }
  | _ => s

/-- A frame that the range touches is closed to the peer, which was unreachable when it was retired (R393). -/
def State.closedTo (s : State) (peer addr n : Nat) : Bool := (pageNumbers addr n).any fun f => s.platform.refused.contains (peer, f)

/-- PEER_ACCESS: at an aperture, the answer to this package's oldest request there, or a change that the peer makes to its own memory;
elsewhere, the peer's access, performed at the home as one from another column at SYSTEM scope (R392, R393). -/
def execPeerAccess (peer addr : Nat) (r : Request) (s : State) : Host.Outcome State Fault Refusal :=
  .next <|
    if regionOf addr = 3 then
      if s.peerOf addr ≠ some peer then s
      else match r with
      | .answer bytes marked => s.peerAnswer peer addr bytes marked
      | _ => s.peerOwn addr r
    else if regionOf addr ≤ 1 && memoryAt addr (requestSize r) && !s.closedTo peer addr (requestSize r) then
      let (b, s) := s.outside addr r
      { s with regs := { s.regs with hostReply := b } }
    else s

/-- PEER_ROUTES_DOWN_TIMEOUT: an unreachable peer counts as having acknowledged every retirement, and the frames are closed to it from then on
(R393). -/
def execPeerRoutesDownTimeout (peer : Nat) (s : State) : Host.Outcome State Fault Refusal :=
  .next <|
    if s.peersDown.any fun p => p.1 = peer && decide (p.2 + 1100000 ≤ s.now) then
      s.inks.foldl (fun s r =>
        if r.peers.contains peer then
          let s := { s with platform := { s.platform with
            refused := s.platform.refused ++ (s.inkPages r).map fun p => (peer, p / 65536) } }
          let r := { r with peers := r.peers.filter (· ≠ peer) }
          if r.acks.isEmpty && r.peers.isEmpty && r.rstate = 2 && r.retired then s.reopen r else s.setInk r
        else s) s
    else s

/-- PEER_RETIREMENT_REQUEST: every cached line of the range, and every copy taken through an aperture, is discarded with its scope records,
and the retirement is acknowledged (R239, R393). -/
def execPeerRetirementRequest (p : PeerAddr) (len : Nat) (s : State) : Host.Outcome State Fault Refusal :=
  .next <|
    let lo := s.through p.addr
    let hit (line : Nat) : Bool := decide (lo < line * 128 + 128) && decide (line * 128 < lo + len)
    { s with
      caches := { s.caches with
        copies := s.caches.copies.filter fun c => !hit c.line
        scopes := s.caches.scopes.filter fun r => !hit r.line }
      platform := { s.platform with acknowledged := s.platform.acknowledged ++ [(p.peer, p.addr, len)] } }

end Sys2Proof.Machine
end

