-- ==== Sys2Proof/Machine/Host.lean ====
section
/-! DEFINITION. The register windows of region 0x04, and accesses of the host cores (R326, R348, R350, R354, R366, R371, R376,
R385 to R388, R418). -/

namespace Sys2Proof.Machine

/-- The state after an event that always has a next state. -/
def after (s : State) (o : Host.Outcome State Fault Refusal) : State :=
  match o with
  | .next t => t
  | .fault _ => s
  | .refused _ => s

/-! ## Global registers (R386, R418) -/

/-- Changing the registers. -/
def State.onRegs (s : State) (f : Registers → Registers) : State := { s with regs := f s.regs }

/-- HFRESP is written (R376). -/
def State.writeHfresp (s : State) (v : DWord) : State :=
  let ctx := field v 32 6
  let token := field v 0 32
  if field v 38 24 ≠ 0 then s
  else match field v 62 2 with
  | 1 => after s (execHfrespResume ctx token s)
  | 2 => after s (execHfrespTerminateThread ctx token s)
  | 3 => after s (execHfrespTerminateLaunch ctx token s)
  | _ => s

/-- A global register is written (R386, R418). -/
def State.writeGlobal (s : State) (off : Nat) (v : DWord) : State :=
  match off with
  | 0x000 => if s.queues.any WorkQueue.en then s else s.onRegs fun (r : Registers) => { r with qtbase := v &&& 0x000FFFFFFFF00000 }
  | 0x008 =>
    if s.contexts.any fun c => c.desc.getLsbD 0 then s else s.onRegs fun (r : Registers) => { r with ctxbase := v &&& 0x000FFFFFFFFFE000 }
  | 0x010 => s.onRegs fun (r : Registers) => { r with tinvaddr := v &&& 0x01FFFFFFFFFF0000 }
  | 0x018 => after s (execTinvctlCommand v s)
  | 0x020 => s.writeHfresp v
  | 0x028 =>
    if s.regs.ctrcmd.getLsbD 63 then s else s.onRegs fun (r : Registers) => { r with ctrbase := v &&& 0x000FFFFFFFF80000 }
  | 0x030 => if field v 61 2 = 1 then after s (execCtrcmdLoad v s) else after s (execCtrcmdStore v s)
  | _ =>
    let f := (off - 0x100) / 8
    if 0x108 ≤ off && off ≤ 0x1F8 && off % 8 = 0 && field v 0 32 ≠ 0 then
      s.onRegs fun (r : Registers) => { r with slices := r.slices.set f (v &&& 0xFFFFFFFF) }
    else s

/-- A global register is read (R386, R418). -/
def State.readGlobal (s : State) (off : Nat) : DWord :=
  match off with
  | 0x000 => s.regs.qtbase
  | 0x008 => s.regs.ctxbase
  | 0x010 => s.regs.tinvaddr
  | 0x018 => s.regs.tinvctl
  | 0x028 => s.regs.ctrbase
  | 0x030 => s.regs.ctrcmd
  | _ => if 0x108 ≤ off && off ≤ 0x1F8 && off % 8 = 0 then s.regs.slices.getD ((off - 0x100) / 8) 0 else 0

/-! ## Registers of a column (R385) -/

/-- TFRESP of a column is written (R350). -/
def State.writeTfresp (s : State) (col : Nat) (v : DWord) : State :=
  let ctx := field v 32 6
  let token := field v 0 32
  if field v 38 24 ≠ 0 then s
  else match field v 62 2 with
  | 1 => after s (execTfrespResolved col ctx token s)
  | 2 => after s (execTfrespUnresolvable col ctx token s)
  | _ => s

/-- The copy-resume doorbell of a column is written with a record's address (R314, R387). -/
def State.writeDoorbell (s : State) (col : Nat) (v : DWord) : State :=
  match s.dispOf v.toNat with
  | 1 => after s (execCopyReplay col v s)
  | 2 => after s (execCopyCancel col v s)
  | _ => s

/-- MIGIDX of a ring is written: software moves PROD of rings 0 and 1 and CONS of ring 2; a ring never holds more than 1,024
entries (R354). -/
def State.writeMigidx (s : State) (col ring : Nat) (v : DWord) : State :=
  let m := s.migration col
  let n := if ring = 2 then m.setIdx 2 (m.prod 2) (field v 0 32) else m.setIdx ring (field v 32 32) (m.cons_ ring)
  if 1024 < n.held ring then s else s.setMigration col n

/-- A register of a column is written (R385). -/
def State.writeColumn (s : State) (col off : Nat) (v : DWord) : State :=
  let m := s.migration col
  match off with
  | 0x000 => s.writeTfresp col v
  | 0x008 => s.writeDoorbell col v
  | 0x010 => s.setMigration col { m with ctl := v &&& 0x8000FFFFFFFFFFFF }
  | 0x018 => s.setMigration col { m with bases := m.bases.set 0 (v &&& 0x000FFFFFFFFFE000) }
  | 0x020 => s.setMigration col { m with bases := m.bases.set 1 (v &&& 0x000FFFFFFFFFE000) }
  | 0x028 => s.setMigration col { m with bases := m.bases.set 2 (v &&& 0x000FFFFFFFFFE000) }
  | 0x030 => s.writeMigidx col 0 v
  | 0x038 => s.writeMigidx col 1 v
  | 0x040 => s.writeMigidx col 2 v
  | 0x048 => if v.getLsbD 0 then after s (execInkpoolEnable col v s) else after s (execInkpoolDisable col v s)
  | _ => s

/-- A register of a column is read (R385). -/
def State.readColumn (s : State) (col off : Nat) : DWord :=
  let m := s.migration col
  match off with
  | 0x010 => m.ctl
  | 0x018 => m.bases.getD 0 0
  | 0x020 => m.bases.getD 1 0
  | 0x028 => m.bases.getD 2 0
  | 0x030 => m.idxs.getD 0 0
  | 0x038 => m.idxs.getD 1 0
  | 0x040 => m.idxs.getD 2 0
  | 0x048 => s.inkpool col
  | _ => 0

/-! ## The windows (R385) -/

/-- The accessor is the physical function. -/
def isPhysical : Accessor → Bool
  | .func f => f = 0
  | .program _ => false

/-- A register of region 0x04 is written; where the accessor may not reach, nothing happens (R385). -/
def State.writeRegister (s : State) (who : Accessor) (off : Nat) (v : DWord) : State :=
  if off % 8 ≠ 0 then s
  else if 0x100000 ≤ off && off < 0x140000 then after s (execTailWrite who ((off - 0x100000) / 8) v s)
  else if !isPhysical who then s
  else if off < 0x1000 then s.writeGlobal off v
  else if 0x10000 ≤ off && off < 0x30000 then s.writeColumn ((off - 0x10000) / 0x1000) (off % 0x1000) v
  else s

/-- A register of region 0x04 is read: zero where the accessor may not reach (R385). -/
def State.readRegister (s : State) (who : Accessor) (off : Nat) : DWord :=
  if off % 8 ≠ 0 then 0
  else if 0x100000 ≤ off && off < 0x140000 then
    let w := s.queue ((off - 0x100000) / 8)
    if s.reachesQueue who w then BitVec.ofNat 64 w.tail else 0
  else if !isPhysical who then 0
  else if off < 0x1000 then s.readGlobal off
  else if 0x10000 ≤ off && off < 0x30000 then s.readColumn ((off - 0x10000) / 0x1000) (off % 0x1000)
  else 0

/-- Vector Control of entry 1 of a function's MSI-X table is written: bit 0 masks it, and a message that is pending goes out when the mask is
lifted (R417, PRESUMED from the PCIe base specification, notes/assumptions/76.md). -/
def State.maskVector (s : State) (f : Nat) (mask : Bool) : State :=
  s.onRegs fun (r : Registers) =>
    if mask then { r with unmasked := r.unmasked.filter (· ≠ f) }
    else
      { r with
        unmasked := f :: r.unmasked.filter (· ≠ f), pending := r.pending.filter (· ≠ f)
        interrupts := if r.pending.contains f then r.interrupts ++ [f] else r.interrupts }

/-- The number under which REGISTER_WRITE reaches Vector Control of entry 1 of the function's own MSI-X table, which lies outside region 0x04
(R417, notes/assumptions/76.md). -/
def vectorControl : Nat := 2 ^ 44

/-- REGISTER_WRITE (R385, R386, R417). -/
def execRegisterWrite (who : Accessor) (off : Nat) (value : BitVec 64) (s : State) : Host.Outcome State Fault Refusal :=
  .next <| match who with
  | .func f => if off = vectorControl then s.maskVector f (value.getLsbD 0) else s.writeRegister who off value
  | .program _ => s.writeRegister who off value

/-! ## The tables that the device holds (R326, R371) -/

/-- A value with some of its bytes replaced. -/
def patchBits {n : Nat} (v : BitVec n) (at_ : Nat) (bytes : List Byte) : BitVec n :=
  BitVec.ofNat n (leNat (patch (leBytes (n / 8) v.toNat) at_ bytes))

/-- A write of bytes into a queue's entry: what is not written keeps its value, and ERR is cleared only by a one (R326). -/
def State.writeQueueBytes (s : State) (q at_ : Nat) (bytes : List Byte) : State :=
  s.writeQueueEntry q (patchBits ((s.queue q).entry &&& ~~~2#256) at_ bytes)

/-- A write of bytes into a context's descriptor (R371 to R373). -/
def State.writeContextBytes (s : State) (idx at_ : Nat) (bytes : List Byte) : State :=
  let old := (s.context idx).desc
  let new := patchBits old at_ bytes
  if old.getLsbD 3 then s
  else if old.getLsbD 0 then
    (if new.getLsbD 0 then after s (execContextFieldWrite idx new s) else after s (execContextDestroy idx s))
  else if new.getLsbD 0 then after s (execContextCreate idx new s)
  else s.setContext idx (new &&& ~~~8#1024)

/-- Whether an address lies in a table at a base, and where. -/
def within (base size addr : Nat) : Option Nat := if base ≤ addr && addr < base + size then some (addr - base) else none

/-- The queue table and the context table, which the device holds at their bases. -/
def State.tableAt (s : State) (addr : Nat) : Option (Nat ⊕ Nat) :=
  match within s.regs.qtbase.toNat (32 * 32768) addr with
  | some o => some (.inl o)
  | none => (within s.regs.ctxbase.toNat (128 * 64) addr).map .inr

/-- Bytes cut where entries of a size end. -/
def cutEntries (size : Nat) : Nat → Nat → List Byte → List (Nat × List Byte)
  | 0, _, _ => []
  | k + 1, o, bytes =>
    if bytes.isEmpty then []
    else (o, bytes.take (size - o % size)) :: cutEntries size k (o + (size - o % size)) (bytes.drop (size - o % size))

/-! ## The tables that contexts hold in memory (R245, R356) -/

/-- Where a physical address lies in a table of a context at a virtual base. -/
def State.tableOffset (s : State) (ctx base size addr : Nat) : Option Nat :=
  (pageNumbers base size).findSome? fun p =>
    match s.translate ctx (p * 65536) with
    | .ok l => if l.pa ≤ addr && addr < l.pa + 65536 then within base size (p * 65536 + (addr - l.pa)) else none
    | .error _ => none

/-- The context and the offset in its ink table (`inl`) or its surface table (`inr`) of a physical address. -/
def State.entryAt (s : State) (addr : Nat) : Option (Nat × (Nat ⊕ Nat)) :=
  (s.contexts.filter Context.live).findSome? fun c =>
    match s.tableOffset c.idx c.itBase 2097152 addr with
    | some o => some (c.idx, .inl o)
    | none => (s.tableOffset c.idx c.stBase 4194304 addr).map fun o => (c.idx, .inr o)

/-- System software writes bytes of an ink descriptor: the region is created, changed or destroyed, and what the device writes stays as it is
(R357, R359). -/
def State.writeInkBytes (s : State) (ctx addr at_ : Nat) (o : Nat) (bytes : List Byte) : State :=
  let region := o / 32
  let old := BitVec.ofNat 256 (leNat (s.peek (addr - at_) 32))
  let new := patchBits old at_ bytes
  if new.getLsbD 0 then after s (execInkRegionCreate ctx region new s)
  else if (s.ink? ctx region).isSome then after s (execInkRegionDestroy ctx region s)
  else s.outsideWrite (addr - at_) (leBytes 32 ((new &&& ~~~inkReadOnly) ||| (old &&& inkReadOnly)).toNat)

/-- The bits of a surface entry that only the device writes: STATE (R245). -/
def surfaceReadOnly : BitVec 512 := BitVec.ofNat 512 (3 * 2 ^ 28)

/-- System software writes bytes of a surface entry: VALID makes it take effect or ends it, and STATE stays as it is (R245, R248). -/
def State.writeSurfaceBytes (s : State) (ctx addr at_ : Nat) (o : Nat) (bytes : List Byte) : State :=
  let old := BitVec.ofNat 512 (leNat (s.peek (addr - at_) 64))
  let new := (patchBits old at_ bytes &&& ~~~surfaceReadOnly) ||| (old &&& surfaceReadOnly)
  if new.getLsbD 31 then after s (execSurfaceEntryValid ctx (o / 64) new s)
  else
    let s := s.outsideWrite (addr - at_) (leBytes 64 new.toNat)
    if (s.surface? ctx (o / 64)).isSome then after s (execSurfaceEntryInvalidate ctx (o / 64) s) else s

/-- A write from outside to memory that holds no table of the device, page by page of the tables of contexts. -/
def State.memoryWrite (s : State) (addr : Nat) (bytes : List Byte) : State :=
  match s.entryAt addr with
  | some (ctx, .inl o) =>
    (cutEntries 32 (bytes.length + 1) o bytes).foldl (fun s p => s.writeInkBytes ctx (addr + (p.1 - o)) (p.1 % 32) p.1 p.2) s
  | some (ctx, .inr o) =>
    (cutEntries 64 (bytes.length + 1) o bytes).foldl (fun s p => s.writeSurfaceBytes ctx (addr + (p.1 - o)) (p.1 % 64) p.1 p.2) s
  | none => s.outsideWrite addr bytes

/-! ## Accesses of the host cores (R388) -/

/-- A host core's write as a function (R385, R388): to the registers, to the tables the device holds, or to memory. -/
def State.hostWrite (s : State) (func addr : Nat) (bytes : List Byte) : State :=
  if regionOf addr = 4 then
    (if bytes.length = 8 then s.writeRegister (.func func) (addr % 2 ^ 44) (BitVec.ofNat 64 (leNat bytes)) else s)
  else match s.tableAt addr with
  | some (.inl o) => (cutEntries 32 (bytes.length + 1) o bytes).foldl (fun s p => s.writeQueueBytes (p.1 / 32) (p.1 % 32) p.2) s
  | some (.inr o) => (cutEntries 128 (bytes.length + 1) o bytes).foldl (fun s p => s.writeContextBytes (p.1 / 128) (p.1 % 128) p.2) s
  | none => if memoryAt addr bytes.length then s.memoryWrite addr bytes else s

/-- One byte of a table that the device holds. -/
def State.tableByte (s : State) (t : Nat ⊕ Nat) (i : Nat) : Byte :=
  match t with
  | .inl o => BitVec.ofNat 8 ((s.queue ((o + i) / 32)).entry.toNat / 2 ^ (8 * ((o + i) % 32)))
  | .inr o => BitVec.ofNat 8 ((s.context ((o + i) / 128)).desc.toNat / 2 ^ (8 * ((o + i) % 128)))

/-- A host core's read as a function: a register or half of one, bytes of a table, or memory (R385, R388). -/
def State.hostRead (s : State) (func addr n : Nat) : List Byte × State :=
  if regionOf addr = 4 then
    let off := addr % 2 ^ 44
    (((leBytes 8 (s.readRegister (.func func) (off / 8 * 8)).toNat).drop (off % 8)).take n, s)
  else match s.tableAt addr with
  | some t => ((List.range n).map (s.tableByte t), s)
  | none => if memoryAt addr n then s.outsideRead addr n else (List.replicate n 0, s)

/-- HOST_ACCESS: an access of a host core through a function's window or to memory; what a read or an operation of R136 returns stands in the
reply (R385, R388). -/
def execHostAccess (func addr : Nat) (r : Request) (s : State) : Host.Outcome State Fault Refusal :=
  .next <| match r with
  | .write bytes => s.hostWrite func addr bytes
  | .read n =>
    let (b, s) := s.hostRead func addr n
    s.onRegs fun (r : Registers) => { r with hostReply := b }
  | .atomic aop aty x cmp =>
    if regionOf addr ≤ 3 && (s.tableAt addr).isNone && memoryAt addr 8 then
      let (b, s) := s.outside addr (.atomic aop aty x cmp)
      s.onRegs fun (r : Registers) => { r with hostReply := b }
    else s
  | .answer _ _ => s

end Sys2Proof.Machine
end

