-- ==== Sys2Proof/Machine/Platform.lean ====
section
/-! DEFINITION. Flash, boot, attestation, the management port, power and heat (R6, R394, R404, R414, R423 to R431). -/

namespace Sys2Proof.Machine

/-! ## SHA-256 (FIPS 180-4), which R423 and R428 name -/

/-- The round constants, first half. -/
def shaLow : List Word :=
  [0x428A2F98, 0x71374491, 0xB5C0FBCF, 0xE9B5DBA5, 0x3956C25B, 0x59F111F1, 0x923F82A4, 0xAB1C5ED5,
   0xD807AA98, 0x12835B01, 0x243185BE, 0x550C7DC3, 0x72BE5D74, 0x80DEB1FE, 0x9BDC06A7, 0xC19BF174,
   0xE49B69C1, 0xEFBE4786, 0x0FC19DC6, 0x240CA1CC, 0x2DE92C6F, 0x4A7484AA, 0x5CB0A9DC, 0x76F988DA,
   0x983E5152, 0xA831C66D, 0xB00327C8, 0xBF597FC7, 0xC6E00BF3, 0xD5A79147, 0x06CA6351, 0x14292967]

/-- The round constants, second half. -/
def shaHigh : List Word :=
  [0x27B70A85, 0x2E1B2138, 0x4D2C6DFC, 0x53380D13, 0x650A7354, 0x766A0ABB, 0x81C2C92E, 0x92722C85,
   0xA2BFE8A1, 0xA81A664B, 0xC24B8B70, 0xC76C51A3, 0xD192E819, 0xD6990624, 0xF40E3585, 0x106AA070,
   0x19A4C116, 0x1E376C08, 0x2748774C, 0x34B0BCB5, 0x391C0CB3, 0x4ED8AA4A, 0x5B9CCA4F, 0x682E6FF3,
   0x748F82EE, 0x78A5636F, 0x84C87814, 0x8CC70208, 0x90BEFFFA, 0xA4506CEB, 0xBEF9A3F7, 0xC67178F2]

/-- The initial hash value. -/
def shaInit : List Word :=
  [0x6A09E667, 0xBB67AE85, 0x3C6EF372, 0xA54FF53A, 0x510E527F, 0x9B05688C, 0x1F83D9AB, 0x5BE0CD19]

/-- A big-endian word of four bytes. -/
def beWord (b : List Byte) : Word := BitVec.ofNat 32 (leNat b.reverse)

/-- The message schedule: `n` words after those there. -/
def shaSchedule : Nat → List Word → List Word
  | 0, w => w
  | n + 1, w =>
    let t := w.length
    let x := w.getD (t - 15) 0
    let y := w.getD (t - 2) 0
    let s0 := x.rotateRight 7 ^^^ x.rotateRight 18 ^^^ (x >>> 3)
    let s1 := y.rotateRight 17 ^^^ y.rotateRight 19 ^^^ (y >>> 10)
    shaSchedule n (w ++ [w.getD (t - 16) 0 + s0 + w.getD (t - 7) 0 + s1])

/-- One round on the eight working variables. -/
def shaRound (v : List Word) (kw : Word × Word) : List Word :=
  let g (i : Nat) : Word := v.getD i 0
  let s1 := (g 4).rotateRight 6 ^^^ (g 4).rotateRight 11 ^^^ (g 4).rotateRight 25
  let ch := (g 4 &&& g 5) ^^^ (~~~(g 4) &&& g 6)
  let t1 := g 7 + s1 + ch + kw.1 + kw.2
  let s0 := (g 0).rotateRight 2 ^^^ (g 0).rotateRight 13 ^^^ (g 0).rotateRight 22
  let maj := (g 0 &&& g 1) ^^^ (g 0 &&& g 2) ^^^ (g 1 &&& g 2)
  [t1 + s0 + maj, g 0, g 1, g 2, g 3 + t1, g 4, g 5, g 6]

/-- One 64-byte block. -/
def shaBlock (h : List Word) (b : List Byte) : List Word :=
  let w := shaSchedule 48 ((List.range 16).map fun i => beWord ((b.drop (4 * i)).take 4))
  let v := ((shaLow ++ shaHigh).zip w).foldl shaRound h
  (h.zip v).map fun p => p.1 + p.2

/-- The padded message. -/
def shaPad (m : List Byte) : List Byte :=
  m ++ [0x80] ++ List.replicate ((119 - m.length % 64) % 64) 0 ++ (leBytes 8 (8 * m.length)).reverse

/-- SHA-256 of a message, as 32 bytes. -/
def sha256 (m : List Byte) : List Byte :=
  let p := shaPad m
  ((List.range (p.length / 64)).foldl (fun h i => shaBlock h ((p.drop (64 * i)).take 64)) shaInit).flatMap fun w =>
    (leBytes 4 w.toNat).reverse

/-! ## LMS (RFC 8554), which R423 and R427 name with LMOTS_SHA256_N32_W4 -/

/-- Big-endian bytes of a number. -/
def beBytes (n v : Nat) : List Byte := (leBytes n v).reverse

/-- The number that big-endian bytes make. -/
def beNat (b : List Byte) : Nat := leNat b.reverse

/-- The Winternitz digits of bytes: four bits each, the high ones first. -/
def nibbles (b : List Byte) : List Nat := b.flatMap fun x => [x.toNat / 16, x.toNat % 16]

/-- The 67 digits that a hash is signed by: its own, then those of its checksum. -/
def otsDigits (hash : List Byte) : List Nat :=
  let d := nibbles hash
  d ++ (nibbles (beBytes 2 (16 * (d.map (15 - ·)).sum))).take 3

/-- `n` steps of chain `i` from place `j`. -/
def otsChain (ident : List Byte) (q i : Nat) : Nat → Nat → List Byte → List Byte
  | 0, _, t => t
  | n + 1, j, t => otsChain ident q i n (j + 1) (sha256 (ident ++ beBytes 4 q ++ beBytes 2 i ++ beBytes 1 j ++ t))

/-- The hash that is signed, of the randomizer and the message. -/
def otsHash (ident : List Byte) (q : Nat) (c msg : List Byte) : List Byte := sha256 (ident ++ beBytes 4 q ++ [0x81, 0x81] ++ c ++ msg)

/-- The one-time public key of the ends of the chains. -/
def otsKey (ident : List Byte) (q : Nat) (ends : List (List Byte)) : List Byte :=
  sha256 (ident ++ beBytes 4 q ++ [0x80, 0x80] ++ ends.flatten)

/-- Node `r` of the tree over a one-time public key. -/
def lmsLeaf (ident : List Byte) (r : Nat) (key : List Byte) : List Byte := sha256 (ident ++ beBytes 4 r ++ [0x82, 0x82] ++ key)

/-- Node `r` of the tree over its two children. -/
def lmsInner (ident : List Byte) (r : Nat) (a b : List Byte) : List Byte := sha256 (ident ++ beBytes 4 r ++ [0x83, 0x83] ++ a ++ b)

/-- The root that a path from node `r` leads to. -/
def lmsClimb (ident : List Byte) : List (List Byte) → Nat → List Byte → List Byte
  | [], _, t => t
  | p :: ps, r, t => lmsClimb ident ps (r / 2) (if r % 2 = 1 then lmsInner ident (r / 2) p t else lmsInner ident (r / 2) t p)

/-- `n` strings of 32 bytes. -/
def cut32 (n : Nat) (b : List Byte) : List (List Byte) := (List.range n).map fun i => (b.drop (32 * i)).take 32

/-- A signature with a tree of height `h`, of LMS type `kind`, verifies a message; what stands after it is padding with zeros. -/
def lmsVerify (h kind : Nat) (ident root msg sig : List Byte) : Bool :=
  let q := beNat (sig.take 4)
  let c := (sig.drop 8).take 32
  let d := otsDigits (otsHash ident q c msg)
  let ends := ((d.zip (cut32 67 (sig.drop 40))).zipIdx).map fun p => otsChain ident q p.2 (15 - p.1.1) p.1.1 p.1.2
  let leaf := lmsLeaf ident (2 ^ h + q) (otsKey ident q ends)
  decide (2188 + 32 * h ≤ sig.length) && beNat ((sig.drop 4).take 4) = 3 && beNat ((sig.drop 2184).take 4) = kind && decide (q < 2 ^ h) &&
    (sig.drop (2188 + 32 * h)).all (· = 0) && lmsClimb ident (cut32 h (sig.drop 2188)) (2 ^ h + q) leaf = root

/-- The start of chain `i` of leaf `q`, from the private seed (RFC 8554, appendix A). -/
def otsStart (ident seed : List Byte) (q i : Nat) : List Byte := sha256 (ident ++ beBytes 4 q ++ beBytes 2 i ++ [0xFF] ++ seed)

/-- Node `r` of the tree of height `h` that a private seed gives, `n` levels above the leaves. -/
def lmsTree (ident seed : List Byte) (h : Nat) : Nat → Nat → List Byte
  | 0, r => lmsLeaf ident r (otsKey ident (r - 2 ^ h) ((List.range 67).map fun i =>
      otsChain ident (r - 2 ^ h) i 15 0 (otsStart ident seed (r - 2 ^ h) i)))
  | n + 1, r => lmsInner ident r (lmsTree ident seed h n (2 * r)) (lmsTree ident seed h n (2 * r + 1))

/-- The signature of a message at leaf `q` of a tree of height `h`, of LMS type `kind`, with a randomizer. -/
def lmsSign (h kind : Nat) (ident seed c : List Byte) (q : Nat) (msg : List Byte) : List Byte :=
  let d := otsDigits (otsHash ident q c msg)
  beBytes 4 q ++ beBytes 4 3 ++ c ++ (d.zipIdx.flatMap fun p => otsChain ident q p.2 p.1 0 (otsStart ident seed q p.2)) ++ beBytes 4 kind ++
    (List.range h).flatMap fun i => lmsTree ident seed h i ((2 ^ h + q) / 2 ^ i ^^^ 1)

/-! ## Images and boot (R423 to R426) -/

/-- A little-endian field of an image. -/
def imageNat (b : List Byte) (at_ n : Nat) : Nat := leNat ((b.drop at_).take n)

/-- VERSION of an image. -/
def imageVersion (b : List Byte) : Nat := imageNat b 8 4

/-- BODY of an image. -/
def imageBody (b : List Byte) : List Byte := (b.drop 4096).take (imageNat b 12 4)

/-- Settings of which no record names a value outside its rule's range (R366, R389, R391, R392, R410, R424, R430). -/
def settingsOk (c : Config.Settings) : Bool :=
  [1, 2, 4, 8].contains c.ports && decide (c.package < 256) && decide (c.floor ≤ c.cap) && decide (c.cap ≤ 7500000) &&
    (c.inkpools.all fun p => decide (p.1 < 32) && field p.2 1 15 = 0 && poolOk p.1 p.2) &&
    (c.apertures.all fun a => decide (a.1 < 64) && decide (a.2.1 < 256) && a.2.2 % 2 ^ 38 = 0 && decide (a.2.2 / 2 ^ 44 ≤ 1)) &&
    (c.routes.all fun r => decide (r.1 < 256) && decide (r.2 < 24)) &&
    c.fenced.all fun f => decide (f.1 < 32) && decide (f.2.1 < 128) && decide (f.2.2 < 16)

/-- An image is valid: its signature is LMS_SHA256_M32_H15, type 7, under the boot ROM's key (R423, R424, notes/assumptions/13.md). -/
def imageOk (rollback : Nat) (b : List Byte) : Bool :=
  let n := imageNat b 12 4
  imageNat b 0 8 = 0x4C414D454E494D47 && n ≤ 16773120 && decide (4096 + n ≤ b.length) && imageVersion b ≠ 0 &&
    decide (rollback ≤ imageVersion b) && sha256 (imageBody b) = (b.drop 16).take 32 &&
    lmsVerify 15 7 (beBytes 16 Config.romIdentifier.toNat) (beBytes 32 Config.romRoot.toNat) (b.take 48) ((b.drop 48).take 4048) &&
    (Config.bodySettings (imageBody b)).any settingsOk

/-- The slot that boot chooses: the valid image of the greater version, slot A on a tie (R425). -/
def chooseSlot (rollback : Nat) (slots : List (List Byte)) : Option Nat :=
  let a := slots.getD 0 []
  let b := slots.getD 1 []
  if imageOk rollback a && (!imageOk rollback b || imageVersion b ≤ imageVersion a) then some 0
  else if imageOk rollback b then some 1
  else none

/-- The flash slots once the power span is over: one that was being written is left invalid (R426). -/
def Platform.slotsLeft (p : Platform) : List (List Byte) := match p.writing with | some k => p.slots.set k [] | none => p.slots

/-- What flash keeps through a loss of power (R423 to R427); the model's count of free values goes on. Memory of every region starts
again as after power-on: the spec does not say what a module reset does to it (DESIGN CHOICE, notes/assumptions/1.md). -/
def State.flashOnly (s : State) : State :=
  { State.reset with fresh := s.fresh, platform := { State.reset.platform with
      slots := s.platform.slotsLeft, rollback := s.platform.rollback, leaf := s.platform.leaf } }

/-- The sub-arrays that an image fences from boot (R410, R424). -/
def fencedAt (c : Config.Settings) : List SubArray := (c.fenced.map fun f => (⟨f.1, f.2.1, f.2.2⟩ : SubArray)).eraseDups

/-- INKPOOL of a column after boot: what the image names, else the default (R366). -/
def bootPool (c : Config.Settings) (col : Nat) : DWord := ((c.inkpools.find? (·.1 = col)).map (·.2)).getD (inkpoolDefault col)

/-- BODY is applied, and the power span begins (R424, R425). -/
def State.applyImage (s : State) (slot : Nat) (c : Config.Settings) : State :=
  let image := s.platform.slots.getD slot []
  { s with
    power := .on
    inkpools := (List.range 32).map (bootPool c)
    engines := { s.engines with fenced := fencedAt c }
    platform := { s.platform with
      chosen := slot, rollback := max s.platform.rollback (imageVersion image), settings := c
      certificate := Config.bodyCertificate (imageBody image), cap := c.cap, nextCap := c.cap, floor := c.floor } }

/-- Root ports that the image leaves unpopulated, and those of `absent`, which find no device or another kind of device, have their link down,
and the error log says so; the column concerned is not stated, so a free value stands there (R389, R414, notes/assumptions/6.md). -/
def State.reportPorts (s : State) (absent : List Nat) : State :=
  let down := (List.range 8).filter fun p => decide (s.platform.settings.ports ≤ p) || absent.contains p
  down.foldl (fun s p =>
    let (v, s) := s.free
    s.logError 6 v.toNat 0x7F p 0 0) { s with platform := { s.platform with rootsDown := down } }

/-- MODULE_RESET: the boot ROM verifies an image and applies it, or the device stays in recovery; which root ports find no CXL memory device
depends on what is outside, and is free (R389, R425, notes/assumptions/3.md). -/
def execModuleReset (s : State) : Host.Outcome State Fault Refusal :=
  .next <|
    let t := s.flashOnly
    match chooseSlot t.platform.rollback t.platform.slots with
    | none => { t with power := .recovery }
    | some k =>
      match Config.bodySettings (imageBody (t.platform.slots.getD k [])) with
      | some c =>
        let (v, t) := (t.applyImage k c).free
        t.reportPorts ((List.range 8).filter v.getLsbD)
      | none => { t with power := .recovery }

/-- POWER_REMOVAL: the power span ends (R6). -/
def execPowerRemoval (s : State) : Host.Outcome State Fault Refusal := .next { s.flashOnly with power := .off }

/-! ## The management port (R394, R404, R414, R426 to R428) -/

/-- A reply to the baseboard controller. -/
def State.reply (s : State) (b : List Byte) : State := { s with platform := { s.platform with replies := s.platform.replies ++ [b] } }

/-- The power span goes on, and the management port answers (R394, R431). -/
def State.powered (s : State) : Bool := s.power = .on || s.power = .halted

/-- IMAGE_WRITE: the slot that boot did not choose, or either slot in recovery, is replaced whole; without its image, its writing
begins (R426). -/
def execImageWrite (slot : Nat) (image : Option (List (BitVec 8))) (s : State) : Host.Outcome State Fault Refusal :=
  .next <|
    if slot < 2 && (image.all fun b => decide (b.length ≤ 16777216)) && (s.power = .recovery || (s.powered && slot ≠ s.platform.chosen)) then
      match image with
      | some bytes => { s with platform := { s.platform with slots := s.platform.slots.set slot bytes, writing := none } }
      | none => { s with platform := { s.platform with writing := some slot } }
    else s

/-- Bytes 0 to 175 of a report (R428). -/
def State.report (s : State) (nonce : List Byte) (leaf status : Nat) : List Byte :=
  let image := s.platform.slots.getD s.platform.chosen []
  nonce ++ sha256 (image.take 48) ++ leBytes 4 (imageVersion image) ++ leBytes 4 s.platform.rollback ++
    ((List.range 32).flatMap fun c => leBytes 2 (s.engines.fenced.filter (·.col = c)).length) ++ leBytes 4 leaf ++ leBytes 4 status ++
    sha256 s.platform.certificate

/-- The signature of a report at a leaf: LMS_SHA256_M32_H20, type 8, under the identity's key, with a randomizer (R427, R428,
notes/assumptions/13.md). -/
def identitySign (b c : List Byte) (leaf : Nat) : List Byte :=
  lmsSign 20 8 (beBytes 16 (Config.identityIdentifier Config.deviceSecret).toNat) (beBytes 32 (Config.identitySeed Config.deviceSecret).toNat)
    c leaf b

/-- ATTESTATION_REQUEST: the leaf index is raised before the report is signed with it; once exhausted, the report says so, and
what stands for its leaf and signature is not stated (R427, R428, notes/assumptions/3.md). -/
def execAttestationRequest (nonce : List (BitVec 8)) (s : State) : Host.Outcome State Fault Refusal :=
  .next <|
    if !s.powered || nonce.length ≠ 32 then s
    else
      let k := s.platform.leaf
      if k < 2 ^ 20 then
        let b := s.report nonce k 0
        let (c, s) := s.freeBytes 32
        ({ s with platform := { s.platform with leaf := k + 1 } }).reply (b ++ identitySign b c k)
      else
        let (v, s) := s.free
        let (sig, s) := s.freeBytes 2828
        s.reply (s.report nonce (v.toNat % 2 ^ 32) 1 ++ sig)

/-- The entry at an index of the error log, the place that the entry of that number modulo 1,024 was written to (R414). -/
def Platform.entry (p : Platform) (index : Nat) : BitVec 256 :=
  let first := p.logCount - p.log.length
  ((p.log.zipIdx.find? fun e => (first + e.2) % 1024 = index).map (·.1)).getD 0

/-- ERROR_LOG_READ: an entry and the count of the entries written (R414). -/
def execErrorLogRead (index : Nat) (s : State) : Host.Outcome State Fault Refusal :=
  .next <|
    if s.powered && decide (index < 1024) then
      s.reply (leBytes 32 (s.platform.entry index).toNat ++ leBytes 4 s.platform.logCount)
    else s

/-- CORRECTION_COUNT_READ: a column's nine pairs of counts are read and cleared (R404). -/
def execCorrectionCountRead (col : Nat) (s : State) : Host.Outcome State Fault Refusal :=
  .next <|
    if s.powered && decide (col < 32) then
      let pair (cls : Nat) : List Byte :=
        match s.platform.corrections.find? fun k => k.col = col && k.cls = cls with
        | some k => leBytes 4 k.corrected ++ leBytes 4 k.poisoned
        | none => List.replicate 8 0
      ({ s with platform := { s.platform with corrections := s.platform.corrections.filter (·.col ≠ col) } }).reply
        ((List.range 9).flatMap pair)
    else s

/-! ## Power and heat (R430, R431) -/

/-- POWER_CAP: a cap between the floor and 7.5 kW applies from the next window (R430). -/
def execPowerCap (milliwatts : Nat) (s : State) : Host.Outcome State Fault Refusal :=
  .next <|
    if s.powered && decide (s.platform.floor ≤ milliwatts) && decide (milliwatts ≤ 7500000) then
      { s with platform := { s.platform with nextCap := milliwatts } }
    else s

/-- POWER_WINDOW: a window of 1 ms ends with its measured power, issue cycles are withheld while it exceeds the cap, and the next window follows
at once (R430). -/
def execPowerWindow (milliwatts : Nat) (s : State) : Host.Outcome State Fault Refusal :=
  .next <|
    if s.powered && decide (s.platform.windowFrom + 1100000 ≤ s.now) then
      { s with platform := { s.platform with
          cap := s.platform.nextCap, exceeded := decide (s.platform.nextCap < milliwatts)
          windowFrom := s.platform.windowFrom + 1100000 } }
    else s

/-- THERMAL_THROTTLE: above 105 degrees a column is throttled, until it is below 100 (R431). -/
def execThermalThrottle (col celsius : Nat) (s : State) : Host.Outcome State Fault Refusal :=
  .next <|
    if 32 ≤ col then s
    else if 105 < celsius then
      { s with platform := { s.platform with throttled := col :: s.platform.throttled.filter (· ≠ col) } }
    else if celsius < 100 then { s with platform := { s.platform with throttled := s.platform.throttled.filter (· ≠ col) } }
    else s

/-- THERMAL_SHUTDOWN: at 115 degrees the device stops issuing and tells the baseboard controller, which is to remove power (R431). -/
def execThermalShutdown (col celsius : Nat) (s : State) : Host.Outcome State Fault Refusal :=
  .next <|
    if s.powered && col < 32 && decide (115 ≤ celsius) then
      { s with power := .halted, platform := { s.platform with alarms := s.platform.alarms ++ [col] } }
    else s

end Sys2Proof.Machine
end

