-- ==== Sys2Proof/Machine/Dispatch.lean ====
section
/-! DEFINITION. One arm for each instruction: the direct call of its meaning. -/

namespace Sys2Proof.Machine

def exec (i : Instr) (s : State) : Host.Outcome State Fault Refusal :=
  match i with
  | .add h o => Sys2Proof.Machine.execAdd h o s
  | .sub h o => Sys2Proof.Machine.execSub h o s
  | .addc h o => Sys2Proof.Machine.execAddc h o s
  | .subb h o => Sys2Proof.Machine.execSubb h o s
  | .mul h o => Sys2Proof.Machine.execMul h o s
  | .mulhi h o => Sys2Proof.Machine.execMulhi h o s
  | .mulw h o => Sys2Proof.Machine.execMulw h o s
  | .mad h o => Sys2Proof.Machine.execMad h o s
  | .madw h o => Sys2Proof.Machine.execMadw h o s
  | .add3 h o => Sys2Proof.Machine.execAdd3 h o s
  | .min h o => Sys2Proof.Machine.execMin h o s
  | .max h o => Sys2Proof.Machine.execMax h o s
  | .abs h o => Sys2Proof.Machine.execAbs h o s
  | .neg h o => Sys2Proof.Machine.execNeg h o s
  | .and h o => Sys2Proof.Machine.execAnd h o s
  | .or h o => Sys2Proof.Machine.execOr h o s
  | .xor h o => Sys2Proof.Machine.execXor h o s
  | .not h o => Sys2Proof.Machine.execNot h o s
  | .andn h o => Sys2Proof.Machine.execAndn h o s
  | .shl h o => Sys2Proof.Machine.execShl h o s
  | .shr h o => Sys2Proof.Machine.execShr h o s
  | .sar h o => Sys2Proof.Machine.execSar h o s
  | .rot h o => Sys2Proof.Machine.execRot h o s
  | .bfx h o => Sys2Proof.Machine.execBfx h o s
  | .bfi h o => Sys2Proof.Machine.execBfi h o s
  | .clz h o => Sys2Proof.Machine.execClz h o s
  | .popc h o => Sys2Proof.Machine.execPopc h o s
  | .brev h o => Sys2Proof.Machine.execBrev h o s
  | .bpick h o => Sys2Proof.Machine.execBpick h o s
  | .lea h o => Sys2Proof.Machine.execLea h o s
  | .dp4 h o => Sys2Proof.Machine.execDp4 h o s
  | .addi h o => Sys2Proof.Machine.execAddi h o s
  | .muli h o => Sys2Proof.Machine.execMuli h o s
  | .andi h o => Sys2Proof.Machine.execAndi h o s
  | .ori h o => Sys2Proof.Machine.execOri h o s
  | .xori h o => Sys2Proof.Machine.execXori h o s
  | .shli h o => Sys2Proof.Machine.execShli h o s
  | .shri h o => Sys2Proof.Machine.execShri h o s
  | .sari h o => Sys2Proof.Machine.execSari h o s
  | .cmpi h o => Sys2Proof.Machine.execCmpi h o s
  | .fadd h o => Sys2Proof.Machine.execFadd h o s
  | .fsub h o => Sys2Proof.Machine.execFsub h o s
  | .fmul h o => Sys2Proof.Machine.execFmul h o s
  | .ffma h o => Sys2Proof.Machine.execFfma h o s
  | .fmin h o => Sys2Proof.Machine.execFmin h o s
  | .fmax h o => Sys2Proof.Machine.execFmax h o s
  | .fdiv h o => Sys2Proof.Machine.execFdiv h o s
  | .fsqrt h o => Sys2Proof.Machine.execFsqrt h o s
  | .frcp h o => Sys2Proof.Machine.execFrcp h o s
  | .frsq h o => Sys2Proof.Machine.execFrsq h o s
  | .fexp2 h o => Sys2Proof.Machine.execFexp2 h o s
  | .flog2 h o => Sys2Proof.Machine.execFlog2 h o s
  | .fsinpi h o => Sys2Proof.Machine.execFsinpi h o s
  | .fcospi h o => Sys2Proof.Machine.execFcospi h o s
  | .ftanh h o => Sys2Proof.Machine.execFtanh h o s
  | .frnd h o => Sys2Proof.Machine.execFrnd h o s
  | .fscl h o => Sys2Proof.Machine.execFscl h o s
  | .fcmp h o => Sys2Proof.Machine.execFcmp h o s
  | .fclass h o => Sys2Proof.Machine.execFclass h o s
  | .hadd2 h o => Sys2Proof.Machine.execHadd2 h o s
  | .hmul2 h o => Sys2Proof.Machine.execHmul2 h o s
  | .hfma2 h o => Sys2Proof.Machine.execHfma2 h o s
  | .hmin2 h o => Sys2Proof.Machine.execHmin2 h o s
  | .hmax2 h o => Sys2Proof.Machine.execHmax2 h o s
  | .fdot2 h o => Sys2Proof.Machine.execFdot2 h o s
  | .fcvt h o => Sys2Proof.Machine.execFcvt h o s
  | .i2f h o => Sys2Proof.Machine.execI2f h o s
  | .f2i h o => Sys2Proof.Machine.execF2i h o s
  | .fpk h o => Sys2Proof.Machine.execFpk h o s
  | .fupk h o => Sys2Proof.Machine.execFupk h o s
  | .faddk h o => Sys2Proof.Machine.execFaddk h o s
  | .fmulk h o => Sys2Proof.Machine.execFmulk h o s
  | .mov h o => Sys2Proof.Machine.execMov h o s
  | .movk h o => Sys2Proof.Machine.execMovk h o s
  | .sel h o => Sys2Proof.Machine.execSel h o s
  | .cmp h o => Sys2Proof.Machine.execCmp h o s
  | .pand h o => Sys2Proof.Machine.execPand h o s
  | .por h o => Sys2Proof.Machine.execPor h o s
  | .pxor h o => Sys2Proof.Machine.execPxor h o s
  | .pnot h o => Sys2Proof.Machine.execPnot h o s
  | .prd h o => Sys2Proof.Machine.execPrd h o s
  | .pwr h o => Sys2Proof.Machine.execPwr h o s
  | .rds h o => Sys2Proof.Machine.execRds h o s
  | .wrs h o => Sys2Proof.Machine.execWrs h o s
  | .ddx h o => Sys2Proof.Machine.execDdx h o s
  | .ddy h o => Sys2Proof.Machine.execDdy h o s
  | .qswz h o => Sys2Proof.Machine.execQswz h o s
  | .ld h o => Sys2Proof.Machine.execLd h o s
  | .ldro h o => Sys2Proof.Machine.execLdro h o s
  | .ldw h o => Sys2Proof.Machine.execLdw h o s
  | .st h o => Sys2Proof.Machine.execSt h o s
  | .pref h o => Sys2Proof.Machine.execPref h o s
  | .fence h o => Sys2Proof.Machine.execFence h o s
  | .wbr h o => Sys2Proof.Machine.execWbr h o s
  | .invr h o => Sys2Proof.Machine.execInvr h o s
  | .atom h o => Sys2Proof.Machine.execAtom h o s
  | .cas h o => Sys2Proof.Machine.execCas h o s
  | .red h o => Sys2Proof.Machine.execRed h o s
  | .xadd h o => Sys2Proof.Machine.execXadd h o s
  | .xrd h o => Sys2Proof.Machine.execXrd h o s
  | .append h o => Sys2Proof.Machine.execAppend h o s
  | .seal h o => Sys2Proof.Machine.execSeal h o s
  | .inkfree h o => Sys2Proof.Machine.execInkfree h o s
  | .inkstat h o => Sys2Proof.Machine.execInkstat h o s
  | .tcom h o => Sys2Proof.Machine.execTcom h o s
  | .qpush h o => Sys2Proof.Machine.execQpush h o s
  | .qpop h o => Sys2Proof.Machine.execQpop h o s
  | .qtry h o => Sys2Proof.Machine.execQtry h o s
  | .barr h o => Sys2Proof.Machine.execBarr h o s
  | .bwait h o => Sys2Proof.Machine.execBwait h o s
  | .barrw h o => Sys2Proof.Machine.execBarrw h o s
  | .bcfg h o => Sys2Proof.Machine.execBcfg h o s
  | .mbarr h o => Sys2Proof.Machine.execMbarr h o s
  | .mbwait h o => Sys2Proof.Machine.execMbwait h o s
  | .cvarm h o => Sys2Proof.Machine.execCvarm h o s
  | .sign h o => Sys2Proof.Machine.execSign h o s
  | .spawn h o => Sys2Proof.Machine.execSpawn h o s
  | .exit h o => Sys2Proof.Machine.execExit h o s
  | .refill h o => Sys2Proof.Machine.execRefill h o s
  | .blkget h o => Sys2Proof.Machine.execBlkget h o s
  | .blkput h o => Sys2Proof.Machine.execBlkput h o s
  | .yield h o => Sys2Proof.Machine.execYield h o s
  | .nap h o => Sys2Proof.Machine.execNap h o s
  | .sbw h o => Sys2Proof.Machine.execSbw h o s
  | .sfld h o => Sys2Proof.Machine.execSfld h o s
  | .sfst h o => Sys2Proof.Machine.execSfst h o s
  | .sfatom h o => Sys2Proof.Machine.execSfatom h o s
  | .sffence h o => Sys2Proof.Machine.execSffence h o s
  | .tex h o => Sys2Proof.Machine.execTex h o s
  | .texg h o => Sys2Proof.Machine.execTexg h o s
  | .texq h o => Sys2Proof.Machine.execTexq h o s
  | .pemit h o => Sys2Proof.Machine.execPemit h o s
  | .pxout h o => Sys2Proof.Machine.execPxout h o s
  | .pxkill h o => Sys2Proof.Machine.execPxkill h o s
  | .pxord h o => Sys2Proof.Machine.execPxord h o s
  | .trace h o => Sys2Proof.Machine.execTrace h o s
  | .tcont h o => Sys2Proof.Machine.execTcont h o s
  | .neval h o => Sys2Proof.Machine.execNeval h o s
  | .nflush h o => Sys2Proof.Machine.execNflush h o s
  | .rstat h o => Sys2Proof.Machine.execRstat h o s
  | .mma h o => Sys2Proof.Machine.execMma h o s
  | .accz h o => Sys2Proof.Machine.execAccz h o s
  | .accld h o => Sys2Proof.Machine.execAccld h o s
  | .accst h o => Sys2Proof.Machine.execAccst h o s
  | .copy h o => Sys2Proof.Machine.execCopy h o s
  | .gred h o => Sys2Proof.Machine.execGred h o s
  | .bra h o => Sys2Proof.Machine.execBra h o s
  | .brx h o => Sys2Proof.Machine.execBrx h o s
  | .call h o => Sys2Proof.Machine.execCall h o s
  | .callx h o => Sys2Proof.Machine.execCallx h o s
  | .ret h o => Sys2Proof.Machine.execRet h o s
  | .trap h o => Sys2Proof.Machine.execTrap h o s
  | .tret h o => Sys2Proof.Machine.execTret h o s
  | .brk h o => Sys2Proof.Machine.execBrk h o s
  | .nop h o => Sys2Proof.Machine.execNop h o s
  | .tinfo h o => Sys2Proof.Machine.execTinfo h o s
  | .rdtime h o => Sys2Proof.Machine.execRdtime h o s
  | .rdctr h o => Sys2Proof.Machine.execRdctr h o s
  | .unlistedOpcodeIssue word => Sys2Proof.Machine.execUnlistedOpcodeIssue word s
  | .strokeFormation col core pen => Sys2Proof.Machine.execStrokeFormation col core pen s
  | .destinationWritten op => Sys2Proof.Machine.execDestinationWritten op s
  | .blockingInstructionComplete tid => Sys2Proof.Machine.execBlockingInstructionComplete tid s
  | .deferredFaultFound op => Sys2Proof.Machine.execDeferredFaultFound op s
  | .deferredFaultDelivery tid => Sys2Proof.Machine.execDeferredFaultDelivery tid s
  | .trapHandlerEntry tid => Sys2Proof.Machine.execTrapHandlerEntry tid s
  | .napExpiry tid => Sys2Proof.Machine.execNapExpiry tid s
  | .blkgetServed col core lane => Sys2Proof.Machine.execBlkgetServed col core lane s
  | .queueWaiterServed team q => Sys2Proof.Machine.execQueueWaiterServed team q s
  | .binTimerExpiry col core bin => Sys2Proof.Machine.execBinTimerExpiry col core bin s
  | .teamRetirement team => Sys2Proof.Machine.execTeamRetirement team s
  | .mmaCompletion eop => Sys2Proof.Machine.execMmaCompletion eop s
  | .accldCompletion eop => Sys2Proof.Machine.execAccldCompletion eop s
  | .accstCompletion eop => Sys2Proof.Machine.execAccstCompletion eop s
  | .engineFailure eop => Sys2Proof.Machine.execEngineFailure eop s
  | .matrixEngineHang col core => Sys2Proof.Machine.execMatrixEngineHang col core s
  | .gatherWindowExpiry tile => Sys2Proof.Machine.execGatherWindowExpiry tile s
  | .tileResultScatter tile => Sys2Proof.Machine.execTileResultScatter tile s
  | .traversalCompletion op drained => Sys2Proof.Machine.execTraversalCompletion op drained s
  | .copyChunkComplete eop chunk => Sys2Proof.Machine.execCopyChunkComplete eop chunk s
  | .copyCompletion eop => Sys2Proof.Machine.execCopyCompletion eop s
  | .copyChunkFailure eop chunk => Sys2Proof.Machine.execCopyChunkFailure eop chunk s
  | .copyReplay col value => Sys2Proof.Machine.execCopyReplay col value s
  | .copyCancel col value => Sys2Proof.Machine.execCopyCancel col value s
  | .gredCommandAccept cmd => Sys2Proof.Machine.execGredCommandAccept cmd s
  | .reduceSubcommand cmd unit => Sys2Proof.Machine.execReduceSubcommand cmd unit s
  | .reduceSegmentEnd unit => Sys2Proof.Machine.execReduceSegmentEnd unit s
  | .gredResultWrite cmd => Sys2Proof.Machine.execGredResultWrite cmd s
  | .gredCommandFailure cmd => Sys2Proof.Machine.execGredCommandFailure cmd s
  | .emptyLineTimeout op => Sys2Proof.Machine.execEmptyLineTimeout op s
  | .ldwTimeout op => Sys2Proof.Machine.execLdwTimeout op s
  | .appendRequestAtHome stamp => Sys2Proof.Machine.execAppendRequestAtHome stamp s
  | .appendDataPerformed op => Sys2Proof.Machine.execAppendDataPerformed op s
  | .appendDataLost op => Sys2Proof.Machine.execAppendDataLost op s
  | .sealRequestAtHome tid => Sys2Proof.Machine.execSealRequestAtHome tid s
  | .inkRetirement ctx region => Sys2Proof.Machine.execInkRetirement ctx region s
  | .retirementAcknowledgement ctx region col => Sys2Proof.Machine.execRetirementAcknowledgement ctx region col s
  | .replicaGrantRequest col ctx region page => Sys2Proof.Machine.execReplicaGrantRequest col ctx region page s
  | .replicaDrop col => Sys2Proof.Machine.execReplicaDrop col s
  | .replicaClear col ctx region => Sys2Proof.Machine.execReplicaClear col ctx region s
  | .inkRegionDestroy ctx region => Sys2Proof.Machine.execInkRegionDestroy ctx region s
  | .persistentRequest col core line => Sys2Proof.Machine.execPersistentRequest col core line s
  | .recall line => Sys2Proof.Machine.execRecall line s
  | .eviction col line => Sys2Proof.Machine.execEviction col line s
  | .pageFaultRecordDelayed token => Sys2Proof.Machine.execPageFaultRecordDelayed token s
  | .tfrespResolved col ctx token => Sys2Proof.Machine.execTfrespResolved col ctx token s
  | .tfrespUnresolvable col ctx token => Sys2Proof.Machine.execTfrespUnresolvable col ctx token s
  | .tinvctlCommand value => Sys2Proof.Machine.execTinvctlCommand value s
  | .tinvComplete => Sys2Proof.Machine.execTinvComplete s
  | .migrationEpochEnd col occupancy => Sys2Proof.Machine.execMigrationEpochEnd col occupancy s
  | .surfaceEntryValid ctx index entry => Sys2Proof.Machine.execSurfaceEntryValid ctx index entry s
  | .surfaceEntryInvalidate ctx index => Sys2Proof.Machine.execSurfaceEntryInvalidate ctx index s
  | .blotterSpill ctx index tile => Sys2Proof.Machine.execBlotterSpill ctx index tile s
  | .tileRefill ctx index tile => Sys2Proof.Machine.execTileRefill ctx index tile s
  | .setupAccept tid => Sys2Proof.Machine.execSetupAccept tid s
  | .primitiveForward launch team => Sys2Proof.Machine.execPrimitiveForward launch team s
  | .rasterize col queue => Sys2Proof.Machine.execRasterize col queue s
  | .nibUnitAct ticket => Sys2Proof.Machine.execNibUnitAct ticket s
  | .drawCompletion launch => Sys2Proof.Machine.execDrawCompletion launch s
  | .queueEnable q entry => Sys2Proof.Machine.execQueueEnable q entry s
  | .queueDisable q => Sys2Proof.Machine.execQueueDisable q s
  | .tailWrite who q value => Sys2Proof.Machine.execTailWrite who q value s
  | .recordExamine q => Sys2Proof.Machine.execRecordExamine q s
  | .waitEventMet q second => Sys2Proof.Machine.execWaitEventMet q second s
  | .launchDispatch q => Sys2Proof.Machine.execLaunchDispatch q s
  | .teamPlacement launch col core pens => Sys2Proof.Machine.execTeamPlacement launch col core pens s
  | .cohortPlacement launch => Sys2Proof.Machine.execCohortPlacement launch s
  | .preemption launch => Sys2Proof.Machine.execPreemption launch s
  | .weightload launch => Sys2Proof.Machine.execWeightload launch s
  | .launchCompletionSignal launch => Sys2Proof.Machine.execLaunchCompletionSignal launch s
  | .contextDestroy idx => Sys2Proof.Machine.execContextDestroy idx s
  | .hfrespResume ctx token => Sys2Proof.Machine.execHfrespResume ctx token s
  | .threadPark tid => Sys2Proof.Machine.execThreadPark tid s
  | .deadlineExpiry team => Sys2Proof.Machine.execDeadlineExpiry team s
  | .teamSave team => Sys2Proof.Machine.execTeamSave team s
  | .teamRestore team => Sys2Proof.Machine.execTeamRestore team s
  | .sliceEnd => Sys2Proof.Machine.execSliceEnd s
  | .ctrCommandDone => Sys2Proof.Machine.execCtrCommandDone s
  | .registerWrite who off value => Sys2Proof.Machine.execRegisterWrite who off value s
  | .faultRecordPostDelayed col => Sys2Proof.Machine.execFaultRecordPostDelayed col s
  | .cxlTimeout req => Sys2Proof.Machine.execCxlTimeout req s
  | .peerTimeout req => Sys2Proof.Machine.execPeerTimeout req s
  | .escalationRecordDelayed tid => Sys2Proof.Machine.execEscalationRecordDelayed tid s
  | .peerRoutesDownTimeout peer => Sys2Proof.Machine.execPeerRoutesDownTimeout peer s
  | .hfrespTerminateThread ctx token => Sys2Proof.Machine.execHfrespTerminateThread ctx token s
  | .hfrespTerminateLaunch ctx token => Sys2Proof.Machine.execHfrespTerminateLaunch ctx token s
  | .ctrcmdLoad value => Sys2Proof.Machine.execCtrcmdLoad value s
  | .ctrcmdStore value => Sys2Proof.Machine.execCtrcmdStore value s
  | .uncorrectableError site => Sys2Proof.Machine.execUncorrectableError site s
  | .patrolScrub col site bad => Sys2Proof.Machine.execPatrolScrub col site bad s
  | .coreControlError col core => Sys2Proof.Machine.execCoreControlError col core s
  | .columnControlError e => Sys2Proof.Machine.execColumnControlError e s
  | .hostAccess func addr r => Sys2Proof.Machine.execHostAccess func addr r s
  | .flitCrcFail e => Sys2Proof.Machine.execFlitCrcFail e s
  | .peerAccess peer addr r => Sys2Proof.Machine.execPeerAccess peer addr r s
  | .moduleReset => Sys2Proof.Machine.execModuleReset s
  | .imageWrite slot image => Sys2Proof.Machine.execImageWrite slot image s
  | .attestationRequest nonce => Sys2Proof.Machine.execAttestationRequest nonce s
  | .errorLogRead index => Sys2Proof.Machine.execErrorLogRead index s
  | .correctionCountRead col => Sys2Proof.Machine.execCorrectionCountRead col s
  | .powerCap milliwatts => Sys2Proof.Machine.execPowerCap milliwatts s
  | .powerWindow milliwatts => Sys2Proof.Machine.execPowerWindow milliwatts s
  | .thermalThrottle col celsius => Sys2Proof.Machine.execThermalThrottle col celsius s
  | .thermalShutdown col celsius => Sys2Proof.Machine.execThermalShutdown col celsius s
  | .powerRemoval => Sys2Proof.Machine.execPowerRemoval s
  | .peerRetirementRequest p len => Sys2Proof.Machine.execPeerRetirementRequest p len s
  | .inkpoolDisable col value => Sys2Proof.Machine.execInkpoolDisable col value s
  | .inkpoolEnable col value => Sys2Proof.Machine.execInkpoolEnable col value s
  | .matrixSelfTest col core sub pass => Sys2Proof.Machine.execMatrixSelfTest col core sub pass s
  | .contextCreate idx desc => Sys2Proof.Machine.execContextCreate idx desc s
  | .inkRegionCreate ctx region desc => Sys2Proof.Machine.execInkRegionCreate ctx region desc s
  | .contextFieldWrite idx desc => Sys2Proof.Machine.execContextFieldWrite idx desc s
  | .surfaceEntryClear ctx index entry => Sys2Proof.Machine.execSurfaceEntryClear ctx index entry s

end Sys2Proof.Machine
end

