-- ==== Sys2Proof/Machine/Schedule.lean ====
section
/-! DEFINITION. The order of the device's steps within a cycle: the events that may be due, the pens that issue, and the end of
a cycle (R11, R203, R207 to R217; notes/assumptions/2.md, notes/assumptions/4.md). An event named here that is not due changes
nothing when it is executed. -/

namespace Sys2Proof.Machine

/-- Events that come from outside the device, or that it may choose at any time: system software, the host, peers and the baseboard
controller, errors, and the caches' and the stores' own choices. -/
def arrives : Instr → Bool
  | .copyReplay _ _ | .copyCancel _ _ | .replicaGrantRequest _ _ _ _ | .replicaDrop _ | .replicaClear _ _ _ => true
  | .inkRegionDestroy _ _ | .inkRegionCreate _ _ _ | .inkpoolDisable _ _ | .inkpoolEnable _ _ => true
  | .persistentRequest _ _ _ | .recall _ | .eviction _ _ | .blotterSpill _ _ _ => true
  | .tfrespResolved _ _ _ | .tfrespUnresolvable _ _ _ | .tinvctlCommand _ | .ctrcmdLoad _ | .ctrcmdStore _ => true
  | .surfaceEntryValid _ _ _ | .surfaceEntryInvalidate _ _ | .surfaceEntryClear _ _ _ => true
  | .queueEnable _ _ | .queueDisable _ | .tailWrite (.func _) _ _ | .registerWrite (.func _) _ _ => true
  | .contextCreate _ _ | .contextDestroy _ | .contextFieldWrite _ _ => true
  | .hfrespResume _ _ | .hfrespTerminateThread _ _ | .hfrespTerminateLaunch _ _ => true
  | .uncorrectableError _ | .patrolScrub _ _ _ | .coreControlError _ _ | .columnControlError _ | .matrixSelfTest _ _ _ _ => true
  | .hostAccess _ _ _ | .flitCrcFail _ | .peerAccess _ _ _ | .peerRetirementRequest _ _ => true
  | .moduleReset | .imageWrite _ _ | .attestationRequest _ | .errorLogRead _ | .correctionCountRead _ => true
  | .retirementAcknowledgement _ _ c => decide (32 ≤ c)
  | .cxlTimeout _ | .peerTimeout _ | .powerCap _ | .thermalThrottle _ _ | .thermalShutdown _ _ | .powerRemoval => true
  | _ => false

/-- Events that a device whose boot found no valid image accepts (R425). -/
def inRecovery : Instr → Bool
  | .moduleReset | .imageWrite _ _ | .powerRemoval => true
  | _ => false

/-- Events that end a time without power (R6, R425). -/
def inDark : Instr → Bool
  | .moduleReset | .powerRemoval => true
  | _ => false

/-- The state that waits for the next events that arrive, of those that its power allows. -/
def State.await (s : State) (accepts : Instr → Bool) : State :=
  { s with agenda := (Config.arrivals s.fresh).filter fun i => arrives i && accepts i, fresh := s.fresh + 1 }

/-- The operation's result may land later than the cycle in which it could: its time is free. -/
def Op.mayWait (o : Op) : Bool :=
  match o.stage with
  | .ready _ _ => true
  | .failed _ _ _ _ => true
  | .appendRequest _ _ => true
  | .appendData _ _ _ => true
  | .traverse _ => true
  | .refused _ => true
  | .remote _ _ _ => false
  | .emptyLine _ _ _ => false
  | .watermark _ _ => false
  | .logged _ _ => false
  | .behind _ _ => false
  | .gather _ _ _ _ => false
  | .gredLogged _ _ => false
  | .texel _ => false
  | .arrival _ _ => false

/-- Events of operations in flight (R24, R123, R124, R132, R140, R186, R318, R361, R390, R392). -/
def Op.due (o : Op) : List Instr :=
  match o.stage with
  | .ready _ _ => [Instr.destinationWritten o.id]
  | .failed _ _ _ _ => [Instr.deferredFaultFound o.id]
  | .emptyLine _ _ _ => [Instr.emptyLineTimeout o.id]
  | .watermark _ _ => [Instr.ldwTimeout o.id]
  | .appendRequest _ _ => [Instr.appendRequestAtHome o.stroke]
  | .appendData _ _ _ => [Instr.appendDataLost o.id, Instr.appendDataPerformed o.id]
  | .traverse _ => [Instr.traversalCompletion o.id true]
  | .refused _ => [Instr.destinationWritten o.id]
  | .remote _ l _ => if regionOf l.pa = 3 then [Instr.peerTimeout o.id] else [Instr.cxlTimeout o.id, Instr.destinationWritten o.id]
  | .logged _ _ => []
  | .behind _ _ => []
  | .gather _ _ _ _ => []
  | .gredLogged _ ks => if ks.isEmpty then [Instr.destinationWritten o.id] else []
  | .texel _ => []
  | .arrival _ _ => [Instr.destinationWritten o.id]

/-- Events of a blocked thread. -/
def Thread.blockDue (th : Thread) : List Instr :=
  match th.block.map Block.wait with
  | none => []
  | some (.nap _) => [Instr.napExpiry th.id]
  | some (.setup _ _) => [Instr.setupAccept th.id]
  | some (.sealing _ false _) => [Instr.sealRequestAtHome th.id]
  | some _ => [Instr.blockingInstructionComplete th.id]

/-- An event with its place in the order of columns, cores, lanes and slots, put into a list in that order behind those of the same place. -/
def insertPlaced (e : Nat × Instr) : List (Nat × Instr) → List (Nat × Instr)
  | [] => [e]
  | f :: r => if e.1 < f.1 then e :: f :: r else f :: insertPlaced e r

/-- The number of a thread's place. -/
def placeKey (col core lane slot : Nat) : Nat := ((col * 128 + core) * 128 + lane) * 32 + slot

/-- The events that end waits of threads, and arrivals that waited for earlier accesses: those of one cycle come in lane order, which is the
order of their requests (R149, R150, R194, R216). -/
def State.laneDue (s : State) : List Instr :=
  let held := s.ops.filterMap fun o => match o.stage with
    | .arrival _ _ => some (placeKey o.col o.core o.lane o.place, Instr.destinationWritten o.id)
    | _ => none
  let waits := s.threads.flatMap fun t => t.blockDue.map fun i => (placeKey t.col t.core t.lane t.slot, i)
  ((waits ++ held).foldl (fun r e => insertPlaced e r) []).map (·.2)

/-- Other events of a thread (R164, R375, R378). -/
def State.threadDue (s : State) (th : Thread) : List Instr :=
  (if th.trap.isSome then [Instr.trapHandlerEntry th.id] else []) ++
    (if th.hold.isSome then [Instr.escalationRecordDelayed th.id] else []) ++
    (if s.parkDue th then [Instr.threadPark th.id] else []) ++
    (if th.pending.isEmpty then [] else [Instr.deferredFaultDelivery th.id])

/-- Events of a team and its queues (R149, R156, R378, R380). -/
def Team.due (t : Team) : List Instr :=
  ((List.range 16).filterMap fun q =>
    match t.queues.getD q none with
    | some r => if r.waiters.isEmpty then none else some (Instr.queueWaiterServed t.id q)
    | none => none) ++
    (if t.marked.isSome then [Instr.deadlineExpiry t.id, Instr.teamSave t.id] else []) ++ [Instr.teamRetirement t.id]

/-- Events of an engine operation: a copy's chunks that may run, then their failures, then its completion (R169, R310 to R314). Those of a
matrix engine wait while issue cycles are withheld from it (R430). -/
def State.engineDue (s : State) (e : EngOp) : List Instr :=
  if e.engine.isAcc && s.withheld e.col then []
  else
  match e.engine with
  | .accz _ _ => []
  | .accld _ _ _ => [Instr.engineFailure e.id, Instr.accldCompletion e.id]
  | .accst _ _ _ _ _ _ _ _ => [Instr.engineFailure e.id, Instr.accstCompletion e.id]
  | .mma _ => [Instr.engineFailure e.id, Instr.mmaCompletion e.id]
  | .copy j =>
    let next := ((List.range 16).map (j.cursor + ·)).filter (s.startable e.ctx j)
    next.map (Instr.copyChunkComplete e.id) ++ next.map (Instr.copyChunkFailure e.id) ++ [Instr.copyCompletion e.id]

/-- Events of a gather-reduce command (R201, R316, R318, R395). -/
def GredCmd.due (g : GredCmd) : List Instr :=
  if g.failRow.isSome then [Instr.gredCommandFailure g.id]
  else if !g.accepted then [Instr.gredCommandAccept g.id]
  else if !g.split then [Instr.reduceSubcommand g.id 0]
  else ((g.lines.map GredLine.unit).eraseDups.map fun u => Instr.reduceSubcommand g.id u) ++ [Instr.gredResultWrite g.id]

/-- Events of an ink region that is being freed; the acknowledgements of host dies and peers arrive (R368, R393). -/
def InkRegion.due (r : InkRegion) : List Instr :=
  if r.rstate ≠ 2 then []
  else if !r.retired then [Instr.inkRetirement r.ctx r.region]
  else (r.acks.filter (· < 32)).map fun c => Instr.retirementAcknowledgement r.ctx r.region c

/-- Events of a work queue (R326, R328, R334, R335). -/
def WorkQueue.due (w : WorkQueue) : List Instr :=
  if w.withdrawing || w.failing.isSome then [Instr.recordExamine w.idx]
  else match w.record with
  | none => if w.en && w.head ≠ w.tail then [Instr.recordExamine w.idx] else []
  | some _ => (if w.met1 then [] else [Instr.waitEventMet w.idx false]) ++ (if w.met2 then [] else [Instr.waitEventMet w.idx true])

/-- The first place in the package where a launch's next team may start (R337). -/
def State.firstPlace (s : State) (l : Launch) : Option Reserve :=
  (List.range 32).findSome? fun c => (placesOf c).find? (s.placeOpen l)

/-- Events of a launch (R268, R277, R336, R337, R339, R340). -/
def State.launchDue (s : State) (l : Launch) : List Instr :=
  (if l.kind = 3 && !l.done then [Instr.weightload l.id] else []) ++
    (if l.kind = 2 && !l.done then [Instr.drawCompletion l.id] else []) ++
    (if s.waiting l then
      (if 1 < l.cohort then [Instr.cohortPlacement l.id]
       else match s.firstPlace l with
        | some r => [Instr.teamPlacement l.id r.col r.core r.pens]
        | none => []) ++ [Instr.preemption l.id]
     else if s.sched.saved.any (·.team.launch = l.id) || !(s.quadColumns l).isEmpty then [Instr.preemption l.id]
     else []) ++ [Instr.launchCompletionSignal l.id]

/-- Events of the raster path (R180, R256 to R265); nib units wait while issue cycles are withheld from them (R430). -/
def State.rasterDue (s : State) : List Instr :=
  (s.raster.setups.map fun u => Instr.primitiveForward u.launch u.team) ++
    (((s.raster.inbound.filter fun q => !q.prims.isEmpty).map fun q => (q.col, q.queue)).eraseDups.map fun p => Instr.rasterize p.1 p.2) ++
    (s.raster.surfaces.flatMap fun f => f.spilled.map fun t => Instr.tileRefill f.ctx f.index t) ++
    (s.raster.tickets.filter fun t => !s.withheld t.col).map fun t => Instr.nibUnitAct t.id

/-- Cores with work for their matrix engine (R408). -/
def State.engineCores (s : State) : List (Nat × Nat) :=
  (((s.engines.ops.filter fun e => e.engine.isAcc).map fun e => (e.col, e.core)) ++ s.engines.tiles.map fun t => (t.col, t.core)).eraseDups

/-- Commands that software has started, records that wait for room, also those of held threads of saved teams, and the end of a window of
1 ms, whose power the spec does not state (R348, R349, R375, R413, R430, notes/assumptions/3.md). -/
def State.platformDue (s : State) : List Instr :=
  (if s.regs.tinvctl.getLsbD 63 then [Instr.tinvComplete] else []) ++
    (if s.platform.windowFrom + 1100000 ≤ s.now then [Instr.powerWindow (Config.freeValue (s.fresh + 1)).toNat] else []) ++
    (s.sched.saved.flatMap fun v => (v.threads.filter (·.hold.isSome)).map fun t => Instr.escalationRecordDelayed t.id) ++
    ((s.pageRecords.filter fun r => !r.posted).map fun r => Instr.pageFaultRecordDelayed r.token) ++
    ((s.heldRecords.map HeldRecord.col).eraseDups.map Instr.faultRecordPostDelayed) ++
    (s.peersDown.map fun p => Instr.peerRoutesDownTimeout p.1) ++
    ((s.contexts.filter fun c => c.desc.getLsbD 3).map fun c => Instr.contextDestroy c.idx)

/-- A result that could land in this cycle lands later. -/
def State.lands (s : State) (id : Nat) : Bool := s.now % (Config.latePeriod + 1) = 0 || !Config.late s.fresh id

/-- Migration at the end of an epoch, with a mean occupancy of the package that the spec does not state, and the ends of moves under way (R353,
R355, notes/assumptions/3.md). -/
def State.epochDue (s : State) : List Instr :=
  ((List.range 32).filter fun c =>
    (s.now % 1048576 = 0 && (s.migration c).ctl.getLsbD 63) || (!(s.migration c).moving.isEmpty && s.lands c)).map fun c =>
      Instr.migrationEpochEnd c ((Config.freeValue s.fresh).toNat % 256)

/-- Events of operations in flight; arrivals come with the waits of their lanes, and a traversal waits while issue cycles are withheld from its
column (R150, R430). -/
def State.opsDue (s : State) : List Instr :=
  (s.ops.filter fun o => (!o.mayWait || s.lands o.id) &&
    match o.stage with
    | .arrival _ _ => false
    | .traverse _ => !s.withheld o.col
    | _ => true).flatMap Op.due

/-- A virtual function is in play (R383). -/
def State.sliced (s : State) : Bool := s.sched.holder ≠ 0 || s.contexts.any fun c => c.live && c.func ≠ 0

/-- The deadlock rules, which hold in any cycle: of the lanes with `blkget` requests and of the teams (R221, R222). -/
def State.checkDeadlocks (s : State) : State :=
  let s := ((s.blkgets.map fun b => (b.col, b.core, b.lane)).eraseDups).foldl (fun s b => s.checkLane b.1 b.2.1 b.2.2) s
  (s.teams.map Team.id).foldl State.checkTeam s

/-- A pen put into a list by column, core and pen, so that the requests of one cycle come in lane order (R149, R150, R194). -/
def insertPen (p : Pen) : List Pen → List Pen
  | [] => [p]
  | q :: r =>
    let key (x : Pen) : Nat := (x.col * 128 + x.core) * 4 + x.pen
    if key q < key p then q :: insertPen p r else if p = q then q :: r else p :: q :: r

/-- The pens that hold threads, in order of appearance. -/
def State.busyPens (s : State) : List Pen := (s.threads.map fun t => (⟨t.col, t.core, t.lane / 32⟩ : Pen)).eraseDups

/-- The events that may be due in a cycle, in the order in which they are tried: a load of counters comes before anything is counted (R419),
and strokes are formed last. -/
def State.dueEvents (s : State) : List Instr :=
  (if s.regs.ctrcmd.getLsbD 63 then [Instr.ctrCommandDone] else []) ++ s.opsDue ++ s.laneDue ++ s.threads.flatMap s.threadDue ++
    (s.blkgets.map fun b => (b.col, b.core, b.lane)).eraseDups.map (fun b => Instr.blkgetServed b.1 b.2.1 b.2.2) ++
    (s.bins.map fun b => Instr.binTimerExpiry b.col b.core b.index) ++ s.engines.ops.flatMap s.engineDue ++
    (s.engineCores.map fun c => Instr.matrixEngineHang c.1 c.2) ++
    ((s.engines.tiles.filter fun t => !(t.dispatched && s.withheld t.col)).map fun t => if t.dispatched then Instr.tileResultScatter t.id else Instr.gatherWindowExpiry t.id) ++
    s.engines.greds.flatMap GredCmd.due ++ (s.engines.segments.map Instr.reduceSegmentEnd) ++ s.inks.flatMap InkRegion.due ++ s.rasterDue ++
    s.teams.flatMap Team.due ++ (s.sched.saved.map fun v => Instr.teamRestore v.team.id) ++ s.queues.flatMap WorkQueue.due ++
    (match s.nextQueue with | some w => [Instr.launchDispatch w.idx] | none => []) ++ s.sched.launches.flatMap s.launchDue ++
    (if s.sliced then [Instr.sliceEnd] else []) ++ s.platformDue ++ s.epochDue ++
    s.busyPens.map fun p => Instr.strokeFormation p.col p.core p.pen

/-- The end of a cycle: the deadlock rules act, strokes that are over leave their pens, the cycle is counted, the next begins, the
events that may be due in it are tried, and then the pens with strokes issue, those of a core in lane order (R203, R208, R211, R221,
R222, R416). -/
def State.endCycle (s : State) : State :=
  let s := s.checkDeadlocks.endStrokes
  let s := if s.regs.counters.isEmpty then s else (List.range 32).foldl (fun s c => s.count c 0x001 none 1) s.countFabric
  let t := { s.tickAges with now := s.now + 1, cur := none }
  { t with
    agenda := t.dueEvents ++ (Config.arrivals t.fresh).filter arrives
    fresh := t.fresh + 2
    pens := t.strokes.foldl (fun ps k => insertPen ⟨k.col, k.core, k.pen⟩ ps) [] }

/-- What the device does next: an instruction or event is executed in a state, or nothing but the state changes; `run` carries out a word. -/
def State.pick (run : Instr → State → State) (s : State) : (Instr × State) ⊕ State :=
  match s.agenda with
  | i :: r => .inl (i, { s with agenda := r })
  | [] =>
    match s.issuing, s.cur with
    | (n, tid) :: r, some c =>
      let t := { s with issuing := r, cur := some { c with tid := tid, stroke := n } }
      match s.thread? tid, c.clause.words[c.idx]? with
      | some th, some w => if th.issues s.now then .inl (decodeFields w, t) else .inr t
      | _, _ => .inr t
    | _ :: _, none => .inr { s with issuing := [] }
    | [], _ =>
      match s.pens with
      | p :: r => .inr (({ s with pens := r }).servePen run p)
      | [] => .inr s.endCycle

/-! ## A word placed where the next step issues it -/

/-- The class of a clause that may hold the instruction, and its TERM bit (R54 to R57). -/
def clauseFor (i : Instr) : Nat × Bool :=
  match i.opClass with
  | .alu => (0, false)
  | .terminator => (0, true)
  | .mem => (1, false)
  | .sfc => (2, false)
  | .net => (3, false)
  | .ray => (4, false)
  | .sync => (5, false)
  | .agrp => (6, false)

/-- The header of a clause of `n` words. -/
def headerFor (i : Instr) (n : Nat) : DWord :=
  BitVec.ofNat 64 (0xA * 2 ^ 60 + (n - 1) * 2 ^ 56 + (clauseFor i).1 * 2 ^ 53 + (if (clauseFor i).2 then 2 ^ 43 else 0))

/-- The address at which the placed clause lies, virtual and physical. -/
def placedAt : Nat := 0x20000

/-- The descriptor of the placed context: VALID, its page table and its rings. -/
def placedDesc : BitVec 1024 :=
  BitVec.ofNat 1024 (0x33000 * 2 ^ 512 + 0x32000 * 2 ^ 448 + 0x31000 * 2 ^ 384 + 0x10000 * 2 ^ 64 + 4 * 2 ^ 60 + 4 * 2 ^ 56 + 4 * 2 ^ 52 + 1)

/-- The page table that maps the placed clause: four tables and a leaf that is executable and writable (R342, R343). -/
def placedTable (m : Memory) : Memory :=
  let entry (at_ v : Nat) (m : Memory) : Memory := writeBytes m at_ (leBytes 8 v)
  entry 0x14010 0x20187 (entry 0x13000 0x14001 (entry 0x12000 0x13001 (entry 0x11000 0x12001 (entry 0x10000 0x11001 m))))

/-- The placed team: 32 threads on a pen, one of them resident. -/
def placedTeam : Team where
  id := 1
  ctx := 0
  launch := 0
  col := 0
  core := 0
  lanes := List.range 32
  kind := .compute
  index := 0
  size := 32
  shape := (32, 1, 1)
  grid := (0, 0, 0)
  extent := (1, 1, 1)
  ks := []
  barriers := List.replicate 16 ⟨0, 0, 0, false⟩
  queues := List.replicate 16 none
  converge := List.replicate 8 ⟨0, [], 0⟩
  scratchSize := 4096
  scratch := []
  scratchPoison := []
  item := 0
  itemEnd := 0
  acc := []
  accPoison := []
  emitted := []
  binTimer := 256
  stackBase := 0
  spillSize := 0
  stackStride := 0
  marked := none
  lineBufs := [[], [], [], []]
  accTiles := 0
  started := 0

/-- The words of the placed clause: the word, and what follows it where the word has SP set (R53, R72). -/
def placedWords (w : Nat) : List DWord :=
  if (headOf (BitVec.ofNat 64 w)).sp then [BitVec.ofNat 64 w, BitVec.ofNat 64 (w / 2 ^ 64)] else [BitVec.ofNat 64 w]

/-- A clause that holds a word, its context, team and thread, and the stroke that is about to issue it. -/
def State.place (s : State) (w : Nat) : State :=
  let ws := placedWords w
  let i := decodeFields (BitVec.ofNat 64 w)
  let at_ : DWord := BitVec.ofNat 64 placedAt
  let c : Clause := ⟨at_, headerFor i ws.length, ws⟩
  let bytes := leBytes 8 c.header.toNat ++ ws.flatMap fun x => leBytes 8 x.toNat
  let th : Thread := { placedTeam.newThread s.now 2 0 0 .compute 7 at_ with pc := at_ + 8, head := at_, tid := 0, tx := 0, ty := 0, tz := 0 }
  { s with
    power := .on
    nextId := max s.nextId 4
    mem := writeBytes (placedTable s.mem) placedAt bytes
    contexts := [⟨0, placedDesc⟩]
    teams := [placedTeam]
    threads := [th]
    strokes := []
    ops := []
    agenda := []
    issuing := [(3, 2)]
    pens := []
    cur := some { tid := 2, clause := c, idx := 0, stroke := 3, faulting := [], members := [2], pages := [] } }

end Sys2Proof.Machine
end

