-- ==== Sys2Proof/Machine/Step.lean ====
section
/-! DEFINITION. One step of the device, and the placing of a word where the next step issues it. -/

namespace Sys2Proof.Machine

/-- Carrying out a word, to see whether its issue stalls (R211, notes/assumptions/56.md). -/
def carryOut (i : Instr) (s : State) : State := after s (exec i s)

/-- One step of the device: what comes next in the cycle is done. Without power, and in recovery, no cycle passes and only the events
that such a device accepts act; after a shutdown the device only stops issuing (R6, R425, R431). -/
def step (s : State) : Host.Outcome State Fault Refusal :=
  match s.power, s.agenda with
  | .off, [] => .next (s.await inDark)
  | .off, i :: r => if inDark i then exec i { s with agenda := r } else .next { s with agenda := r }
  | .recovery, [] => .next (s.await inRecovery)
  | .recovery, i :: r => if inRecovery i then exec i { s with agenda := r } else .next { s with agenda := r }
  | .on, _ | .halted, _ =>
    match s.pick carryOut with
    | .inl (i, t) => exec i t
    | .inr t => .next t

/-- The state with an instruction placed so that the very next step issues it, in a clause of its own (notes/assumptions/8.md). -/
def State.withFetchWord (s : State) (nbits w : Nat) : State := s.place (w % 2 ^ (max nbits 64))

end Sys2Proof.Machine
end

