-- ==== Sys2Proof/Safety.lean ====
section
/-! DEFINITION. The terms in which statements are made: when a word issues with its own effect (R17, R21, R24, R66 to R70, R124,
R405), the states after the common kinds of instruction, what a frame leaves alone, and the invariant of every step. -/

namespace Sys2Proof.Machine

/-! ## A word that issues -/

/-- The issuing thread as its word finds it: the results that are ready are written, and it is not blocked (R66). -/
def Thread.atIssue (t : Thread) (now : Nat) : Thread := { t.settle now with block := none }

/-- The state in which a word's effect begins: its issue is counted, once for a word that waited at its issue before, and not for one that a
deferred fault keeps from issuing (R124, R416). -/
def State.atIssue (s : State) (t : Thread) (h : Head) (i : Instr) : State :=
  (if t.counted || s.deferredDue (t.atIssue s.now) i then s else s.countIssue (t.atIssue s.now) h i).setThread (t.atIssue s.now)

/-- A thread issues a word that meets none of the faults of R70 that hold of every word, is not where a deferred fault falls due
(R124), and whose guard passes (R21). -/
structure Issues (s : State) (c : Issue) (t : Thread) (h : Head) (i : Instr) : Prop where
  cur : s.cur = some c
  thread : s.thread? c.tid = some t
  notDue : (s.atIssue t h i).deferredDue (t.atIssue s.now) i = false
  legal : (s.atIssue t h i).decodeFault c (t.atIssue s.now) h i = none
  guard : (t.atIssue s.now).guard h = true
  sources : (s.atIssue t h i).sourceFault c (t.atIssue s.now) h i = none

/-- The state after a word whose whole effect is on its thread. -/
def State.becomes (s : State) (t : Thread) (h : Head) (i : Instr) (u : Thread) : State := (s.atIssue t h i).setThread u

/-- The state after a fixed-latency instruction: its results are ready `lat` cycles later and the thread goes on at the next word
(R66). -/
def State.afterFixed (s : State) (c : Issue) (t : Thread) (h : Head) (i : Instr) (lat : Nat) (ds : List Dest) : State :=
  s.becomes t h i (((t.atIssue s.now).launch s.now lat ds).advance c h s.now)

/-- The state after a variable-latency instruction that leases its destinations, with the values that will be written (R24, R68). -/
def State.afterLeased (s : State) (c : Issue) (t : Thread) (h : Head) (i : Instr) (dst : List Nat) (vs : List Word) : State :=
  leasingReady h dst vs (s.atIssue t h i) c (t.atIssue s.now)

/-- The state after a blocking instruction that is complete at once, with the results it wrote (R68). -/
def State.afterPut (s : State) (c : Issue) (t : Thread) (h : Head) (i : Instr) (ds : List Dest) : State :=
  s.becomes t h i (((t.atIssue s.now).put ds).advance c h s.now)

/-! ## Accesses with nothing in their way -/

/-- An access lies in the scratchpad of the thread's team, whole and aligned, with no lock on it and no earlier access of the thread
that it must follow (R120 to R123). -/
structure AtScratch (s : State) (u : Thread) (x : Access) (align : Nat) (tm : Team) : Prop where
  team : s.team? u.team = some tm
  window : inWindow x.va.toNat = true
  within : x.va.toNat + x.act.width ≤ windowBase + tm.scratchSize
  aligned : align ≠ 0 → x.va.toNat % align = 0
  unlocked : s.lockConflict u.team .scratch (x.va.toNat - windowBase) x.act.width x.act.writes = false
  follows : s.mustFollow u.id x = false

/-- An access lies on an ORDINARY page of the thread's own column in HBM, aligned, unlocked, unmarked, with no cached copy of its line,
no other reduction's tag and no other scope on record (R120 to R123, R137, R239). -/
structure AtColumn (s : State) (c : Issue) (u : Thread) (x : Access) (align : Nat) (l : Leaf) : Prop where
  form : canonical x.va = true
  outside : inWindow x.va.toNat = false
  aligned : align ≠ 0 → x.va.toNat % align = 0
  unlocked : s.lockConflict u.team .memory x.va.toNat x.act.width x.act.writes = false
  page : s.pageAt c u.ctx x.va.toNat = .ok l
  shared : l.share = 0
  owner : l.owner = u.col
  ordinary : l.cls = 0
  hbm : regionOf l.pa = 0
  writable : x.act.writes = true → l.w = true
  scope : ∀ r, s.scopeRecord u.ctx u.col (l.pa / 128) = some r → r = l.share
  tags : ∀ g, s.tagAt u.ctx (x.va.toNat / 32) = some g → ∀ aop aty b, x.act = .red aop aty b → g.aop = aop ∧ g.aty = aty
  follows : s.mustFollow u.id x = false
  copies : s.copy? u.col (l.pa / 128) = none
  owners : s.owner? (l.pa / 128) = none
  unmarked : s.poisoned l.pa x.act.width = false

/-- An access lies on an ORDINARY page of SHARE PACKAGE or SYSTEM in HBM, aligned, unlocked, with no other reduction's tag and no other
scope on record (R120 to R123, R137, R239). -/
structure AtShared (s : State) (c : Issue) (u : Thread) (x : Access) (align : Nat) (l : Leaf) : Prop where
  form : canonical x.va = true
  outside : inWindow x.va.toNat = false
  aligned : align ≠ 0 → x.va.toNat % align = 0
  unlocked : s.lockConflict u.team .memory x.va.toNat x.act.width x.act.writes = false
  page : s.pageAt c u.ctx x.va.toNat = .ok l
  shared : l.share = 1 ∨ l.share = 2
  ordinary : l.cls = 0
  hbm : regionOf l.pa = 0
  writable : x.act.writes = true → l.w = true
  scope : ∀ r, s.scopeRecord u.ctx u.col (l.pa / 128) = some r → r = l.share
  tags : ∀ g, s.tagAt u.ctx (x.va.toNat / 32) = some g → ∀ aop aty b, x.act = .red aop aty b → g.aop = aop ∧ g.aty = aty
  follows : s.mustFollow u.id x = false

/-- A word leaves alone everything of its thread but its registers, predicates, flights and place in the program: the special
registers, the trap registers, the allotment, the return stack and the thread's identity. -/
structure Thread.Keeps (t u : Thread) : Prop where
  identity : (u.id, u.ctx, u.team, u.kind, u.col, u.core, u.lane, u.slot) = (t.id, t.ctx, t.team, t.kind, t.col, t.core, t.lane, t.slot)
  allot : u.allot = t.allot
  stack : (u.stack, u.spills, u.window, u.spillSize) = (t.stack, t.spills, t.window, t.spillSize)
  values : (u.tid, u.tx, u.ty, u.tz, u.quad, u.helper, u.px, u.py, u.prim, u.seq, u.nbin, u.item) =
    (t.tid, t.tx, t.ty, t.tz, t.quad, t.helper, t.px, t.py, t.prim, t.seq, t.nbin, t.item)
  traps : (u.trapPc, u.trapHead, u.trapAddr, u.trapInfo, u.inHandler, u.trap, u.pending, u.hold) =
    (t.trapPc, t.trapHead, t.trapAddr, t.trapInfo, t.inHandler, t.trap, t.pending, t.hold)

end Sys2Proof.Machine
end

