-- ==== Sys2Proof/Certificates/Slice0/Obligations.lean ====
section
/-! DEFINITION. The statements about the model: what instructions and events do, where they complete, what they leave alone, that
encoding and decoding agree, and what every step keeps. Each is a proposition; its docstring names the rules it rests on. -/

open Sys2Proof Sys2Proof.Machine

/-! ## Integer results (R31, R82 to R93) -/

/-- R82, R31: each integer arithmetic instruction completes; its result holds, extended to the register, an integer of the type
that is the exact result clamped (SAT) or congruent to it modulo 2^w, 4 cycles later. -/
def Obligations.IntegerResultsExactOrClamped : Prop :=
  ∀ (h : Head) (o : RRR) (s : State) (c : Issue) (t : Thread),
    let src (r : BitVec 8) : Int := tyRead o.ty (srcTyped s (t.atIssue s.now) o.ty r)
    let writes (i : Instr) (sat : Bool) (x : Int) : Prop := Issues s c t h i →
      ∃ v : DWord, exec i s = .next (s.afterFixed c t h i 4 (dstTyped o.ty o.d v)) ∧ v = BitVec.ofInt 64 (tyRead o.ty v) ∧
        (sat = true → tyRead o.ty v = max (tyMin o.ty) (min (tyMax o.ty) x)) ∧
        (sat = false → ((2 ^ tyWidth o.ty : Nat) : Int) ∣ tyRead o.ty v - x)
    let sat := o.mod.getLsbD 4
    writes (.add h o) sat (src o.a + src o.b) ∧ writes (.sub h o) sat (src o.a - src o.b) ∧
    writes (.add3 h o) sat (src o.a + src o.b + src o.c) ∧ writes (.mul h o) false (src o.a * src o.b) ∧
    writes (.mulhi h o) false (src o.a * src o.b / 2 ^ tyWidth o.ty) ∧ writes (.mad h o) false (src o.a * src o.b + src o.c) ∧
    writes (.min h o) false (min (src o.a) (src o.b)) ∧ writes (.max h o) false (max (src o.a) (src o.b)) ∧
    writes (.abs h o) sat |src o.a| ∧ writes (.neg h o) sat (-src o.a)

/-- R83, R84: the widening products complete with a 64-bit result modulo 2^64, and the carry operations with a word modulo 2^32
and the carry or borrow in the predicate that CO names. -/
def Obligations.WideProductsAndCarriesExact : Prop :=
  ∀ (h : Head) (o : RRR) (s : State) (c : Issue) (t : Thread),
    let u := t.atIssue s.now
    let int (r : BitVec 8) : Int := if o.ty = 0 then (srcWord s u r).toInt else (srcWord s u r).toNat
    let nat (r : BitVec 8) : Nat := (srcWord s u r).toNat
    let ci : Nat := if u.pred (o.mod.extractLsb' 3 3).toNat = o.mod.getLsbD 6 then 0 else 1
    let co : BitVec 8 := (o.mod.extractLsb' 0 3).zeroExtend 8
    (Issues s c t h (.mulw h o) → ∃ v : DWord, exec (.mulw h o) s = .next (s.afterFixed c t h (.mulw h o) 4 (dstPair o.d v)) ∧
      (2 ^ 64 : Int) ∣ v.toNat - int o.a * int o.b) ∧
    (Issues s c t h (.madw h o) → ∃ v : DWord, exec (.madw h o) s = .next (s.afterFixed c t h (.madw h o) 4 (dstPair o.d v)) ∧
      (2 ^ 64 : Int) ∣ v.toNat - (int o.a * int o.b + (srcPair s u o.c).toNat)) ∧
    (Issues s c t h (.addc h o) → ∃ v : Word, exec (.addc h o) s =
      .next (s.afterFixed c t h (.addc h o) 4 (dstWord o.d v ++ dstPred co (decide (2 ^ 32 ≤ nat o.a + nat o.b + ci)))) ∧
      v.toNat = (nat o.a + nat o.b + ci) % 2 ^ 32) ∧
    (Issues s c t h (.subb h o) → ∃ v : Word, exec (.subb h o) s =
      .next (s.afterFixed c t h (.subb h o) 4 (dstWord o.d v ++ dstPred co (decide (nat o.a < nat o.b + ci)))) ∧
      (2 ^ 32 : Int) ∣ v.toNat - ((nat o.a : Int) - nat o.b - ci))

/-- R85 to R88: the logical operations, shifts, field extraction and insertion, the counts and the reversal complete; each result bit
below the type's width, or the count, is what the tables give. -/
def Obligations.BitResultsAsTabled : Prop :=
  (∀ (h : Head) (o : RRR) (s : State) (c : Issue) (t : Thread),
     let u := t.atIssue s.now
     let a := srcTyped s u o.ty o.a
     let b := srcTyped s u o.ty o.b
     let n := (srcWord s u o.b).toNat
     let w := tyWidth o.ty
     let writes (i : Instr) (bit : Nat → Bool) : Prop := Issues s c t h i →
       ∃ v : DWord, exec i s = .next (s.afterFixed c t h i 4 (dstTyped o.ty o.d v)) ∧ ∀ j < w, v.getLsbD j = bit j
     writes (.and h o) (fun j => a.getLsbD j && b.getLsbD j) ∧ writes (.or h o) (fun j => a.getLsbD j || b.getLsbD j) ∧
     writes (.xor h o) (fun j => a.getLsbD j != b.getLsbD j) ∧ writes (.not h o) (fun j => !a.getLsbD j) ∧
     writes (.andn h o) (fun j => a.getLsbD j && !b.getLsbD j) ∧
     writes (.shl h o) (fun j => decide (n ≤ j) && a.getLsbD (j - n)) ∧
     writes (.shr h o) (fun j => decide (j + n < w) && a.getLsbD (j + n)) ∧
     writes (.sar h o) (fun j => a.getLsbD (min (j + n) (w - 1))) ∧
     writes (.rot h o) (fun j => a.getLsbD ((j + (w - n % w)) % w))) ∧
  (∀ (h : Head) (o : RRR) (s : State) (c : Issue) (t : Thread),
     let u := t.atIssue s.now
     let a := srcTyped s u o.ty o.a
     let f := srcWord s u o.b
     let w := tyWidth o.ty
     let pos := f.toNat % 256
     let len := f.toNat / 256 % 256
     let writes (i : Instr) (bit : Nat → Bool) : Prop := Issues s c t h i →
       ∃ v : DWord, exec i s = .next (s.afterFixed c t h i 4 (dstTyped o.ty o.d v)) ∧ ∀ j < w, v.getLsbD j = bit j
     let taken (j : Nat) : Bool := decide (pos + j < w) && a.getLsbD (pos + j)
     writes (.bfx h o) (fun j =>
       decide (0 < len ∧ pos < w) && (if j < len then taken j else o.mod.getLsbD 0 && decide (len ≤ w) && taken (len - 1))) ∧
     writes (.bfi h o) (fun j =>
       if pos ≤ j ∧ j < pos + len then a.getLsbD (j - pos) else (srcTyped s u o.ty o.c).getLsbD j) ∧
     writes (.brev h o) (fun j => a.getLsbD (w - 1 - j)) ∧
     (Issues s c t h (.popc h o) → exec (.popc h o) s = .next (s.afterFixed c t h (.popc h o) 4
       (dstWord o.d (BitVec.ofNat 32 ((List.range w).countP fun j => a.getLsbD j))))) ∧
     (Issues s c t h (.clz h o) → ∃ k ≤ w, exec (.clz h o) s = .next (s.afterFixed c t h (.clz h o) 4 (dstWord o.d (BitVec.ofNat 32 k))) ∧
       (∀ j < w, w - k ≤ j → a.getLsbD j = false) ∧ (k < w → a.getLsbD (w - 1 - k) = true)))

/-- R89 to R91: the byte pick, the scaled address and the four-byte dot product complete, with the results of their rules. R92, R93: the
immediate forms and the compares complete with the results of their tables. -/
def Obligations.PicksImmediatesComparesResults : Prop :=
  (∀ (h : Head) (o : RRR) (s : State) (c : Issue) (t : Thread),
     let u := t.atIssue s.now
     let a := srcWord s u o.a
     let b := srcWord s u o.b
     let cc := srcWord s u o.c
     let byte (v : Word) (k : Nat) : Byte := v.extractLsb' (8 * k) 8
     let signed (x : Byte) : Int := if o.ty = 6 then x.toInt else x.toNat
     let dot : Int := cc.toInt + ((List.range 4).map fun k => signed (byte a k) * signed (byte b k)).sum
     (Issues s c t h (.bpick h o) → ∃ v : Word, exec (.bpick h o) s = .next (s.afterFixed c t h (.bpick h o) 4 (dstWord o.d v)) ∧
       ∀ k < 4,
         let ctl := byte cc k
         let src := (ctl.extractLsb' 0 3).toNat
         let x := if src < 4 then byte a src else byte b (src - 4)
         let y (j : Nat) : Bool := if ctl.getLsbD 5 then x.getLsbD (7 - j) else x.getLsbD j
         ∀ j < 8, (byte v k).getLsbD j = match (ctl.extractLsb' 3 2).toNat with
           | 0 => y j
           | 1 => false
           | 2 => true
           | _ => y 7) ∧
     (Issues s c t h (.lea h o) → exec (.lea h o) s = .next (s.afterFixed c t h (.lea h o) 4 (dstPair o.d
       (srcPair s u o.a + (if o.mod.getLsbD 3 then b.zeroExtend 64 else b.signExtend 64) <<< (o.mod.extractLsb' 0 3).toNat)))) ∧
     (Issues s c t h (.dp4 h o) → ∃ v : Word, exec (.dp4 h o) s = .next (s.afterFixed c t h (.dp4 h o) 4 (dstWord o.d v)) ∧
       (o.mod.getLsbD 4 = true → v.toInt = max (-2 ^ 31) (min (2 ^ 31 - 1) dot)) ∧
       (o.mod.getLsbD 4 = false → (2 ^ 32 : Int) ∣ v.toInt - dot))) ∧
  (∀ (h : Head) (o : RI) (q : RRR) (s : State) (c : Issue) (t : Thread),
     let u := t.atIssue s.now
     let a := srcWord s u o.a
     let imm : Word := o.imm.signExtend 32
     let writes (i : Instr) (v : Word) : Prop := Issues s c t h i → exec i s = .next (s.afterFixed c t h i 4 (dstWord o.d v))
     let holds (cond : Nat) (x y : Int) : Bool :=
       (cond = 0 && decide (x = y)) || (cond = 1 && decide (x ≠ y)) || (cond = 2 && decide (x < y)) || (cond = 3 && decide (x ≤ y)) ||
         (cond = 4 && decide (y < x)) || (cond = 5 && decide (y ≤ x))
     let k : BitVec 23 := o.imm.extractLsb' 0 23
     let x := tyRead q.ty (srcTyped s u q.ty q.a)
     let y := tyRead q.ty (srcTyped s u q.ty q.b)
     let p := u.pred q.c.toNat
     let met := holds (q.mod.extractLsb' 0 4).toNat x y
     writes (.addi h o) (a + imm) ∧ writes (.muli h o) (a * imm) ∧ writes (.andi h o) (a &&& imm) ∧ writes (.ori h o) (a ||| imm) ∧
     writes (.xori h o) (a ^^^ imm) ∧ writes (.shli h o) (a <<< o.imm.toNat) ∧ writes (.shri h o) (a >>> o.imm.toNat) ∧
     writes (.sari h o) (a.sshiftRight o.imm.toNat) ∧
     (Issues s c t h (.cmpi h o) → exec (.cmpi h o) s = .next (s.afterFixed c t h (.cmpi h o) 4
       (dstPred o.d (holds (o.imm.extractLsb' 23 3).toNat (if o.imm.getLsbD 26 then (a.toNat : Int) else a.toInt)
         (if o.imm.getLsbD 26 then (k.toNat : Int) else k.toInt))))) ∧
     (Issues s c t h (.cmp h q) → exec (.cmp h q) s = .next (s.afterFixed c t h (.cmp h q) 4
       (dstPred q.d (if q.mod.extractLsb' 5 2 = 0 then met && p else if q.mod.extractLsb' 5 2 = 1 then met || p else met != p)))))

/-! ## Floating results (R95 to R107) -/

/-- R95 to R97: the binary32 instructions complete: the sources with their modifiers, the exact value rounded once in the mode RND, and
the clamp of SAT; 5 cycles later for those of fixed latency, in a leased destination for those of variable latency. -/
def Obligations.FloatResultsRoundedOnce : Prop :=
  (∀ (h : Head) (o : RRR) (s : State) (c : Issue) (t : Thread),
     let u := t.atIssue s.now
     let src (r : BitVec 8) (negate absolute : Bool) : Nat := modCode .f32 absolute negate (srcWord s u r).toNat
     let clamped (x : Nat) : Word := BitVec.ofNat 32 (if o.mod.getLsbD 4 then satUnit .f32 x else x)
     let rnd := (o.mod.extractLsb' 5 2).toNat
     let writes (i : Instr) (x : Nat) : Prop := Issues s c t h i →
       exec i s = .next (s.afterFixed c t h i 5 (dstWord o.d (clamped x)))
     let a := src o.a (o.mod.getLsbD 3) (o.mod.getLsbD 1)
     let b := src o.b (o.mod.getLsbD 2) (o.mod.getLsbD 0)
     let val (x : Nat) : Val := unpack .f32 x
     writes (.fadd h o) (roundVal .f32 rnd (sumVals rnd [val a, val b])) ∧
     writes (.fsub h o) (roundVal .f32 rnd (sumVals rnd [val a, (val b).neg])) ∧
     writes (.fmul h o) (roundVal .f32 rnd ((val a).mul (val b))) ∧
     writes (.ffma h o) (roundVal .f32 rnd (sumVals rnd
       [(val (src o.a (o.mod.getLsbD 3) false)).mul (val (src o.b (o.mod.getLsbD 2) false)), val (src o.c (o.mod.getLsbD 1) false)])) ∧
     writes (.fmin h o) (minMax .f32 false a b) ∧ writes (.fmax h o) (minMax .f32 true a b) ∧
     writes (.frnd h o) (roundVal .f32 rnd (roundIntegral rnd (val a))) ∧
     writes (.fscl h o) (scaleCode rnd a (srcWord s u o.b).toInt)) ∧
  (∀ (h : Head) (o : RRR) (s : State) (c : Issue) (t : Thread),
     let u := t.atIssue s.now
     let src (r : BitVec 8) (negate absolute : Bool) : Nat := modCode .f32 absolute negate (srcWord s u r).toNat
     let clamped (x : Nat) : Word := BitVec.ofNat 32 (if o.mod.getLsbD 4 then satUnit .f32 x else x)
     let rnd := (o.mod.extractLsb' 5 2).toNat
     let writes (i : Instr) (x : Nat) : Prop := Issues s c t h i →
       exec i s = .next (s.afterLeased c t h i (wordRegs o.d) [clamped x])
     let a := src o.a (o.mod.getLsbD 3) (o.mod.getLsbD 1)
     let b := src o.b (o.mod.getLsbD 2) (o.mod.getLsbD 0)
     writes (.fdiv h o) (divRound .f32 rnd (unpack .f32 a) (unpack .f32 b)) ∧ writes (.fsqrt h o) (sqrtCode rnd a) ∧
     writes (.frcp h o) (divRound .f32 rnd (.fin false 1 0) (unpack .f32 a)) ∧ writes (.frsq h o) (rsqrtCode rnd a) ∧
     writes (.fexp2 h o) (exp2Round rnd (unpack .f32 a)) ∧ writes (.flog2 h o) (log2Round rnd (unpack .f32 a)) ∧
     writes (.fsinpi h o) (sinpiRound rnd (unpack .f32 a)) ∧ writes (.fcospi h o) (cospiRound rnd (unpack .f32 a)) ∧
     writes (.ftanh h o) (tanhRound rnd (unpack .f32 a)))

/-- R98 to R100, R104 to R107: the compare, the class word, the conversions and the immediate forms complete with the results of
their rules. -/
def Obligations.FloatComparesAndConversions : Prop :=
  ∀ (h : Head) (o : RRR) (k : KF) (s : State) (c : Issue) (t : Thread),
    let u := t.atIssue s.now
    let val (r : BitVec 8) : Val := unpack .f32 (srcWord s u r).toNat
    let f := fmtOf o.ty.toNat
    let rnd := (o.mod.extractLsb' 5 2).toNat
    let sel := (o.mod.extractLsb' 0 3).toNat
    let cs := o.mod.getLsbD 4
    let p := u.pred o.c.toNat
    let met := floatCond (o.mod.extractLsb' 0 4).toNat (val o.a) (val o.b)
    let writes (i : Instr) (ds : List Dest) : Prop := Issues s c t h i → exec i s = .next (s.afterFixed c t h i 5 ds)
    let imm (x : Nat) : Word := BitVec.ofNat 32 (if k.km.getLsbD 2 then satUnit .f32 x else x)
    let own := unpack .f32 (srcWord s u k.d).toNat
    let mode := (k.km.extractLsb' 0 2).toNat
    writes (.fcmp h o) (dstPred o.d
      (if o.mod.extractLsb' 5 2 = 0 then met && p else if o.mod.extractLsb' 5 2 = 1 then met || p else met != p)) ∧
    writes (.fclass h o) (dstWord o.d (BitVec.ofNat 32 (2 ^ classBit f (srcWord s u o.a).toNat))) ∧
    writes (.fcvt h o) (dstWord o.d (BitVec.ofNat 32 (convert f rnd cs (val o.a)))) ∧
    writes (.i2f h o) (dstWord o.d (BitVec.ofNat 32 (roundVal .f32 rnd (ofInt (tyRead o.ty (srcTyped s u o.ty o.a)))))) ∧
    writes (.f2i h o) (dstTyped o.ty o.d (tyWrite o.ty (toInt o.ty rnd (val o.a)))) ∧
    writes (.fpk h o) (dstWord o.d (packPair f.bits sel (srcWord s u o.c) (convert f rnd cs (val o.a)) (convert f rnd cs (val o.b)))) ∧
    writes (.fupk h o) (dstWord o.d (BitVec.ofNat 32 (roundVal .f32 0 (unpack f ((srcWord s u o.a) >>> (sel * f.bits)).toNat)))) ∧
    writes (.faddk h k) (dstWord k.d (imm (roundVal .f32 mode (sumVals mode [own, unpack .f32 k.imm.toNat])))) ∧
    writes (.fmulk h k) (dstWord k.d (imm (roundVal .f32 mode (own.mul (unpack .f32 k.imm.toNat)))))

/-- R101, R102: the packed half operations complete: each half of the result is the scalar result of the halves, and `fdot2` rounds
the exact two-element sum once. -/
def Obligations.PackedHalvesAreScalarPerHalf : Prop :=
  ∀ (h : Head) (o : RRR) (s : State) (c : Issue) (t : Thread),
    let u := t.atIssue s.now
    let f := fmtOf o.ty.toNat
    let rnd := (o.mod.extractLsb' 5 2).toNat
    let half (r : BitVec 8) (k : Nat) : Nat := ((srcHalves s u f r).extractLsb' (16 * k) 16).toNat
    let clamped (g : Fmt) (x : Nat) : Nat := if o.mod.getLsbD 4 then satUnit g x else x
    let a (k : Nat) : Nat := modCode f (o.mod.getLsbD 1) (o.mod.getLsbD 3) (half o.a k)
    let b (k : Nat) : Nat := modCode f (o.mod.getLsbD 0) (o.mod.getLsbD 2) (half o.b k)
    let plain (r : BitVec 8) (n : Bool) (k : Nat) : Val := unpack f (modCode f false n (half r k))
    let writes (i : Instr) (x : Nat → Nat) : Prop := Issues s c t h i →
      ∃ v : Word, exec i s = .next (s.afterFixed c t h i 5 (dstWord o.d v)) ∧
        ∀ k < 2, (v.extractLsb' (16 * k) 16).toNat = clamped f (x k) % 2 ^ 16
    writes (.hadd2 h o) (fun k => roundVal f rnd (sumVals rnd [unpack f (a k), unpack f (b k)])) ∧
    writes (.hmul2 h o) (fun k => roundVal f rnd ((unpack f (a k)).mul (unpack f (b k)))) ∧
    writes (.hfma2 h o) (fun k => roundVal f rnd (sumVals rnd
      [(plain o.a (o.mod.getLsbD 3) k).mul (plain o.b (o.mod.getLsbD 2) k), plain o.c (o.mod.getLsbD 1) k])) ∧
    writes (.hmin2 h o) (fun k => minMax f false (a k) (b k)) ∧ writes (.hmax2 h o) (fun k => minMax f true (a k) (b k)) ∧
    (Issues s c t h (.fdot2 h o) → exec (.fdot2 h o) s = .next (s.afterFixed c t h (.fdot2 h o) 5 (dstWord o.d (BitVec.ofNat 32
      (clamped .f32 (dot2Code f rnd (negHalves (o.mod.getLsbD 3) (srcHalves s u f o.a))
        (negHalves (o.mod.getLsbD 2) (srcHalves s u f o.b)) (modCode .f32 false (o.mod.getLsbD 1) (srcWord s u o.c).toNat)))))))

/-! ## Moves, predicates, special registers and quads (R94, R108 to R118) -/

/-- R94, R108 to R112: moves, constants, selection and the predicate instructions complete with the results of their rules, and `nop`
changes nothing but the issue. -/
def Obligations.MovesAndPredicatesWriteTheirValue : Prop :=
  ∀ (h : Head) (o : RRR) (k : KF) (x : XF) (s : State) (c : Issue) (t : Thread),
    let u := t.atIssue s.now
    let writes (i : Instr) (ds : List Dest) : Prop := Issues s c t h i → exec i s = .next (s.afterFixed c t h i 4 ds)
    let a := u.pred o.a.toNat != o.mod.getLsbD 3
    let b := u.pred o.b.toNat != o.mod.getLsbD 2
    let mask := srcWord s u o.b
    writes (.mov h o) (dstTyped o.ty o.d (srcTyped s u o.ty o.a)) ∧
    (k.km = 0 → writes (.movk h k) (dstWord k.d k.imm)) ∧
    (k.km = 1 → writes (.movk h k) (dstPair k.d (k.imm.signExtend 64))) ∧
    (k.km = 2 → writes (.movk h k) (dstPair k.d (k.imm.zeroExtend 64))) ∧
    (k.km = 3 → isReg k.d = true → writes (.movk h k) [.reg (k.d.toNat + 1) k.imm]) ∧
    (k.km = 3 → isReg k.d = false → writes (.movk h k) []) ∧
    writes (.sel h o) (dstTyped o.ty o.d (if (u.pred o.c.toNat != o.mod.getLsbD 0) then srcTyped s u o.ty o.a else srcTyped s u o.ty o.b)) ∧
    writes (.pand h o) (dstPred o.d (a && b)) ∧ writes (.por h o) (dstPred o.d (a || b)) ∧
    writes (.pxor h o) (dstPred o.d (a != b)) ∧ writes (.pnot h o) (dstPred o.d (!u.pred o.a.toNat)) ∧
    (Issues s c t h (.prd h o) → ∃ v : Word, exec (.prd h o) s = .next (s.afterFixed c t h (.prd h o) 4 (dstWord o.d v)) ∧
      ∀ j < 32, v.getLsbD j = (decide (j < 8) && u.pred j)) ∧
    writes (.pwr h o) (((List.range 7).filter fun j => mask.getLsbD j).map fun j => .pred j ((srcWord s u o.a).getLsbD j)) ∧
    writes (.nop h x) []

/-- R113, R114: `rds` completes with the special register that FN selects, as it stands at the issue, and `wrs` completes with the
team's item counter written. -/
def Obligations.SpecialRegistersReadAndWrite : Prop :=
  ∀ (h : Head) (o : XF) (s : State) (c : Issue) (t : Thread),
    let u := t.atIssue s.now
    let reads (fn : BitVec 11) (v : Word) : Prop := o.fn = fn → Issues s c t h (.rds h o) →
      exec (.rds h o) s = .next (s.afterFixed c t h (.rds h o) 4 (dstWord o.d v))
    let a := srcWord s u o.a
    let set (tm : Team) : Prop := Issues s c t h (.wrs h o) →
      exec (.wrs h o) s = .next (((s.atIssue t h (.wrs h o)).setTeam tm).setThread (u.advance c h s.now))
    reads 0x000 (c.clause.head.extractLsb' 0 32) ∧ reads 0x001 (c.clause.head.extractLsb' 32 32) ∧
    reads 0x002 (BitVec.ofNat 32 u.allot) ∧ reads 0x003 (BitVec.ofNat 32 (u.spills * 2 ^ 16 + u.stack.length)) ∧
    (o.fn = 0x004 → Issues s c t h (.rds h o) → ∃ v : Word,
      exec (.rds h o) s = .next (s.afterFixed c t h (.rds h o) 4 (dstWord o.d v)) ∧
      ∀ j < 32, v.getLsbD j = (decide (j < 8) && (s.atIssue t h (.rds h o)).slotSet u.id j)) ∧
    reads 0x005 (BitVec.ofNat 32 ((s.atIssue t h (.rds h o)).pool u.col u.core u.lane)) ∧
    reads 0x008 0xFFF80000 ∧ reads 0x009 0x00FFFFFF ∧
    reads 0x00E (BitVec.ofNat 32 ((if (s.context u.ctx).smrep then 2 else 0) + (if (s.context u.ctx).chksb then 1 else 0))) ∧
    ∀ tm, s.team? u.team = some tm →
      reads 0x006 tm.item ∧ reads 0x007 tm.itemEnd ∧ reads 0x00A (BitVec.ofNat 32 tm.scratchSize) ∧
      reads 0x00B (BitVec.ofNat 32 tm.extent.1) ∧ reads 0x00C (BitVec.ofNat 32 tm.extent.2.1) ∧
      reads 0x00D (BitVec.ofNat 32 tm.extent.2.2) ∧
      (o.fn = 0x006 → set { tm with item := a }) ∧ (o.fn = 0x007 → set { tm with itemEnd := a })

/-- R116 to R118: a quad instruction completes: the rounded difference, or the swizzled value, of what the positions supply; a thread
with no quad gets +0 from the differences. -/
def Obligations.QuadInstructionsTakeMembersValues : Prop :=
  ∀ (h : Head) (o : RRR) (s : State) (c : Issue) (t : Thread),
    let u := t.atIssue s.now
    let writes (i : Instr) (v : (Nat → Word) → Word) : Prop := Issues s c t h i →
      exec i s = .next (s.afterFixed c t h i 6 (dstWord o.d (v ((s.atIssue t h i).supply c u o.a))))
    let diff (x y : Word) : Word :=
      let m (z : Word) : Nat := modCode .f32 (o.mod.getLsbD 1) (o.mod.getLsbD 3) z.toNat
      let rnd := (o.mod.extractLsb' 5 2).toNat
      let r := roundVal .f32 rnd (sumVals rnd [unpack .f32 (m x), (unpack .f32 (m y)).neg])
      BitVec.ofNat 32 (if o.mod.getLsbD 4 then satUnit .f32 r else r)
    let fine := o.mod.getLsbD 0
    let k := (o.mod.extractLsb' 0 2).toNat
    (u.quad = none → Issues s c t h (.ddx h o) → exec (.ddx h o) s = .next (s.afterFixed c t h (.ddx h o) 6 (dstWord o.d 0))) ∧
    (u.quad = none → Issues s c t h (.ddy h o) → exec (.ddy h o) s = .next (s.afterFixed c t h (.ddy h o) 6 (dstWord o.d 0))) ∧
    (∀ q, u.quad = some q →
      writes (.ddx h o) (fun v => if fine ∧ 2 ≤ q then diff (v 3) (v 2) else diff (v 1) (v 0)) ∧
      writes (.ddy h o) (fun v => if fine ∧ q % 2 = 1 then diff (v 3) (v 1) else diff (v 2) (v 0))) ∧
    writes (.qswz h o) (fun v => v (if k = 3 then (o.mod.extractLsb' 2 2).toNat else u.quad.getD 0 ^^^ (k + 1)))

/-! ## Control flow and traps (R25, R58, R59, R64, R162 to R165, R203, R205) -/

/-- R25, R58, R59, R64, R162: what a transfer's target must be (canonical, mapped, executable, a multiple of 8, in the thread's own
column for a COLUMN page, with a clause header there), and the cause where it is not; a branch, call or return whose target holds a
header goes on there, with the return stack unchanged, one deeper or one shallower; a call with eight entries held first stores the oldest
at its place in the thread's spill area, and a return with none held goes to the newest entry there; a call with no room in the spill area,
and a return with no entry anywhere, take the return-stack fault. -/
def Obligations.TransfersCheckTargetAndStack : Prop :=
  (∀ (s : State) (u : Thread) (x : DWord),
     (canonical x = false → s.target u x = .fault 0x07 x) ∧
     (canonical x = true → inWindow x.toNat = true → s.target u x = .fault 0x07 x) ∧
     (canonical x = true → inWindow x.toNat = false →
       (∀ f, s.translate u.ctx x.toNat = .error f → s.target u x = .page f) ∧
       ∀ l, s.translate u.ctx x.toNat = .ok l →
         (l.x = false → s.target u x = .fault 0x07 x) ∧
         (l.x = true → l.share = 0 → l.owner ≠ u.col → s.target u x = .fault 0x08 x) ∧
         (l.x = true → (l.share = 0 → l.owner = u.col) → x.toNat % 8 ≠ 0 → s.target u x = .bad) ∧
         (l.x = true → (l.share = 0 → l.owner = u.col) → x.toNat % 8 = 0 → s.poisoned l.pa 8 = false →
           (s.target u x = .ok ↔ s.peekNat l.pa 8 / 2 ^ 60 % 16 = 0xA) ∧ (s.target u x ≠ .ok → s.target u x = .bad)))) ∧
  (∀ (h : Head) (o : BF) (s : State) (c : Issue) (t : Thread),
     let u := t.atIssue s.now
     let off : DWord := BitVec.ofInt 64 (8 * o.off.toInt)
     let goes (i : Instr) (x : DWord) (stack : List DWord) : Prop := Issues s c t h i → c.badMask h = false →
       (s.atIssue t h i).target u x = .ok →
       ∃ v : Thread, exec i s = .next (s.becomes t h i v) ∧ v.pc = x ∧ v.head = x ∧ v.stack = stack ∧ v.spills = u.spills ∧
         v.regs = u.regs ∧ v.preds = u.preds ∧ v.nextIssue = s.now + 1 + h.stall.toNat ∧ v.block = none
     goes (.bra h o) (c.clause.head + off) u.stack ∧ goes (.brx h o) (u.pair o.l.toNat + off) u.stack ∧
     (u.stack.length < 8 → goes (.call h o) (c.clause.head + off) (c.clause.after :: u.stack) ∧
       goes (.callx h o) (u.pair o.l.toNat + off) (c.clause.after :: u.stack)) ∧
     ∀ x r, u.stack = x :: r → goes (.ret h o) x r) ∧
  (∀ (h : Head) (o : BF) (s : State) (c : Issue) (t : Thread),
     let u := t.atIssue s.now
     let off : DWord := BitVec.ofInt 64 (8 * o.off.toInt)
     let traps (i : Instr) (a : DWord) : Prop := Issues s c t h i → exec i s = .next ((s.atIssue t h i).raise c u 0x1C 0 a)
     (u.stack.length = 8 → u.spillSize < 8 * (u.spills + 1) →
       ((s.atIssue t h (.call h o)).target u (c.clause.head + off) = .ok → traps (.call h o) u.stackBase) ∧
       ((s.atIssue t h (.callx h o)).target u (u.pair o.l.toNat + off) = .ok → traps (.callx h o) u.stackBase)) ∧
     (u.stack = [] → u.spills = 0 → traps (.ret h o) 0)) ∧
  (∀ (h : Head) (o : BF) (s : State) (c : Issue) (t : Thread) (tm : Team) (l : Leaf),
     let u := t.atIssue s.now
     let off : DWord := BitVec.ofInt 64 (8 * o.off.toInt)
     let oldest := leBytes 8 (u.stack.getLastD 0).toNat
     let push : Access := ⟨.store oldest, u.window + BitVec.ofNat 64 (8 * u.spills), 0⟩
     let pop : Access := ⟨.load 8 false [] 0, u.window + BitVec.ofNat 64 (8 * (u.spills - 1)), 0⟩
     let at_ (x : Access) : Nat := x.va.toNat - windowBase
     let lands (i : Instr) (x : DWord) (stack : List DWord) (spills : Nat) (v : State) : Prop := exec i s = .next v ∧
       ∃ w : Thread, v.thread? c.tid = some w ∧ w.pc = x ∧ w.head = x ∧ w.stack = stack ∧ w.spills = spills ∧ w.regs = u.regs ∧
         w.preds = u.preds ∧ w.block = none
     let spill (i : Instr) (x : DWord) : Prop := Issues s c t h i → c.badMask h = false → (s.atIssue t h i).target u x = .ok →
       u.stack.length = 8 → 8 * (u.spills + 1) ≤ u.spillSize →
       (AtScratch s u push 8 tm → ∃ v : State, lands i x (c.clause.after :: u.stack.dropLast) (u.spills + 1) v ∧ v.mem = s.mem ∧
         ∃ g, v.team? u.team = some g ∧ g.scratch = writeBytes tm.scratch (at_ push) oldest) ∧
       (AtColumn s c u push 8 l → s.translate u.ctx push.va.toNat = .ok l → ∃ v : State,
         lands i x (c.clause.after :: u.stack.dropLast) (u.spills + 1) v ∧ v.mem = writeBytes s.mem l.pa oldest ∧ v.teams = s.teams)
     let reload (x : DWord) : Prop := Issues s c t h (.ret h o) → c.badMask h = false → (s.atIssue t h (.ret h o)).target u x = .ok →
       ∃ v : State, lands (.ret h o) x [] (u.spills - 1) v ∧ v.mem = s.mem ∧ v.teams = s.teams
     spill (.call h o) (c.clause.head + off) ∧ spill (.callx h o) (u.pair o.l.toNat + off) ∧
     (u.stack = [] → 0 < u.spills →
       (AtScratch s u pop 8 tm → (∀ k ∈ tm.scratchPoison, k * 32 + 32 ≤ at_ pop ∨ at_ pop + 8 ≤ k * 32) →
         reload (BitVec.ofNat 64 (leNat (readBytes tm.scratch (at_ pop) 8)))) ∧
       (AtColumn s c u pop 8 l → s.translate u.ctx pop.va.toNat = .ok l → reload (BitVec.ofNat 64 (leNat (readBytes s.mem l.pa 8))))))

/-- R124, R164: taking a trap with the thread's slots clear and no handler running writes the trap record, sets the in-handler mark and
sends the thread to the context's trap entry; with a slot set the trap waits; in a handler the thread is held for system software. R163,
R165, R75, R205, R203: `trap` and `brk` take their traps with the saved program counter and address of R163, `tret` returns from the
handler, a word of an unlisted opcode takes the illegal-instruction fault, and `tinfo` and `rdtime` give their values. -/
def Obligations.TrapsSaveAndEnterHandler : Prop :=
  (∀ (s : State) (u : Thread) (x : Trap),
     (s.slotsClear u.id = true → u.inHandler = false → ∃ v : Thread, s.takeTrap u x = s.setThread v ∧
       v.trapPc = x.pc ∧ v.trapAddr = x.addr ∧
       v.trapInfo.toNat = x.sub % 256 * 2 ^ 16 + (if x.deferred then 2 ^ 8 else 0) + x.cause % 256 ∧ v.inHandler = true ∧
       v.pc = (s.context u.ctx).trapEntry ∧ v.trap = none ∧ v.block = none ∧ v.regs = u.regs ∧ v.preds = u.preds ∧
       v.stack = u.stack ∧ v.allot = u.allot) ∧
     (s.slotsClear u.id = true → u.inHandler = true → ∃ v : Thread, ∃ r : Hold,
       s.takeTrap u x = { s with nextId := s.nextId + 1 }.setThread v ∧ v.hold = some r ∧ r.trap = x ∧ r.reason = 0 ∧ r.posted = false ∧
       v.regs = u.regs ∧ v.trapPc = u.trapPc ∧ v.trapInfo = u.trapInfo ∧ v.trapAddr = u.trapAddr) ∧
     (s.slotsClear u.id = false → ∃ v : Thread, s.takeTrap u x = s.setThread v ∧ v.trap = some x ∧ v.pc = u.pc ∧
       v.inHandler = u.inHandler ∧ v.regs = u.regs)) ∧
  (∀ (h : Head) (o : XF) (w : BitVec 64) (s : State) (c : Issue) (t : Thread),
     let u := t.atIssue s.now
     let traps (i : Instr) (x : Trap) : Prop := Issues s c t h i → exec i s = .next ((s.atIssue t h i).takeTrap (u.advance c h s.now) x)
     let back (v : Thread) (p q : DWord) : Prop := v.inHandler = false ∧ v.pc = p ∧ v.head = q ∧ v.regs = u.regs ∧ v.preds = u.preds ∧
       v.stack = u.stack ∧ v.trapPc = u.trapPc ∧ v.trapInfo = u.trapInfo ∧ v.trapAddr = u.trapAddr
     let reads (fn : BitVec 11) (ds : List Dest) : Prop := o.fn = fn → Issues s c t h (.tinfo h o) →
       exec (.tinfo h o) s = .next (s.afterFixed c t h (.tinfo h o) 4 ds)
     (c.badMask h = false → traps (.trap h o)
       ⟨0x18, 0, if o.a = 0xF0 then 0 else (srcWord s u o.a).zeroExtend 64, false, c.clause.after, c.clause.after⟩) ∧
     traps (.brk h o) { cause := 0x19, sub := 0, addr := o.fn.zeroExtend 64, deferred := false, pc := (c.next h).1, head := (c.next h).2 } ∧
     (Issues s c t h (.tret h o) → u.inHandler = true → c.badMask h = false → o.a ≠ 0xF0 →
       (s.atIssue t h (.tret h o)).target u (u.pair o.a.toNat) = .ok →
       ∃ v, exec (.tret h o) s = .next (s.becomes t h (.tret h o) v) ∧ back v (u.pair o.a.toNat) (u.pair o.a.toNat)) ∧
     (Issues s c t h (.tret h o) → u.inHandler = true → c.badMask h = false → o.a = 0xF0 →
       (u.trapPc = u.trapHead → (s.atIssue t h (.tret h o)).target u u.trapPc = .ok) →
       ∃ v, exec (.tret h o) s = .next (s.becomes t h (.tret h o) v) ∧ back v u.trapPc u.trapHead) ∧
     (Issues s c t h (.tret h o) → u.inHandler = false →
       exec (.tret h o) s = .next ((s.atIssue t h (.tret h o)).raiseFree c u 0x01)) ∧
     (s.cur = some c → s.thread? c.tid = some t → t.pending = [] →
       ∃ a, exec (.unlistedOpcodeIssue w) s = .next ((s.atIssue t (headOf w) (.unlistedOpcodeIssue w)).free.2.raise c u 0x01 0 a)) ∧
     reads 0 (dstPair o.d u.trapPc) ∧ reads 1 (dstWord o.d (if u.inHandler then u.trapInfo ||| 0x200 else u.trapInfo)) ∧
     reads 2 (dstPair o.d u.trapAddr) ∧
     (Issues s c t h (.rdtime h o) → exec (.rdtime h o) s =
       .next (s.afterFixed c t h (.rdtime h o) 4 (dstPair o.d (BitVec.ofNat 64 (10 * s.now / 11))))))

/-! ## Memory (R120 to R138, R145 to R147) -/

/-- R120, R128, R129, R136 to R138, R150, R151: an access to scratchpad completes: the action acts on the team's bytes, and the values
it returns are what the leased destinations will hold. R121, R122: a noncanonical address and one that leaves the team's allotment take the
access fault 0x07, a misaligned one 0x06 and a locked byte 0x0A, precise at the word. R126: in a helper thread a store, a reduction or an
arrival does nothing, and what returns a value returns zero. -/
def Obligations.ScratchpadAccessesPerform : Prop :=
  ∀ (h : Head) (o : MF) (p : XF) (s : State) (c : Issue) (t : Thread) (tm : Team),
    let u := t.atIssue s.now
    let performs (i : Instr) (x : Access) (align : Nat) : Prop :=
      let off := x.va.toNat - windowBase
      let e := x.act.apply (readBytes tm.scratch off x.act.width)
      Issues s c t h i → AtScratch s u x align tm → e.misuse = false →
      (x.act.isStore = true ∨ ∀ k ∈ tm.scratchPoison, k * 32 + 32 ≤ off ∨ off + x.act.width ≤ k * 32) →
      ∃ v : State, exec i s = .next (leasingReady h x.act.dst e.vals v c u) ∧ v.mem = s.mem ∧ v.ops = s.ops ∧ v.contexts = s.contexts ∧
        match e.bytes with
        | none => v.teams = s.teams
        | some b => ∃ m, v.teams = (s.setTeam { tm with scratch := writeBytes tm.scratch off b, scratchPoison := m }).teams
    let faults (i : Instr) (x : Access) (align : Nat) : Prop :=
      let v := x.va.toNat
      let size := windowBase + tm.scratchSize
      let traps (cause : Nat) (a : DWord) : Prop := exec i s = .next ((s.atIssue t h i).raise c u cause 0 a)
      Issues s c t h i → (canonical x.va = false → traps 0x07 x.va) ∧
        (canonical x.va = true → inWindow v = true →
          (size < v + x.act.width → traps 0x07 (BitVec.ofNat 64 (max v size))) ∧
          (v + x.act.width ≤ size → v % align ≠ 0 → traps 0x06 x.va) ∧
          (v + x.act.width ≤ size → v % align = 0 →
            s.lockConflict u.team .scratch (v - windowBase) x.act.width x.act.writes = true → traps 0x0A x.va))
    let load (form : Nat) : Access :=
      ⟨.load (widBytes o.wid) (widSigned o.wid) (transferRegs o) form, effAddr u o, o.ord.toNat⟩
    let wide := atomWide p.fn
    let src (r : BitVec 8) : DWord := match fnAty p.fn with
      | 2 => srcTyped s u 2 r
      | 3 => srcPair s u r
      | 5 => (srcHalves s u .f16 r).zeroExtend 64
      | 6 => (srcHalves s u .bf16 r).zeroExtend 64
      | _ => (srcWord s u r).zeroExtend 64
    let dst := if wide then pairRegs p.d else wordRegs p.d
    let va := u.pair p.a.toNat
    let n := if wide then 8 else 4
    let forms (P : Instr → Access → Nat → Prop) : Prop :=
      (c.inGroup = false → P (.ld h o) (load 0) (widBytes o.wid)) ∧ P (.ldro h o) (load 1) (widBytes o.wid) ∧
      P (.ldw h o) (load 2) (widBytes o.wid) ∧
      (u.helper = false → (c.inGroup = false → P (.st h o) ⟨.store (storeBytes s u o), effAddr u o, o.ord.toNat⟩ (widBytes o.wid)) ∧
        P (.atom h p) ⟨.atomic (fnAop p.fn) (fnAty p.fn) (src p.b) 0 dst, va, fnOrd p.fn⟩ n ∧
        P (.cas h p) ⟨.atomic 7 (fnAty p.fn) (src p.c) (src p.b) dst, va, fnOrd p.fn⟩ n ∧
        P (.red h p) ⟨.red (fnAop p.fn) (fnAty p.fn) (src p.b), va, fnOrd p.fn⟩ n ∧
        P (.xadd h p) ⟨.xadd (srcWord s u p.b), va, fnOrd p.fn⟩ 64 ∧
        P (.xrd h p) ⟨.xrd (p.fn.extractLsb' 5 2).toNat (p.fn.getLsbD 4) (wordRegs p.d), va, fnOrd p.fn⟩ 64 ∧
        (srcWord s u p.b ≠ 0 → P (.mbarr h p) ⟨.mbarr (srcWord s u p.b), va, 0⟩ 8))
    forms performs ∧ (s.team? u.team = some tm → forms faults) ∧
    (u.helper = true →
      let skips (i : Instr) : Prop := Issues s c t h i → exec i s = .next (s.becomes t h i (u.advance c h s.now))
      let zero (i : Instr) (d : List Nat) (vs : List Word) : Prop := Issues s c t h i → exec i s = .next (s.afterLeased c t h i d vs)
      skips (.st h o) ∧ skips (.red h p) ∧ skips (.xadd h p) ∧ skips (.mbarr h p) ∧
      zero (.atom h p) dst [0, 0] ∧ zero (.cas h p) dst [0, 0] ∧ zero (.xrd h p) (wordRegs p.d) [0])

/-- R120 to R123, R128, R129, R136 to R138, R151: an access to an ORDINARY page of the thread's own column completes: the action acts on
the bytes of memory at the translated address, and the values it returns are what the leased destinations will hold. R227, R234 to R240: so
does one on a PACKAGE or SYSTEM page, at the home where the column holds no copy of the line, of which a load keeps one, from a copy that
the column holds for a load, and in a line that the column owns for a store to a PACKAGE page, which fetches it first. R121 to R123, R239:
the precise faults in their order, misalignment and DEVICE pages 0x06, locks 0x0A, shares 0x08, writes to ink 0x0B, scopes 0x09; an access
whose page has no mapping, or none that it may write, goes into the operand log with its page-fault record. -/
def Obligations.ColumnAccessesPerform : Prop :=
  ∀ (h : Head) (o : MF) (p : XF) (s : State) (c : Issue) (t : Thread) (l : Leaf),
    let u := t.atIssue s.now
    let performs (i : Instr) (x : Access) (align : Nat) : Prop :=
      let e := x.act.apply (readBytes s.mem l.pa x.act.width)
      Issues s c t h i → AtColumn s c u x align l → e.misuse = false →
      ∃ v : State, exec i s = .next (leasingReady h x.act.dst e.vals v c u) ∧ v.ops = s.ops ∧ v.teams = s.teams ∧
        v.contexts = s.contexts ∧ v.mem = match e.bytes with
          | none => s.mem
          | some b => writeBytes s.mem l.pa b
    let shares (i : Instr) (x : Access) (align : Nat) : Prop :=
      let e := x.act.apply (readBytes s.mem l.pa x.act.width)
      let off := l.pa % 128
      let line := l.pa / 128
      let away : Prop := s.copy? u.col line = none ∧ s.owner? line = none
      let answers (vs : List Word) (v : State) : Prop := exec i s = .next (leasingReady h x.act.dst vs v c u) ∧ v.ops = s.ops ∧
        v.teams = s.teams ∧ v.contexts = s.contexts
      Issues s c t h i → AtShared s c u x align l →
        (away → e.misuse = false → s.poisoned l.pa x.act.width = false → (x.releases = false ∨ s.caches.copies = []) →
          ¬(x.act.isStore = true ∧ l.share = 1) → ∃ v : State, answers e.vals v ∧
            (v.mem = match e.bytes with | none => s.mem | some b => writeBytes s.mem l.pa b) ∧
            (x.act.isLoad = true → l.home ≠ u.col → ∃ k, v.copy? u.col line = some k ∧ k.owned = false ∧
              k.bytes = readBytes s.mem (line * 128) 128)) ∧
        (∀ k, s.copy? u.col line = some k → k.marked off x.act.width = false → x.act.isLoad = true → x.acquires = false →
          (∀ w sx d, x.act ≠ .load w sx d 1) → ∃ v : State,
            answers (x.act.apply ((k.bytes.drop off).take x.act.width)).vals v ∧ v.mem = s.mem ∧ v.caches.copies = s.caches.copies) ∧
        (∀ b, x.act = .store b → l.share = 1 →
          let owns (old : List Byte) (dirty : Nat) : Prop := ∃ v : State, ∃ k : LineCopy, answers [] v ∧ v.mem = s.mem ∧
            v.copy? u.col line = some k ∧ k.owned = true ∧ k.bytes = patch old off b ∧ k.dirty = dirty ||| maskBits off b.length
          (away → owns (readBytes s.mem (line * 128) 128) 0) ∧
          ∀ k, s.copy? u.col line = some k → k.owned = true → owns k.bytes k.dirty)
    let faults (i : Instr) (x : Access) (align : Nat) : Prop :=
      let g := s.atIssue t h i
      let v := x.va.toNat
      let page := s.pageAt c u.ctx v
      let traps (cause : Nat) : Prop := exec i s = .next (g.raise c u cause 0 x.va)
      let logs (f : WalkFail) : Prop := g.logFull u c.stroke x.va = false →
        let q := g.pageFault u.ctx u.col u.core x.va x.act.kind f
        exec i s = .next (leasing h x.act.dst (.logged x q.1) q.2 c u)
      let closed : Prop := onDevicePage page = true ∧ x.act.deviceOk = false
      let locked := s.lockConflict u.team .memory v x.act.width x.act.writes
      let ours : Prop := l.share ≠ 0 ∨ l.owner = u.col
      let ink : Prop := l.cls = 1 ∧ x.act.writes = true
      Issues s c t h i → canonical x.va = true → inWindow v = false →
        (v % align ≠ 0 → traps 0x06) ∧
        (v % align = 0 →
          (closed → traps 0x06) ∧ (¬closed → locked = true → traps 0x0A) ∧
          (¬closed → locked = false →
            (∀ f, page = .error f → logs f) ∧
            (page = .ok l → x.act.writes = true → l.w = false → l.cls ≠ 1 → logs ⟨l.level, 3⟩) ∧
            (page = .ok l → (x.act.writes = true → l.w = true ∨ l.cls = 1) → g.reportHeld u.actor l x.synchronises = false →
              (¬ours → traps 0x08) ∧ (ours → ink → traps 0x0B) ∧
              ∀ r, ours → ¬ink → x.synchronises = true → l.cls ≠ 3 → s.scopeRecord u.ctx u.col (l.pa / 128) = some r → r ≠ l.share →
                (s.context u.ctx).smrep = false → traps 0x09)))
    let load (form : Nat) : Access :=
      ⟨.load (widBytes o.wid) (widSigned o.wid) (transferRegs o) form, effAddr u o, o.ord.toNat⟩
    let wide := atomWide p.fn
    let src (r : BitVec 8) : DWord := match fnAty p.fn with
      | 2 => srcTyped s u 2 r
      | 3 => srcPair s u r
      | 5 => (srcHalves s u .f16 r).zeroExtend 64
      | 6 => (srcHalves s u .bf16 r).zeroExtend 64
      | _ => (srcWord s u r).zeroExtend 64
    let dst := if wide then pairRegs p.d else wordRegs p.d
    let va := u.pair p.a.toNat
    let n := if wide then 8 else 4
    let forms (P : Instr → Access → Nat → Prop) : Prop :=
      (c.inGroup = false → P (.ld h o) (load 0) (widBytes o.wid)) ∧ P (.ldro h o) (load 1) (widBytes o.wid) ∧
      P (.ldw h o) (load 2) (widBytes o.wid) ∧
      (u.helper = false → (c.inGroup = false → P (.st h o) ⟨.store (storeBytes s u o), effAddr u o, o.ord.toNat⟩ (widBytes o.wid)) ∧
        P (.atom h p) ⟨.atomic (fnAop p.fn) (fnAty p.fn) (src p.b) 0 dst, va, fnOrd p.fn⟩ n ∧
        P (.cas h p) ⟨.atomic 7 (fnAty p.fn) (src p.c) (src p.b) dst, va, fnOrd p.fn⟩ n ∧
        P (.red h p) ⟨.red (fnAop p.fn) (fnAty p.fn) (src p.b), va, fnOrd p.fn⟩ n ∧
        P (.xadd h p) ⟨.xadd (srcWord s u p.b), va, fnOrd p.fn⟩ 64 ∧
        P (.xrd h p) ⟨.xrd (p.fn.extractLsb' 5 2).toNat (p.fn.getLsbD 4) (wordRegs p.d), va, fnOrd p.fn⟩ 64 ∧
        (srcWord s u p.b ≠ 0 → P (.mbarr h p) ⟨.mbarr (srcWord s u p.b), va, 0⟩ 8))
    forms performs ∧ forms shares ∧ forms faults

/-- R62: an effective address is the pair A plus the sign-extended register B, or plus the sign-extended offset, modulo 2^64. R128,
R129, R136, R138: what the actions do to the bytes of their location: a load returns them, extended when narrow; a store replaces them;
an atomic returns the old value and stores the new one; an exact sum reads as binary32 and is zeroed by CLR. -/
def Obligations.AddressesAndActionsOnBytes : Prop :=
  (∀ (u : Thread) (o : MF),
     (2 ^ 64 : Int) ∣ (effAddr u o).toNat -
       ((u.pair o.a.toNat).toNat + if o.indexed then (u.reg o.b.toNat).toInt else o.off.toInt)) ∧
  (∀ (old : List Byte),
     let m := leNat old
     let w := 8 * old.length
     (∀ d f, old.length < 4 → ((Action.load old.length false d f).apply old).vals = [BitVec.ofNat 32 m]) ∧
     (∀ d f, 0 < old.length → old.length < 4 → ((Action.load old.length true d f).apply old).vals =
       [BitVec.ofInt 32 (if m < 2 ^ (w - 1) then m else m - 2 ^ w)]) ∧
     (∀ n sx d f, old.length = 4 * n → 0 < n → ((Action.load (4 * n) sx d f).apply old).vals =
       (List.range n).map fun k => BitVec.ofNat 32 (m / 2 ^ (32 * k))) ∧
     (∀ b, (Action.store b).apply old = ⟨some b, [], false⟩) ∧
     (∀ b d, old.length = 4 →
       let op (aop aty : Nat) (new : Nat) : Prop := (Action.atomic aop aty b 0 d).apply old = ⟨some (leBytes 4 new), [BitVec.ofNat 32 m], false⟩
       let x := b.toNat % 2 ^ 32
       let si (k : Nat) : Int := if k < 2 ^ 31 then k else k - 2 ^ 32
       op 0 0 ((m + x) % 2 ^ 32) ∧ op 0 1 ((m + x) % 2 ^ 32) ∧ op 1 0 (if si x < si m then x else m) ∧ op 1 1 (min m x) ∧
       op 2 0 (if si m < si x then x else m) ∧ op 2 1 (max m x) ∧ op 3 0 (m &&& x) ∧ op 4 0 (m ||| x) ∧ op 5 0 (m ^^^ x) ∧ op 6 0 x ∧
       ∀ cmp, (Action.atomic 7 0 b cmp d).apply old =
         ⟨if m = cmp.toNat % 2 ^ 32 then some (leBytes 4 b.toNat) else none, [BitVec.ofNat 32 m], false⟩) ∧
     (∀ rnd clr d, (Action.xrd rnd clr d).apply old =
       ⟨if clr then some (List.replicate 64 0) else none, [BitVec.ofNat 32 (exactRead m rnd)], false⟩))

/-- R125, R131, R133, R134, R126: `pref` changes nothing; `fence` with nothing of the thread's to wait for completes, with the release
counted and the acquire's discards made at the page's scope; `wbr` and `invr` of a helper thread or of no bytes change nothing, and over
a range with one MANAGED copy they write its dirty bytes home. -/
def Obligations.FencesAndMaintenanceComplete : Prop :=
  ∀ (h : Head) (o : MF) (p : XF) (s : State) (c : Issue) (t : Thread),
    let u := t.atIssue s.now
    let va := effAddr u o
    let nothing (i : Instr) : Prop := Issues s c t h i → exec i s = .next (s.becomes t h i (u.advance c h s.now))
    let ready : Prop := u.accessFault = false ∧ s.unperformed u.id = false
    nothing (.pref h o) ∧
    (∀ tm, s.team? u.team = some tm → inWindow va.toNat = true → va.toNat < windowBase + tm.scratchSize → ready → nothing (.fence h o)) ∧
    (∀ l, canonical va = true → inWindow va.toNat = false → s.translate u.ctx va.toNat = .ok l → (l.share = 0 → l.owner = u.col) →
      (l.cls ≠ 3 → s.scopeRecord u.ctx u.col (l.pa / 128) = some l.share) → ready → Issues s c t h (.fence h o) →
      ∃ v : State, exec (.fence h o) s = .next (v.setThread (u.advance c h s.now)) ∧ v.mem = s.mem ∧ v.threads = (s.atIssue t h (.fence h o)).threads ∧
        ((o.ord = 2 ∨ o.ord = 3) → l.scope ≠ 0 → v.epoch u.col u.ctx = s.epoch u.col u.ctx + 1) ∧
        ((o.ord = 1 ∨ o.ord = 3) → l.scope ≠ 0 → ∀ k ∈ v.caches.copies, k.col = u.col →
          k.owned = true ∨ k.managed = true ∨ k.sealedInk = true ∨ homeColumn (k.line * 128) = u.col)) ∧
    (u.helper = true ∨ srcWord s u p.b = 0 → nothing (.wbr h p) ∧ nothing (.invr h p)) ∧
    (∀ k : LineCopy, ∀ l : Leaf, u.helper = false → s.unperformed u.id = false → srcWord s u p.b = 128 → (u.pair p.a.toNat).toNat % 128 = 0 →
      canonical (u.pair p.a.toNat) = true →
      s.translate u.ctx ((u.pair p.a.toNat).toNat / 65536 * 65536) = .ok l →
      l.cls = 2 → l.pa % 65536 = 0 → s.caches.copies = [k] → k.col = u.col → k.managed = true →
      k.line * 128 = l.pa + (u.pair p.a.toNat).toNat % 65536 →
      (Issues s c t h (.wbr h p) → ∃ v : State, exec (.wbr h p) s = .next v ∧ v.mem = mergeDirty s.mem (k.line * 128) k.dirty k.bytes ∧
        v.caches.copies = [{ k with dirty := 0 }]) ∧
      (Issues s c t h (.invr h p) → ∃ v : State, exec (.invr h p) s = .next v ∧ v.mem = mergeDirty s.mem (k.line * 128) k.dirty k.bytes ∧
        v.caches.copies = []))

/-- R146, R147, R126: in an AGRP clause a store is buffered and a load sees the buffered bytes; a fifth line overflows the group. `tcom`
of an aborted group or of a helper thread completes with false and writes nothing; with nothing of the thread's unperformed, `tcom` of
an intact group completes with true, its stores performed; with something unperformed it waits. -/
def Obligations.AtomicGroupsBufferAndCommit : Prop :=
  ∀ (h : Head) (o : MF) (p : XF) (s : State) (c : Issue) (t : Thread) (l : Leaf),
    let u := t.atIssue s.now
    let g := u.group.getD Group.empty
    let va := effAddr u o
    let b := storeBytes s u o
    let held : Prop := l.pa / 128 ∈ g.lines ∨ g.lines.length < 4
    let goesOn (w : Thread) : Prop := w.pc = (c.next h).1 ∧ w.head = (c.next h).2 ∧ w.block = none ∧ w.stack = u.stack ∧ w.regs = u.regs
    let tells (w : Thread) (x : Bool) : Prop := goesOn w ∧ w.group = none ∧ (p.d.toNat < 7 → w.pred p.d.toNat = x)
    (Issues s c t h (.st h o) → c.inGroup = true → u.helper = false →
      AtColumn s c u ⟨.store b, va, o.ord.toNat⟩ (widBytes o.wid) l → b.length = widBytes o.wid → held →
      ∃ v : State, ∃ w : Thread, exec (.st h o) s = .next (v.setThread w) ∧ v.mem = s.mem ∧ goesOn w ∧ ((c.next h).2 = c.clause.head →
        ∃ g', w.group = some g' ∧ g'.stores = g.stores ++ [(va, b, l)] ∧ l.pa / 128 ∈ g'.lines)) ∧
    (Issues s c t h (.st h o) → c.inGroup = true → u.helper = false →
      AtColumn s c u ⟨.store b, va, o.ord.toNat⟩ (widBytes o.wid) l → b.length = widBytes o.wid → ¬held →
      exec (.st h o) s = .next ((s.atIssue t h (.st h o)).raiseFree c u 0x1B)) ∧
    (Issues s c t h (.ld h o) → c.inGroup = true → o.wid = 7 → isReg o.t = true → AtColumn s c u (loadAccess u o 0) 4 l → held →
      ∃ v : State, ∃ w : Thread, exec (.ld h o) s = .next (v.setThread w) ∧ v.mem = s.mem ∧ w.pc = (c.next h).1 ∧ w.block = none ∧
        w.reg o.t.toNat = BitVec.ofNat 32 (leNat (overlay g.stores va.toNat (readBytes s.mem l.pa 4)))) ∧
    (Issues s c t h (.tcom h p) → u.helper = true →
      ∃ w : Thread, exec (.tcom h p) s = .next (s.becomes t h (.tcom h p) w) ∧ tells w false) ∧
    (Issues s c t h (.tcom h p) → u.helper = false → g.aborted = true →
      let n := if u.abortAt = c.clause.head then u.aborts + 1 else 1
      (n < 256 → ∃ w : Thread, exec (.tcom h p) s = .next (s.becomes t h (.tcom h p) w) ∧ tells w false ∧ w.aborts = n) ∧
      (256 ≤ n → ∃ w : Thread, exec (.tcom h p) s = .next ((s.atIssue t h (.tcom h p)).raiseFree c w 0x1B) ∧ w.aborts = n)) ∧
    (Issues s c t h (.tcom h p) → u.helper = false → g.aborted = false → s.unperformed u.id = false →
      ∃ v : State, ∃ w : Thread, exec (.tcom h p) s = .next (v.setThread w) ∧ tells w true ∧ w.aborts = 0 ∧
        (g.stores = [] → v.mem = s.mem ∧ v.threads = (s.atIssue t h (.tcom h p)).threads) ∧
        (g.share ≠ 0 → g.stores = [] → v.epoch u.col u.ctx = s.epoch u.col u.ctx + 1) ∧
        ∀ st, g.stores = [st] → AtColumn s c u ⟨.store st.2.1, st.1, 0⟩ 0 st.2.2 → v.mem = writeBytes s.mem st.2.2.pa st.2.1) ∧
    (Issues s c t h (.tcom h p) → u.helper = false → g.aborted = false → s.unperformed u.id = true →
      exec (.tcom h p) s = .next (s.becomes t h (.tcom h p) (u.wait c h s.now (.commit p.d))))

/-! ## Ink (R126, R132, R139 to R145, R356 to R369) -/

/-- R126, R139, R140, R142, R143, R145: at an INK page of a region, `append` sends its request, `inkstat` reads the descriptor (and
kind 3 elsewhere), `seal` completes on a SEALED region with no effect and waits on an OPEN one, `inkfree` closes the region and waits;
in a helper thread they change nothing, and `append` answers 0xFFFFFFFF. -/
def Obligations.InkInstructionsByRegionState : Prop :=
  ∀ (h : Head) (o : XF) (s : State) (c : Issue) (t : Thread) (l : Leaf) (r : InkRegion),
    let u := t.atIssue s.now
    let va := u.pair o.a.toNat
    let atInk (page : Except WalkFail Leaf) : Prop := canonical va = true ∧ inWindow va.toNat = false ∧ page = .ok l ∧ l.cls = 1 ∧
      (l.share = 0 → l.owner = u.col) ∧ s.inkAt u.ctx va.toNat = some r
    let found : Prop := atInk (s.translate u.ctx va.toNat)
    let goesOn (i : Instr) : Prop := Issues s c t h i → exec i s = .next (s.becomes t h i (u.advance c h s.now))
    (u.helper = true → goesOn (.seal h o) ∧ goesOn (.inkfree h o) ∧
      (Issues s c t h (.append h o) →
        exec (.append h o) s = .next (s.afterLeased c t h (.append h o) (wordRegs o.d) [0xFFFFFFFF]))) ∧
    (u.helper = false → atInk (s.pageAt c u.ctx va.toNat) →
      s.mustFollow u.id ⟨.append (srcRange u o.b o.fn.toNat) (wordRegs o.d), va, 0⟩ = false →
      Issues s c t h (.append h o) → exec (.append h o) s = .next (leasing h (wordRegs o.d)
        (.appendRequest va (srcRange u o.b o.fn.toNat)) (s.atIssue t h (.append h o)) c u)) ∧
    (atInk (s.pageAt c u.ctx va.toNat) → s.mustFollow u.id ⟨.inkstat (rangeRegs o.d 4), va, 0⟩ = false →
      Issues s c t h (.inkstat h o) →
      ∃ v : State, v.mem = s.mem ∧ v.inks = s.inks ∧ exec (.inkstat h o) s = .next (leasingReady h (rangeRegs o.d 4)
        [BitVec.ofNat 32 r.rstate, BitVec.ofNat 32 r.tail, BitVec.ofNat 32 r.watermark, BitVec.ofNat 32 r.limit] v c u)) ∧
    (∀ tm, s.team? u.team = some tm → inWindow va.toNat = true → va.toNat < windowBase + tm.scratchSize →
      s.mustFollow u.id ⟨.inkstat (rangeRegs o.d 4), va, 0⟩ = false → Issues s c t h (.inkstat h o) →
      exec (.inkstat h o) s = .next (s.afterLeased c t h (.inkstat h o) (rangeRegs o.d 4) [3, 0, 0, 0])) ∧
    (u.helper = false → found →
      (r.rstate = 0 → Issues s c t h (.seal h o) →
        exec (.seal h o) s = .next (s.becomes t h (.seal h o) (u.wait c h s.now (.sealing r.region false va)))) ∧
      (r.rstate = 1 → goesOn (.seal h o)) ∧
      (r.rstate = 2 → Issues s c t h (.seal h o) → exec (.seal h o) s = .next ((s.atIssue t h (.seal h o)).raise c u 0x0D 0 va)) ∧
      (s.requestHeld u.id r.region = true → Issues s c t h (.inkfree h o) →
        exec (.inkfree h o) s = .next (s.becomes t h (.inkfree h o) (u.wait c h s.now (.freeing r.region false va)))) ∧
      (r.rstate = 2 → s.requestHeld u.id r.region = false → Issues s c t h (.inkfree h o) →
        exec (.inkfree h o) s = .next (s.becomes t h (.inkfree h o) (u.wait c h s.now (.freeing r.region true va))).wake) ∧
      (r.rstate ≠ 2 → s.requestHeld u.id r.region = false → Issues s c t h (.inkfree h o) → ∃ v : State, ∃ q : InkRegion,
        exec (.inkfree h o) s = .next (v.setThread (u.wait c h s.now (.freeing r.region true va))).wake ∧ v.ink? r.ctx r.region = some q ∧
        q.tail = r.tail ∧ (if r.watermark = r.tail then q.rstate = 2 ∧ q.closing = 0 else q.rstate = r.rstate ∧ q.closing = 2)))

/-- R132, R140, R361, R362, R364, R318: at the home of a region, an `append` request reserves room at the tail, or answers 0xFFFFFFFF
without room, or fails on a region that is not open; its data lands and the watermark may pass it; lost data makes the append fail; a
seal's request freezes the tail and seals once W = T; a load that has waited 110,000 cycles on a watermark since its issue, or at an empty line, fails. -/
def Obligations.InkHomeReservesAndLands : Prop :=
  ∀ (s : State) (o : Op) (r : InkRegion) (va : DWord) (ws : List Word) (off : Nat) (l : Leaf) (x : Access),
    let becomes (e : Instr) (g : Stage) : Prop := ∃ t : State, exec e s = .next t ∧ t.ops = [{ o with stage := g }]
    s.ops = [o] →
    (o.stage = .appendRequest va ws → s.inkAt o.ctx va.toNat = some r → s.ink? r.ctx r.region = some r →
      (r.rstate = 2 → becomes (.appendRequestAtHome o.stroke) (.failed 0x0D 0 none true)) ∧
      (r.rstate = 1 ∨ (r.rstate = 0 ∧ r.closing ≠ 0) → becomes (.appendRequestAtHome o.stroke) (.failed 0x0B 0 none true)) ∧
      (r.rstate = 0 → r.closing = 0 → r.limit < r.tail + 4 * ws.length →
        becomes (.appendRequestAtHome o.stroke) (.ready (o.dst.map fun d => (d, 0xFFFFFFFF)) false)) ∧
      (r.rstate = 0 → r.closing = 0 → r.tail + 4 * ws.length ≤ r.limit → ∃ t : State, ∃ q : InkRegion,
        exec (.appendRequestAtHome o.stroke) s = .next t ∧ t.ops = [{ o with stage := .appendData r.region r.tail ws }] ∧
        t.ink? r.ctx r.region = some q ∧ q.tail = r.tail + 4 * ws.length ∧
        q.reservations = r.reservations ++ [⟨o.id, r.tail, 4 * ws.length⟩] ∧ t.mem = s.mem)) ∧
    (o.stage = .appendData r.region off ws → s.ink? o.ctx r.region = some r → r.ctx = o.ctx → r.closing = 0 → s.caches.copies = [] →
      s.translate o.ctx (r.base + off) = .ok l → 0 < ws.length → ws.length ≤ 16 → (r.base + off) % 65536 + 4 * ws.length ≤ 65536 →
      ((∀ i < 4 * ws.length, r.lostByte (off + i) = false) → ∃ t : State, ∃ q : InkRegion,
        exec (.appendDataPerformed o.id) s = .next t ∧ t.ops = [{ o with stage := .ready (o.dst.map fun d => (d, BitVec.ofNat 32 off)) false }] ∧
        t.mem = writeBytes s.mem l.pa (bytesOfWords ws) ∧ t.ink? o.ctx r.region = some q ∧ q.tail = r.tail ∧
        q.reservations = r.reservations.filter (·.op ≠ o.id)) ∧
      ((∃ i < 4 * ws.length, ∃ m, s.translate o.ctx (r.base + off + i) = .ok m ∧ s.poisoned m.pa 1 = true) →
        s.recordsFull o.col = false → becomes (.appendDataLost o.id) (.failed 0x0F 0 none true))) ∧
    (o.stage = .watermark x l → o.issued + 110000 ≤ s.now → becomes (.ldwTimeout o.id) (.failed 0x0C 0 none true)) ∧
    (∀ since, o.stage = .emptyLine x l since → x.act.isLoad = true → since + 110000 ≤ s.now →
      becomes (.emptyLineTimeout o.id) (.failed 0x0F 0 none true))

/-- R142, R364, R368: the request of a waiting `seal` freezes the region's tail and seals it once its watermark has reached the tail; a
FREEING region sends one retirement, at which every column drops its replicas and copies of the region's pages; the last
acknowledgement reopens the region, empty. R357 to R359, R365 to R367: a replica is granted to another column of a SEALED region that
has read the page, while the column's pool has room, dropped oldest first, and cleared at the home once the column holds none; a valid
descriptor makes a region, one that changes nothing of it is no event, a destroyed region is freed and marked to leave, and is gone at
once while a launch of its context runs (the model's reading of R249 and R359, notes/assumptions/89.md); INKPOOL takes a valid value
while its EN is 0, drops the column's replicas when EN is cleared, and ignores a write that sets EN, SIZE or BASE anew while EN is 1. -/
def Obligations.InkSealFreeReplicaEvents : Prop :=
  (∀ (s : State) (u : Thread) (b : Block) (r : InkRegion) (col : Nat) (va : DWord),
     s.ops = [] → s.ink? r.ctx r.region = some r →
     (s.thread? u.id = some u → u.parked = false → u.ctx = r.ctx → u.block = some b → b.wait = .sealing r.region false va →
       s.requestHeld u.id r.region = false → r.rstate = 0 → r.closing = 0 →
       ∃ t : State, ∃ q : InkRegion, exec (.sealRequestAtHome u.id) s = .next t ∧ t.ink? r.ctx r.region = some q ∧ q.tail = r.tail ∧
         (if r.watermark = r.tail then q.rstate = 1 ∧ q.closing = 0 else q.rstate = 0 ∧ q.closing = 1)) ∧
     (r.rstate = 2 → r.retired = false → ∃ t : State, ∃ q : InkRegion, exec (.inkRetirement r.ctx r.region) s = .next t ∧
       t.ink? r.ctx r.region = some q ∧ q.retired = true ∧ q.acks = List.range 32 ++ s.outsideAcks r ∧
       q.peers = (if r.share = 2 then s.peersDown.map (·.1) else []) ∧ q.rstate = 2 ∧
       (∀ p ∈ t.replicas, ¬(p.ctx = r.ctx ∧ p.region = r.region)) ∧
       (∀ k ∈ t.caches.copies, ∀ p ∈ s.inkPages r, k.line * 128 < p ∨ p + 65536 ≤ k.line * 128) ∧ t.mem = s.mem) ∧
     (r.rstate = 2 → r.retired = true → r.acks ≠ [] → (r.acks.filter (· ≠ col) ≠ [] ∨ r.peers ≠ []) → ∃ t : State, ∃ q : InkRegion,
       exec (.retirementAcknowledgement r.ctx r.region col) s = .next t ∧ t.ink? r.ctx r.region = some q ∧
       q.acks = r.acks.filter (· ≠ col) ∧ q.rstate = 2 ∧ t.mem = s.mem) ∧
     (r.rstate = 2 → r.retired = true → r.acks = [col] → r.peers = [] → r.leaving = false →
       ∃ t : State, ∃ q : InkRegion, exec (.retirementAcknowledgement r.ctx r.region col) s = .next t ∧
         t.ink? r.ctx r.region = some q ∧ q.rstate = 0 ∧ q.tail = 0 ∧ q.rmask = 0 ∧ q.reservations = [] ∧ q.retired = false)) ∧
  (∀ (s : State) (r : InkRegion) (col page region ctx : Nat) (desc : BitVec 256) (value : BitVec 64) (q : Replica) (l : Leaf),
     let same (x : Replica) : Prop := x.ctx = r.ctx ∧ x.region = r.region
     (s.ink? r.ctx r.region = some r →
       (r.rstate = 1 → r.share ≠ 0 → r.home ≠ col → col < 32 → (col, page) ∈ r.readers → page * 65536 < r.limit → ⟨col, r.ctx, r.region, page⟩ ∉ s.replicas →
         (s.replicas.filter (·.col = col)).length < s.poolPages col → ∃ t : State, ∃ k : InkRegion,
           exec (.replicaGrantRequest col r.ctx r.region page) s = .next t ∧ t.replicas = s.replicas ++ [⟨col, r.ctx, r.region, page⟩] ∧
           t.ink? r.ctx r.region = some k ∧ k.rmask = r.rmask ||| 2 ^ col ∧ k.tail = r.tail) ∧
       (r.rstate ≠ 1 → exec (.replicaGrantRequest col r.ctx r.region page) s = .next s) ∧
       ((∀ x ∈ s.replicas, x.col = col → ¬same x) → ∃ t : State, ∃ k : InkRegion,
         exec (.replicaClear col r.ctx r.region) s = .next t ∧ t.ink? r.ctx r.region = some k ∧ k.rmask.testBit col = false ∧
         ∀ j, j ≠ col → k.rmask.testBit j = r.rmask.testBit j) ∧
       ((∀ n ∈ s.sched.launches, n.ctx ≠ r.ctx) → ∃ t : State, ∃ k : InkRegion, exec (.inkRegionDestroy r.ctx r.region) s = .next t ∧
         t.ink? r.ctx r.region = some k ∧ k.leaving = true ∧ k.heir = none ∧ (r.rstate = 2 → k.rstate = 2) ∧
         (r.rstate ≠ 2 → if r.watermark = r.tail then k.rstate = 2 else k.rstate = r.rstate ∧ k.closing = 2)) ∧
       ((∃ n ∈ s.sched.launches, n.ctx = r.ctx) → s.ops = [] → ∃ t : State, exec (.inkRegionDestroy r.ctx r.region) s = .next t ∧
         t.ink? r.ctx r.region = none ∧ ∀ x ∈ t.replicas, ¬same x) ∧
       (∀ d, (s.context r.ctx).desc.getLsbD 0 = true → r.keeps d = true → exec (.inkRegionCreate r.ctx r.region d) s = .next s)) ∧
     (s.replicas.find? (·.col = col) = some q → ∃ t : State, exec (.replicaDrop col) s = .next t ∧ t.replicas = s.replicas.erase q) ∧
     (region < 65536 → (s.context ctx).desc.getLsbD 0 = true → s.ink? ctx region = none → s.inkDescOk ctx region desc = true →
       s.inkRange ctx (field desc 192 64) (field desc 160 32) = some l →
       ∃ t : State, ∃ k : InkRegion, exec (.inkRegionCreate ctx region desc) s = .next t ∧ t.ink? ctx region = some k ∧
         k.base = field desc 192 64 ∧ k.limit = field desc 160 32 ∧ k.tail = field desc 128 32 ∧ k.rmask = 0 ∧ k.home = l.home ∧
         k.rstate = field desc 1 2 ∧ k.reservations = []) ∧
     (col < s.inkpools.length → col < 32 →
       (value.getLsbD 0 = true → field value 1 15 = 0 → (s.inkpool col).getLsbD 0 = false → poolOk col value = true → ∃ t : State,
         exec (.inkpoolEnable col value) s = .next t ∧ t.inkpool col = value ∧ ∀ j, j ≠ col → t.inkpool j = s.inkpool j) ∧
       (value.getLsbD 0 = false → field value 1 15 = 0 → (s.inkpool col).getLsbD 0 = false → ∃ t : State,
         exec (.inkpoolDisable col value) s = .next t ∧ t.inkpool col = value ∧ t.mem = s.mem) ∧
       (value.getLsbD 0 = false → field value 1 15 = 0 → (s.inkpool col).getLsbD 0 = true →
         field value 16 48 = field (s.inkpool col) 16 48 → ∃ t : State,
         exec (.inkpoolDisable col value) s = .next t ∧ t.inkpool col = s.inkpool col &&& ~~~1 ∧
         (∀ x ∈ t.replicas, x.col ≠ col)) ∧
       ((s.inkpool col).getLsbD 0 = true → value.getLsbD 0 = true ∨ field value 16 48 ≠ field (s.inkpool col) 16 48 →
         exec (.inkpoolEnable col value) s = .next s ∧ exec (.inkpoolDisable col value) s = .next s)))

/-! ## Queues, barriers, convergence registers (R23, R126, R148 to R154, R286) -/

/-- R126, R148, R149: with its ring of the right form, once those in its line that can move their entries have done so, and with no
earlier access of the thread unperformed, `qpush` writes the entry at the tail and `qpop` reads the one at the head; `qtry` does either
and says so, or tells false when the ring is full or empty; the blocking forms then wait in the line, and the team is looked at for a
deadlock; a pop of an entry in a marked sector takes the poison fault at the word (the model's choice, notes/assumptions/63.md); a push whose thread has accesses unperformed waits for them; in a helper thread nothing moves. -/
def Obligations.QueueInstructionsMoveEntries : Prop :=
  ∀ (h : Head) (o : XF) (s : State) (c : Issue) (t : Thread) (tm : Team) (r x : Ring),
    let u := t.atIssue s.now
    let q := (o.fn.extractLsb' 0 4).toNat
    let pops := o.fn.getLsbD 4
    let served (i : Instr) : State := (s.atIssue t h i).serveRing u.team q
    let ringed (code : BitVec 8) : Prop := s.ringFor u q code = some r
    let stands (i : Instr) : Prop := (served i).team? u.team = some tm ∧ tm.ring q = some x
    let room (i : Instr) : Prop := stands i ∧ x.count < x.slots
    let full (i : Instr) : Prop := stands i ∧ x.slots ≤ x.count
    let filled (i : Instr) : Prop := stands i ∧ 0 < x.count
    let empty (i : Instr) : Prop := stands i ∧ x.count = 0
    let done : Prop := s.unperformed u.id = false
    let pushed : Team := { tm.setRing q { x with tail := (x.tail + 1) % x.slots, count := x.count + 1 } with
      scratch := writeBytes tm.scratch (x.offset + x.entry * x.tail) (bytesOfWords (entryWords s u r o.a)) }
    let popped : Team := tm.setRing q { x with head := (x.head + 1) % x.slots, count := x.count - 1 }
    let entry : List Dest :=
      entryDest r o.d (loadWords x.entry false (readBytes tm.scratch (x.offset + x.entry * x.head) x.entry))
    let behind : Team := tm.setRing q { x with waiters := x.waiters ++ [u.id] }
    let moves (i : Instr) (m : Team) (ds : List Dest) : Prop := Issues s c t h i →
      exec i s = .next (((served i).setTeam m).setThread ((u.put ds).advance c h s.now))
    let waits (i : Instr) (w : Wait) : Prop := Issues s c t h i →
      exec i s = .next ((((served i).setTeam behind).setThread (u.wait c h s.now w)).checkTeam u.team)
    let poisoned (i : Instr) : Prop := Issues s c t h i → exec i s = .next ((served i).raise c u 0x0F 0 x.headAddr)
    let held (i : Instr) (tried : Option (BitVec 8)) : Prop := Issues s c t h i →
      exec i s = .next (s.becomes t h i (u.wait c h s.now (.pushHeld q (entryWords s u r o.a) tried)))
    let fails : Prop := Issues s c t h (.qtry h o) →
      exec (.qtry h o) s = .next ((served (.qtry h o)).setThread ((u.put (dstPred o.c false)).advance c h s.now))
    (s.team? u.team = some tm → tm.ring q = some x → s.nextServed x = none → s.serveRing u.team q = s) ∧
    (ringed o.a → u.helper = false → done → room (.qpush h o) → moves (.qpush h o) pushed []) ∧
    (ringed o.a → u.helper = false → done → full (.qpush h o) → waits (.qpush h o) (.qpush q (entryWords s u r o.a))) ∧
    (ringed o.a → u.helper = false → ¬done → held (.qpush h o) none) ∧
    (ringed o.d → u.helper = false → filled (.qpop h o) → tm.headMarked x = false → moves (.qpop h o) popped entry) ∧
    (ringed o.d → u.helper = false → filled (.qpop h o) → tm.headMarked x = true → poisoned (.qpop h o)) ∧
    (ringed o.d → u.helper = false → empty (.qpop h o) → waits (.qpop h o) (.qpop q (entryRegs r.entry o.d))) ∧
    (ringed o.a → u.helper = true → Issues s c t h (.qpush h o) → exec (.qpush h o) s = .next (s.afterPut c t h (.qpush h o) [])) ∧
    (ringed o.d → u.helper = true → Issues s c t h (.qpop h o) →
      exec (.qpop h o) s = .next (s.afterPut c t h (.qpop h o) (entryDest r o.d [0, 0, 0, 0]))) ∧
    (pops = false → ringed o.a →
      (u.helper = false → done → full (.qtry h o) → fails) ∧ (u.helper = false → ¬done → held (.qtry h o) (some o.c)) ∧
      (u.helper = false → done → room (.qtry h o) → moves (.qtry h o) pushed (dstPred o.c true))) ∧
    (pops = true → ringed o.d →
      (u.helper = false → empty (.qtry h o) → fails) ∧
      (u.helper = false → filled (.qtry h o) → tm.headMarked x = true → poisoned (.qtry h o)) ∧
      (u.helper = false → filled (.qtry h o) → tm.headMarked x = false → moves (.qtry h o) popped (entry ++ dstPred o.c true))) ∧
    (ringed (if pops then o.d else o.a) → u.helper = true → Issues s c t h (.qtry h o) →
      exec (.qtry h o) s = .next (s.afterPut c t h (.qtry h o) (dstPred o.c false)))

/-- R23, R150, R152: arrivals with the thread's earlier accesses performed count at once, a wait for a reached phase completes with ERR,
`barrw` completes when its arrival is the last of the phase and waits otherwise, the team being looked at for a deadlock, and `bcfg` sets
the barrier anew; an unconfigured barrier or a count of zero is a misuse. -/
def Obligations.BarrierInstructionsArriveAndWait : Prop :=
  ∀ (h : Head) (o : XF) (s : State) (c : Issue) (t : Thread) (tm : Team),
    let u := t.atIssue s.now
    let k := (o.fn.extractLsb' 0 4).toNat
    let b := tm.barrier k
    let n := (srcWord s u o.b).toNat
    let a := (srcWord s u o.a).toNat
    let sets (i : Instr) (x : Barrier) (w : Thread) : Prop := Issues s c t h i →
      exec i s = .next (((s.atIssue t h i).setTeam { tm with barriers := tm.barriers.set k x }).setThread w)
    let misuse (i : Instr) : Prop := Issues s c t h i → exec i s = .next ((s.atIssue t h i).raiseFree c u 0x15)
    s.team? u.team = some tm → k < tm.barriers.length → b.phase < 2 ^ 16 →
      (n = 0 ∨ b.expected = 0 → misuse (.barr h o)) ∧
      (n ≠ 0 → b.expected ≠ 0 → s.unperformed u.id = false →
        (n < b.pending → sets (.barr h o) { b with pending := b.pending - n } (u.advance c h s.now)) ∧
        (n = b.pending → sets (.barr h o) { b with phase := (b.phase + 1) % 2 ^ 16, pending := b.expected } (u.advance c h s.now))) ∧
      (n ≠ 0 → b.expected ≠ 0 → s.unperformed u.id = true → Issues s c t h (.barr h o) →
        exec (.barr h o) s = .next (leasing h [] (.arrival k n) (s.atIssue t h (.barr h o)) c u)) ∧
      (b.expected = 0 → misuse (.bwait h o) ∧ misuse (.barrw h o)) ∧
      (b.expected ≠ 0 → (b.phase + 2 ^ 16 - a % 2 ^ 16) % 2 ^ 16 < 2 ^ 15 → Issues s c t h (.bwait h o) →
        exec (.bwait h o) s = .next (s.afterPut c t h (.bwait h o) (dstPred o.d b.err))) ∧
      (b.expected ≠ 0 → 2 ^ 15 ≤ (b.phase + 2 ^ 16 - a % 2 ^ 16) % 2 ^ 16 → Issues s c t h (.bwait h o) → exec (.bwait h o) s =
        .next ((s.becomes t h (.bwait h o) (u.wait c h s.now (.bwait k (a % 2 ^ 16) o.d.toNat))).checkTeam u.team)) ∧
      (b.expected ≠ 0 → s.unperformed u.id = false → b.pending = 1 →
        sets (.barrw h o) { b with phase := (b.phase + 1) % 2 ^ 16, pending := b.expected }
          ((u.put (dstPred o.d b.err)).advance c h s.now)) ∧
      (b.expected ≠ 0 → s.unperformed u.id = false → 1 < b.pending → Issues s c t h (.barrw h o) → exec (.barrw h o) s = .next
        ((((s.atIssue t h (.barrw h o)).setTeam { tm with barriers := tm.barriers.set k { b with pending := b.pending - 1 } }).setThread
          (u.wait c h s.now (.barrw k ((b.phase + 1) % 2 ^ 16) o.d.toNat))).checkTeam u.team)) ∧
      (b.expected ≠ 0 → s.unperformed u.id = true → Issues s c t h (.barrw h o) →
        exec (.barrw h o) s = .next (s.becomes t h (.barrw h o) (u.wait c h s.now (.barrwHeld k o.d)))) ∧
      (a = 0 ∨ 2 ^ 24 ≤ a → misuse (.bcfg h o)) ∧
      (a ≠ 0 → a < 2 ^ 24 → sets (.bcfg h o) ⟨0, a, a, false⟩ (u.advance c h s.now))

/-- R151, R153, R154: `mbwait` on a barrier object in scratchpad completes once its phase is reached and waits before; an object out of
alignment, in a marked sector or not set up faults at the word (the mark: notes/assumptions/63.md). `cvarm` arms a disarmed register with
its count and descriptor, and takes 0x1D for an armed one or a count outside 1 to 1024. `sign` of a register that awaits more than one
signature counts one off; the last one disarms the register and issues its `mma`, or faults for its descriptor or its barrier. -/
def Obligations.ObjectWaitsAndConvergence : Prop :=
  ∀ (h : Head) (o : XF) (s : State) (c : Issue) (t : Thread) (tm : Team) (f : Nat),
    let u := t.atIssue s.now
    let va := u.pair o.a.toNat
    let off := va.toNat - windowBase
    let v := leNat (readBytes tm.scratch off 8)
    let target := (srcWord s u o.b).toNat % 2 ^ 16
    let i := o.fn.toNat % 8
    let r := tm.converge.getD i ⟨0, [], 0⟩
    let n := (srcWord s u o.b).toNat
    let at_ (k : Nat) : Prop := inWindow va.toNat = true ∧ va.toNat + k ≤ windowBase + tm.scratchSize ∧ va.toNat % k = 0 ∧
      s.lockConflict u.team .scratch off k false = false ∧ tm.scratchPoison = []
    let look : Prop := s.mustFollow u.id ⟨.load 8 false [] 0, va, 1⟩ = false
    let d := desc512 r.desc
    let disarmed : Team := { tm with converge := tm.converge.set i ⟨0, [], 0⟩ }
    let barOk : Prop := ∀ j, mmaBar d = some j → (tm.barrier j).expected ≠ 0
    s.team? u.team = some tm →
      (inWindow va.toNat = true → va.toNat + 8 ≤ windowBase + tm.scratchSize → va.toNat % 8 ≠ 0 → look → Issues s c t h (.mbwait h o) →
        exec (.mbwait h o) s = .next ((s.atIssue t h (.mbwait h o)).raise c u 0x06 0 va)) ∧
      (inWindow va.toNat = true → va.toNat + 8 ≤ windowBase + tm.scratchSize → va.toNat % 8 = 0 → look →
        s.lockConflict u.team .scratch off 8 false = false → off / 32 ∈ tm.scratchPoison → Issues s c t h (.mbwait h o) →
        exec (.mbwait h o) s = .next ((s.atIssue t h (.mbwait h o)).raise c u 0x0F 0 va)) ∧
      (at_ 64 → s.mustFollow u.id ⟨.load 64 false [] 0, va, 0⟩ = false → n = 0 ∨ 1024 < n ∨ r.desc ≠ [] → Issues s c t h (.cvarm h o) →
        exec (.cvarm h o) s = .next ((s.atIssue t h (.cvarm h o)).raiseFree c u 0x1D)) ∧
      (r.count = 1 → Issues s c t h (.sign h o) →
        (mmaFault d tm.accTiles = some f → exec (.sign h o) s =
          .next (((s.atIssue t h (.sign h o)).setTeam disarmed).raise c u 0x01 0 (r.addr + BitVec.ofNat 64 f))) ∧
        (mmaFault d tm.accTiles = none → ¬barOk → exec (.sign h o) s =
          .next (((s.atIssue t h (.sign h o)).setTeam disarmed).raiseFree c u 0x15)) ∧
        (mmaFault d tm.accTiles = none → barOk → s.unperformed u.id = false → s.locksFree u (mmaWants d) = true → ∃ v : State,
          exec (.sign h o) s = .next (v.setThread (u.advance c h s.now)) ∧ v.mem = s.mem ∧ v.ops = s.ops ∧
          v.teams = (s.setTeam disarmed).teams ∧
          v.engines.ops = s.engines.ops ++
            [(⟨s.nextId, u.team, tm.launch, u.ctx, u.col, u.core, mmaBar d, r.addr, .mma d, s.now, none, none, false⟩ : EngOp)] ∧
          v.locks = s.locks ++ (mmaWants d).map fun (x : Want) => ⟨u.col, u.core, u.team, s.nextId, x.space, x.lo, x.hi, x.write⟩)) ∧
      (at_ 8 → look → v / 2 ^ 24 % 2 ^ 24 ≠ 0 → (v / 2 ^ 48 + 2 ^ 16 - target) % 2 ^ 16 < 2 ^ 15 → Issues s c t h (.mbwait h o) →
        exec (.mbwait h o) s = .next (s.becomes t h (.mbwait h o) (u.advance c h s.now))) ∧
      (at_ 8 → look → v / 2 ^ 24 % 2 ^ 24 ≠ 0 → 2 ^ 15 ≤ (v / 2 ^ 48 + 2 ^ 16 - target) % 2 ^ 16 → Issues s c t h (.mbwait h o) →
        exec (.mbwait h o) s = .next (s.becomes t h (.mbwait h o) (u.wait c h s.now (.mbwait va target)))) ∧
      (at_ 8 → look → v / 2 ^ 24 % 2 ^ 24 = 0 → Issues s c t h (.mbwait h o) →
        exec (.mbwait h o) s = .next ((s.atIssue t h (.mbwait h o)).raiseFree c u 0x15)) ∧
      (at_ 64 → s.mustFollow u.id ⟨.load 64 false [] 0, va, 0⟩ = false → 0 < n → n ≤ 1024 → r.desc = [] →
        i < tm.converge.length → Issues s c t h (.cvarm h o) → exec (.cvarm h o) s = .next (((s.atIssue t h (.cvarm h o)).setTeam
          { tm with converge := tm.converge.set i ⟨n, readBytes tm.scratch off 64, va⟩ }).setThread (u.advance c h s.now))) ∧
      (1 < r.count → s.unperformed u.id = false → Issues s c t h (.sign h o) → exec (.sign h o) s = .next
        (((s.atIssue t h (.sign h o)).setTeam { tm with converge := tm.converge.set i { r with count := r.count - 1 } }).setThread
          (u.advance c h s.now))) ∧
      (r.count = 0 → Issues s c t h (.sign h o) → exec (.sign h o) s = .next ((s.atIssue t h (.sign h o)).raiseFree c u 0x1D))

/-! ## Threads (R126, R155 to R161, R217 to R222) -/

/-- R126, R155, R156, R183: `spawn` adds its request to the bin of its entry, or opens the lowest free bin with the team's timer, and
does nothing in a helper thread; with accesses unperformed or no bin for it, it waits. `exit` ends the thread when its slots are clear,
inside an ordered region when its surface writes are performed, and when its column has taken the records of its pending faults; it waits
otherwise, and a faulting mask word after it comes first (R72, R413). -/
def Obligations.SpawnBinsAndExit : Prop :=
  ∀ (h : Head) (o : XF) (s : State) (c : Issue) (t : Thread) (tm : Team) (b : Bin) (k : Nat),
    let u := t.atIssue s.now
    let entry := u.pair o.a.toNat
    let args : List Word := if isReg o.b then srcRange u o.b 4 else [0, 0, 0, 0]
    let req : SpawnRequest := ⟨u.team, args⟩
    s.team? u.team = some tm →
      (u.helper = true → Issues s c t h (.spawn h o) → exec (.spawn h o) s = .next (s.becomes t h (.spawn h o) (u.advance c h s.now))) ∧
      (u.helper = false → s.unperformed u.id = false → s.bin? u.col u.core u.ctx entry = some b → b.requests.length < 31 →
        Issues s c t h (.spawn h o) → ∃ v : State, exec (.spawn h o) s = .next (v.setThread (u.advance c h s.now)) ∧
          v.threads = (s.atIssue t h (.spawn h o)).threads ∧ v.bins = s.bins.map fun (x : Bin) =>
            if x.col = b.col ∧ x.core = b.core ∧ x.index = b.index then { b with requests := b.requests ++ [req] } else x) ∧
      (u.helper = false → s.unperformed u.id = false → s.bin? u.col u.core u.ctx entry = none → k < 16 →
        (∀ x ∈ s.bins, x.col = u.col → x.core = u.core → x.index ≠ k) →
        (∀ j < k, ∃ x ∈ s.bins, x.col = u.col ∧ x.core = u.core ∧ x.index = j) → Issues s c t h (.spawn h o) → ∃ v : State,
          exec (.spawn h o) s = .next (v.setThread (u.advance c h s.now)) ∧ v.threads = (s.atIssue t h (.spawn h o)).threads ∧
          v.bins = s.bins ++ [⟨u.col, u.core, k, u.ctx, entry, [req], s.now + tm.binTimer, false⟩]) ∧
      (u.helper = false → s.unperformed u.id = true → Issues s c t h (.spawn h o) →
        exec (.spawn h o) s = .next (s.becomes t h (.spawn h o) (u.wait c h s.now (.spawnRoom entry args)))) ∧
      (u.helper = false → s.unperformed u.id = false → s.bin? u.col u.core u.ctx entry = none →
        (∀ j < 16, ∃ x ∈ s.bins, x.col = u.col ∧ x.core = u.core ∧ x.index = j) → Issues s c t h (.spawn h o) → exec (.spawn h o) s =
          .next ((s.becomes t h (.spawn h o) (u.wait c h s.now (.spawnRoom entry args))).checkTeam u.team)) ∧
      (Issues s c t h (.exit h o) →
        let w := u.wait c h s.now .exit
        let p := (s.atIssue t h (.exit h o)).reportPending w
        (c.badMask h = true → exec (.exit h o) s = .next (s.becomes t h (.exit h o) (u.advance c h s.now))) ∧
        (c.badMask h = false → (s.slotsClear u.id = false ∨ (u.ordered = true ∧ s.writesWait u.id = true)) →
          exec (.exit h o) s = .next (s.becomes t h (.exit h o) w)) ∧
        (c.badMask h = false → s.slotsClear u.id = true → (u.ordered = true → s.writesWait u.id = false) →
          (p.2 = [] → p.1.recordsOver u.col = false → u.id < s.nextId →
            ∃ v : State, exec (.exit h o) s = .next v ∧ ∀ x ∈ v.threads, x.id ≠ u.id) ∧
          ((p.2 ≠ [] ∨ p.1.recordsOver u.col = true) →
            exec (.exit h o) s = .next (p.1.setThread { w with pending := p.2 }))))

/-- R157 to R160: `refill` takes the next item while there is one; `blkget` waits in its lane's line and `blkput` gives the highest blocks
back with their values gone; `yield` marks the thread at the end of its clause; `nap` of zero goes on and another waits that long; `sbw` goes on when its slots
are clear and waits otherwise. -/
def Obligations.ThreadControlInstructions : Prop :=
  ∀ (h : Head) (o : XF) (s : State) (c : Issue) (t : Thread) (tm : Team),
    let u := t.atIssue s.now
    let a := (srcWord s u o.a).toNat
    let n := (o.fn.extractLsb' 0 3).toNat
    let m := o.fn.extractLsb' 0 8
    let lo := 16 + 16 * (u.allot - n)
    let stays (i : Instr) (w : Wait) : Prop := Issues s c t h i → exec i s = .next (s.becomes t h i (u.wait c h s.now w))
    let goesOn (i : Instr) : Prop := Issues s c t h i → exec i s = .next (s.becomes t h i (u.advance c h s.now))
    (s.team? u.team = some tm → Issues s c t h (.refill h o) →
      (tm.item < tm.itemEnd → exec (.refill h o) s = .next (((s.atIssue t h (.refill h o)).setTeam { tm with item := tm.item + 1 }).setThread
        (({ u with item := tm.item }.put (dstPred o.d true)).advance c h s.now))) ∧
      (¬tm.item < tm.itemEnd → exec (.refill h o) s = .next (s.afterPut c t h (.refill h o) (dstPred o.d false)))) ∧
    (7 < u.allot + n → Issues s c t h (.blkget h o) →
      exec (.blkget h o) s = .next ((s.atIssue t h (.blkget h o)).raiseFree c u 0x03)) ∧
    (u.allot + n ≤ 7 → Issues s c t h (.blkget h o) → exec (.blkget h o) s =
      .next (({ s.atIssue t h (.blkget h o) with blkgets := s.blkgets ++ [(⟨u.col, u.core, u.lane, u.id⟩ : BlkRequest)] }.setThread
        (u.wait c h s.now (.blkget n))).checkLane u.col u.core u.lane)) ∧
    (u.allot + n ≤ 7 → n ≤ s.blockRoom u.col u.core u.lane (s.claimsOf u.team) → (∀ x ∈ s.blkgets, ¬(x.col = u.col ∧ x.core = u.core ∧ x.lane = u.lane)) →
      Issues s c t h (.blkget h o) → ∃ v : State, exec (.blkget h o) s = .next (v.setThread (u.wait c h s.now (.blkget n))) ∧
        v.blkgets = s.blkgets ++ [⟨u.col, u.core, u.lane, u.id⟩] ∧ v.threads = (s.atIssue t h (.blkget h o)).threads) ∧
    (u.allot < n → Issues s c t h (.blkput h o) →
      exec (.blkput h o) s = .next ((s.atIssue t h (.blkput h o)).raiseFree c u 0x03)) ∧
    (n ≤ u.allot → cellWf u.regs = true → s.leased u.id ((List.range (16 * n)).map (lo + ·)) = false → Issues s c t h (.blkput h o) →
      ∃ w : Thread, exec (.blkput h o) s = .next (s.becomes t h (.blkput h o) w) ∧ w.allot = u.allot - n ∧ w.pc = (c.next h).1 ∧
        w.preds = u.preds ∧ ∀ k, w.reg k = if lo ≤ k ∧ k < lo + 16 * n then 0 else u.reg k) ∧
    (Issues s c t h (.yield h o) → ∃ w : Thread, exec (.yield h o) s = .next (s.becomes t h (.yield h o) w) ∧
      w.pc = (c.next h).1 ∧ w.head = (c.next h).2 ∧ w.block = none ∧ w.regs = u.regs ∧ w.preds = u.preds ∧
      (if c.last h then w.yieldMark = true else w.yieldIn = some c.clause.head)) ∧
    (a = 0 → goesOn (.nap h o)) ∧ (a ≠ 0 → stays (.nap h o) (.nap (s.now + a))) ∧
    (u.maskFault m = false → s.maskClear u.id m = true → goesOn (.sbw h o)) ∧
    (u.maskFault m = false → s.maskClear u.id m = false → stays (.sbw h o) (.sbw m))

/-- R24, R68, R124, R133, R150, R156, R160, R164, R375: the events of a thread between its words. A written destination ends its lease; a
deferred fault found becomes pending, and is delivered at a clause boundary; a waiting trap enters its handler once the slots are clear;
a wait that is over completes; an escalation's record is posted when its queue has room. -/
def Obligations.ThreadEventsBetweenWords : Prop :=
  ∀ (s : State) (u : Thread) (o : Op) (b : Block) (x : Trap) (f : PendingFault) (k : Hold) (cause sub : Nat) (addr : Option DWord) (mem : Bool)
      (ws : List (Nat × Word)) (n : Nat) (y : Word),
    s.thread? u.id = some u → cellWf u.regs = true →
    let threads (w : Thread) : List Thread := s.threads.map fun v => if v.id = u.id then w else v
    let completes (w : Thread) : Prop := w.pc = b.next ∧ w.head = b.nextHead ∧ w.block = none ∧ w.regs = (u.settle s.now).regs
    (s.ops = [o] → o.tid = u.id →
      (o.stage = .ready [(n, y)] false → ∃ t : State, ∃ w : Thread, exec (.destinationWritten o.id) s = .next t ∧
        t.threads = threads w ∧ t.ops = [] ∧ (∀ j, w.reg j = if j = n then y else u.reg j) ∧ w.preds = u.preds ∧ w.pc = u.pc ∧
        t.mem = s.mem) ∧
      (o.stage = .ready ws false → ∃ t : State, exec (.destinationWritten o.id) s = .next t ∧ t.ops = [] ∧ t.mem = s.mem) ∧
      (o.stage = .failed cause sub addr mem → u.pending = [] → ∃ t : State, exec (.deferredFaultFound o.id) s = .next t ∧ t.ops = [] ∧
        t.threads = threads { u with pending := [⟨cause, sub, addr.getD o.pc, o.pc, o.dst, o.slot, o.id, mem⟩] })) ∧
    (s.deliveryDue u = true → u.pending = [f] → s.slotsClear u.id = true → u.inHandler = false → ∃ t : State, ∃ w : Thread,
      exec (.deferredFaultDelivery u.id) s = .next t ∧ t.threads = threads w ∧ w.pending = [] ∧ w.inHandler = true ∧ w.trapPc = u.pc ∧
      w.trapAddr = f.addr ∧ w.trapInfo = infoWord f.cause f.sub true ∧ w.pc = (s.context u.ctx).trapEntry) ∧
    (u.trap = some x → s.slotsClear u.id = true → u.parked = false → u.inHandler = false → ∃ t : State, ∃ w : Thread,
      exec (.trapHandlerEntry u.id) s = .next t ∧ t.threads = threads w ∧ w.inHandler = true ∧ w.trapPc = x.pc ∧ w.trapAddr = x.addr ∧
      w.trapInfo = infoWord x.cause x.sub x.deferred ∧ w.pc = (s.context u.ctx).trapEntry ∧ w.trap = none) ∧
    (u.hold = some k → k.posted = false → s.ringRoom (field (s.context u.ctx).desc 512 64) (field (s.context u.ctx).desc 56 4) = true →
      ∃ t : State, ∃ w : Thread, exec (.escalationRecordDelayed u.id) s = .next t ∧ t.thread? u.id = some w ∧
        w.hold = some { k with posted := true }) ∧
    (u.block = some b → u.parked = false →
      (∀ till, b.wait = .nap till → till ≤ s.now → ∃ t : State, ∃ w : Thread,
        exec (.napExpiry u.id) s = .next t ∧ t.threads = threads w ∧ completes w) ∧
      (∀ m, b.wait = .sbw m → u.maskFault m = false → s.maskClear u.id m = true → ∃ t : State, ∃ w : Thread,
        exec (.blockingInstructionComplete u.id) s = .next t ∧ t.threads = threads w ∧ completes w) ∧
      (∀ tm j target pd, b.wait = .bwait j target pd ∨ b.wait = .barrw j target pd → s.team? u.team = some tm →
        phaseReached (tm.barrier j).phase target = true → ∃ t : State, ∃ w : Thread,
          exec (.blockingInstructionComplete u.id) s = .next t ∧ t.threads = threads w ∧ completes w ∧
          (pd < 7 → w.pred pd = (tm.barrier j).err)) ∧
      (∀ va ord, b.wait = .fence va ord → u.accessFault = false → s.unperformed u.id = false → inWindow va.toNat = true →
        ∃ t : State, ∃ w : Thread, exec (.blockingInstructionComplete u.id) s = .next t ∧ t.threads = threads w ∧ completes w))

/-- R149, R158, R217, R220, R222, R262: the first waiter of a ring that can move its entry does; the head request of a lane is served once the
pool holds its blocks; a bin whose timer has run out gives its requests threads; a team with nothing left to run is retired; a team
with a thread that is not blocked, or with an arrival outstanding, meets no deadlock. R206 to
R210: a pen with a ready thread of no quad, alone on it, forms a stroke of that thread at its program counter; where a page of its clause
has no valid leaf, the thread waits and no stroke is formed (R352). -/
def Obligations.TeamEventsAndStrokeFormation : Prop :=
  (∀ (s : State) (u : Thread) (b : Block) (tm : Team) (r : Ring) (q n : Nat) (ws : List Word) (dst : List Nat) (g : BlkRequest)
       (bin : Bin) (req : SpawnRequest) (slot : Nat),
     (s.team? tm.id = some tm → tm.ring q = some r → q < tm.queues.length → s.nextServed r = some u.id → s.thread? u.id = some u →
       u.block = some b →
       let served : List Nat := r.waiters.filter (· ≠ u.id)
       (b.wait = .qpush q ws → exec (.queueWaiterServed tm.id q) s = .next ((s.setTeam
         { tm.setRing q { r with waiters := served, tail := (r.tail + 1) % r.slots, count := r.count + 1 } with
           scratch := writeBytes tm.scratch (r.offset + r.entry * r.tail) (bytesOfWords ws) }).setThread (u.complete s.now []))) ∧
       (b.wait = .qpop q dst → tm.headMarked r = false → exec (.queueWaiterServed tm.id q) s = .next ((s.setTeam
         (tm.setRing q { r with waiters := served, head := (r.head + 1) % r.slots, count := r.count - 1 })).setThread (u.complete s.now
           ((dst.zip (loadWords r.entry false (readBytes tm.scratch (r.offset + r.entry * r.head) r.entry))).map fun p => .reg p.1 p.2))))) ∧
     (s.blkgets = g :: [] → g.tid = u.id → s.thread? u.id = some u → cellWf u.regs = true → u.block = some b → b.wait = .blkget n →
       (∀ f ∈ u.flights, s.now < f.ready) →
       (n ≤ s.blockRoom g.col g.core g.lane (s.claimsOf u.team) → ∃ t : State, ∃ w : Thread, exec (.blkgetServed g.col g.core g.lane) s = .next t ∧ t.blkgets = [] ∧
         t.thread? u.id = some w ∧ w.allot = u.allot + n ∧ w.pc = b.next ∧ w.block = none ∧
         (∀ k, w.reg k = if 16 + 16 * u.allot ≤ k ∧ k < 16 + 16 * u.allot + 16 * n then 0 else u.reg k)) ∧
       (s.blockRoom g.col g.core g.lane (s.claimsOf u.team) < n → exec (.blkgetServed g.col g.core g.lane) s = .next s)) ∧
     (s.bins = [bin] → bin.requests = [req] → bin.expires ≤ s.now → bin.released = false → s.team? req.team = some tm →
       tm.marked = none → 0 < s.slotRoom bin.col bin.core 0 (s.binClaims bin) → s.lowestSlot bin.col bin.core 0 = some slot → ∃ t : State, ∃ w : Thread,
         exec (.binTimerExpiry bin.col bin.core bin.index) s = .next t ∧ t.bins = [] ∧ t.threads = s.threads ++ [w] ∧ w.lane = 0 ∧
         w.slot = slot ∧ w.col = bin.col ∧ w.core = bin.core ∧ w.pc = bin.entry ∧ w.allot = 0 ∧ w.kind = .spawned ∧
         ∀ k < 16, w.reg k = req.args.getD k 0) ∧
     (s.team? tm.id = some tm → s.teamDone tm = true → ∃ t : State, exec (.teamRetirement tm.id) s = .next t ∧
       t.teams = s.teams.filter (·.id ≠ tm.id) ∧ (∀ l ∈ t.locks, l.team ≠ tm.id) ∧ t.mem = s.mem ∧
       ((∀ x ∈ s.bins, x.released = false) → t.threads = s.threads ∧ t.bins = s.bins)) ∧
     (s.team? tm.id = some tm → ((∃ w ∈ s.threads, w.team = tm.id ∧ w.block = none) ∨ s.arrivalDue tm.id = true) →
       s.checkTeam tm.id = s)) ∧
  (∀ (s : State) (u : Thread) (p : Pen),
     s.power = .on → s.strokes = [] → s.threads = [u] → u.col = p.col → u.core = p.core → u.lane / 32 = p.pen → u.quad = none →
     s.ready u = true →
     (∀ va f, s.fetchClause u u.head = .page va f → ∃ t : State, ∃ k : Nat, exec (.strokeFormation p.col p.core p.pen) s = .next t ∧
       t.strokes = [] ∧ t.threads = [{ u with block := some { wait := .page k va 1, since := s.now, next := u.pc, nextHead := u.head, mask := u.mask } }]) ∧
     ((∀ va f, s.fetchClause u u.head ≠ .page va f) → ∃ t : State, exec (.strokeFormation p.col p.core p.pen) s = .next t ∧
       t.strokes = [{ id := s.nextId, col := p.col, core := p.core, pen := p.pen, ctx := u.ctx, members := [u.id], head := u.head
                      pc := u.pc, clause := none, formed := s.now }] ∧
       t.threads = [{ u with yieldMark := false }]))

/-! ## Surfaces (R166 to R178, R244 to R253) -/

/-- R167, R168, R170 to R178: a surface instruction whose tiles are resident completes: a load gives the converted channels or the raw
words, and zeros outside; a store converts into the texel and writes nothing outside; an atomic returns the old word and writes the new
one; `tex` nearest gives the texel its coordinates lie in, where the core's texture caches hold no line of the surface; `sffence`
empties them, once the thread's writes are performed; `texq` describes the surface; a bad handle or a wrong format is the surface fault
with its subcode; a helper thread's store does nothing and its atomic gives 0. -/
def Obligations.SurfaceInstructionsReadAndWrite : Prop :=
  ∀ (h : Head) (o : XF) (s : State) (c : Issue) (t : Thread) (f : Surface),
    let u := t.atIssue s.now
    let hn := srcWord s u o.a
    let fn := o.fn.toNat
    let n := fn % 4 + 1
    let raw : Prop := fn / 4 % 2 = 1
    let coords := srcRange u o.b 4
    let at_ (k : Nat) : Nat := (u.reg (o.b.toNat + k)).toNat
    let b := f.texel (at_ 0) (at_ 1) (at_ 2) (at_ 3)
    let place := f.place (at_ 0) (at_ 1) (at_ 2) (at_ 3)
    let inside : Prop := at_ 0 < f.width ∧ at_ 1 < f.height ∧ at_ 2 < f.layers ∧ at_ 3 < f.samples
    let clean : Prop := f.marked (at_ 0) (at_ 1) (at_ 2) (at_ 3) = false
    let data := srcRange u o.c n
    let aop := fn / 128 % 16
    let m := leNat b
    let y0 : Word := if aop = 7 then u.reg o.c.toNat else srcWord s u o.c
    let new := if aop = 7 then (if m = y0.toNat then (u.reg (o.c.toNat + 1)).toNat else m) else atomicValue aop (sfAty f.fmt) m y0.toNat
    let tn := fn / 32 % 4 + 1
    let gives (i : Instr) (dst : List Nat) (vals : List Word) (texels : Cells 8) : Prop := Issues s c t h i →
      ∃ v : State, ∃ g : Surface, exec i s = .next (leasingReady h dst vals v c u) ∧ v.mem = s.mem ∧
        v.surface? u.ctx hn.toNat = some g ∧ g.texels = texels ∧ g.entry = f.entry
    let faults (i : Instr) (sub : Nat) : Prop := Issues s c t h i →
      exec i s = .next ((s.atIssue t h i).raise c u 0x12 sub (hn.zeroExtend 64))
    let named (i : Instr) : Prop := (s.surface? u.ctx hn.toNat = none ∨ 65536 ≤ hn.toNat) → faults i 1
    let sample (form : Nat) : TexelAccess := ⟨form, hn.toNat, coords, fn, [], f.fmt⟩
    let uncached : Prop := ∀ x ∈ s.caches.textures, ¬(x.col = u.col ∧ x.core = u.core ∧ x.index = f.index)
    let samples (i : Instr) (dst : List Nat) : Prop := Issues s c t h i →
      ∃ v : State, ∃ vals : List Word, exec i s = .next (leasingReady h dst vals v c u) ∧ vals.length = dst.length ∧ v.mem = s.mem
    named (.sfld h o) ∧ named (.tex h o) ∧ named (.texg h o) ∧ named (.texq h o) ∧
    (u.helper = false → named (.sfst h o) ∧ named (.sfatom h o)) ∧
    (u.helper = true → (Issues s c t h (.sfst h o) → exec (.sfst h o) s = .next (s.becomes t h (.sfst h o) (u.advance c h s.now))) ∧
      (Issues s c t h (.sfatom h o) → exec (.sfatom h o) s = .next (s.afterLeased c t h (.sfatom h o) (wordRegs o.d) [0]))) ∧
    (s.writesWait u.id = false → Issues s c t h (.sffence h o) → ∃ v : State,
      exec (.sffence h o) s = .next (v.setThread (u.advance c h s.now)) ∧ v.mem = s.mem ∧ v.raster = s.raster ∧
      v.caches.textures = s.caches.textures.filter fun x => !(x.col = u.col && x.core = u.core)) ∧
    (s.writesWait u.id = true → Issues s c t h (.sffence h o) →
      exec (.sffence h o) s = .next (s.becomes t h (.sffence h o) (u.wait c h s.now (.surfaceWrites false)))) ∧
    (hn.toNat < 65536 → s.surface? u.ctx hn.toNat = some f → f.spilled = [] → s.texelBehind u.id hn.toNat = false →
      (¬raw → inside → clean → gives (.sfld h o) (rangeRegs o.d n) ((texelWords f.fmt b).take n) f.texels) ∧
      (raw → n = rawCount f.tb → inside → clean → gives (.sfld h o) (rangeRegs o.d n) (rawWords b) f.texels) ∧
      (raw → n ≠ rawCount f.tb → faults (.sfld h o) 3) ∧
      ((raw → n = rawCount f.tb) → ¬inside → gives (.sfld h o) (rangeRegs o.d n) (List.replicate n 0) f.texels) ∧
      (u.helper = false → (∀ k ∈ s.locks, k.team ≠ u.team) →
        (¬raw → inside → gives (.sfst h o) [] []
          (f.write place (storeTexel (channels f.fmt) (decide (fn / 8 % 2 = 1)) data b)).texels) ∧
        (raw → n = rawCount f.tb → inside → gives (.sfst h o) [] [] (f.write place ((bytesOfWords data).take f.tb)).texels) ∧
        ((raw → n = rawCount f.tb) → ¬inside → gives (.sfst h o) [] [] f.texels) ∧
        (sfatomOk f.fmt aop = true → inside → clean →
          gives (.sfatom h o) (wordRegs o.d) [BitVec.ofNat 32 m] (f.write place (leBytes 4 new)).texels) ∧
        (sfatomOk f.fmt aop = true → ¬inside → gives (.sfatom h o) (wordRegs o.d) [0] f.texels)) ∧
      (u.helper = false → sfatomOk f.fmt aop = false → faults (.sfatom h o) 2) ∧
      (isIntFmt f.fmt = true → faults (.tex h o) 2) ∧
      (isIntFmt f.fmt = false → fn % 2 = 0 →
        let cu := rat32 (u.reg o.b.toNat)
        let cv := rat32 (u.reg (o.b.toNat + 1))
        let x := (cu * f.width).floor.toNat
        let y := (cv * f.height).floor.toNat
        let lay := min (at_ 2) (f.layers - 1)
        0 ≤ cu → cu < 1 → 0 ≤ cv → cv < 1 → 0 < f.width → 0 < f.height → f.marked x y lay 0 = false → uncached →
        gives (.tex h o) (rangeRegs o.d tn) ((texelWords f.fmt (f.texel x y lay 0)).take tn) f.texels) ∧
      (isIntFmt f.fmt = false → (∀ p ∈ (sample 3).touches f, f.marked p.1 p.2.1 p.2.2.1 p.2.2.2 = false) →
        samples (.tex h o) (rangeRegs o.d tn) ∧
        (fn % 2 = 1 → uncached → gives (.tex h o) (rangeRegs o.d tn) ((sample 3).sample f) f.texels)) ∧
      ((∀ p ∈ (sample 4).touches f, f.marked p.1 p.2.1 p.2.2.1 p.2.2.2 = false) →
        samples (.texg h o) (rangeRegs o.d 4) ∧
        (uncached → gives (.texg h o) (rangeRegs o.d 4) ((sample 4).sample f) f.texels)) ∧
      (Issues s c t h (.texq h o) → exec (.texq h o) s = .next (s.afterLeased c t h (.texq h o) (rangeRegs o.d 4)
        [BitVec.ofNat 32 f.width, BitVec.ofNat 32 f.height, BitVec.ofNat 32 f.layers, BitVec.ofNat 32 (f.fmt * 256 + f.samples)])))

/-- R245, R247 to R249, R252, R253: a valid entry is taken into use, cleared, once there is room for it, and refused when there is none;
an invalid one is not in use; an entry in use keeps its texels when only other fields change, and takes the clear value with CLR; an
invalidated entry is out of use; a spill takes the victim's tile out of the Vellum and a refill brings one back once there is room. -/
def Obligations.SurfaceEntriesAndTiles : Prop :=
  ∀ (s : State) (ctx index tile : Nat) (e : BitVec 512) (f : Surface),
    let shows (i : Instr) (p : Surface → Prop) : Prop := ∃ t : State, ∃ g : Surface, exec i s = .next t ∧
      t.surface? ctx index = some g ∧ p g
    let gone (i : Instr) : Prop := ∃ t : State, exec i s = .next t ∧ t.surface? ctx index = none
    let fresh : Surface := { ctx := ctx, index := index, entry := acceptedEntry e, texels := [], poison := [], spilled := [], used := [] }
    let kept : Surface := { f with entry := acceptedEntry e }
    let wiped (g : Surface) : Prop := g.texels = (kept.cleared true).texels ∧ g.entry = kept.entry ∧
      (f.spilled = [] → g = kept.cleared true)
    (s.entryWritten ctx index e = false → exec (.surfaceEntryValid ctx index e) s = .next s) ∧
    (s.entryWritten ctx index e = true → surfaceEntryOk e = false → gone (.surfaceEntryValid ctx index e)) ∧
    (s.entryUsable ctx index e = true → s.surface? ctx index = none →
      ((∀ col < 32, s.roomFor (fresh.cleared (e.getLsbD 30)) col = true) →
        shows (.surfaceEntryValid ctx index e) (· = fresh.cleared (e.getLsbD 30))) ∧
      ((∃ col < 32, s.roomFor (fresh.cleared (e.getLsbD 30)) col = false) → (∀ col, s.victim col = none) →
        gone (.surfaceEntryValid ctx index e))) ∧
    (s.surface? ctx index = some f →
      (s.entryUsable ctx index e = true → sameShape f.entry e = true →
        (e.getLsbD 30 = false → shows (.surfaceEntryValid ctx index e) (· = kept)) ∧
        (e.getLsbD 30 = true → shows (.surfaceEntryValid ctx index e) wiped ∧ shows (.surfaceEntryClear ctx index e) wiped ∧
          (field (acceptedEntry e) 256 128 = 0 → (kept.cleared true).texels = [] ∧ (kept.cleared true).poison = []))) ∧
      (s.victim (f.tileColumn tile) = some (f, tile) →
        (∃ g ∈ s.raster.surfaces, ∃ k ∈ g.spilled, g.tileColumn k = f.tileColumn tile ∧ s.tileWanted g k = true ∧
          s.roomFor (g.refilled k) (f.tileColumn tile) = false) → s.recordsFull (f.tileColumn tile) = false →
        shows (.blotterSpill ctx index tile) (fun g => g.spilled = tile :: f.spilled ∧ g.texels = f.texels)) ∧
      (tile ∈ f.spilled → s.roomFor (f.refilled tile) (f.tileColumn tile) = true → s.recordsFull (f.tileColumn tile) = false →
        (∀ o ∈ s.ops, ∀ a, o.stage ≠ .texel a) →
        shows (.tileRefill ctx index tile) (fun g => g.spilled = f.spilled.filter (· ≠ tile) ∧ g.texels = f.texels))) ∧
    gone (.surfaceEntryInvalidate ctx index)

/-! ## The raster path (R168, R179 to R183, R254 to R268) -/

/-- R168, R179 to R183: `pemit` hands a primitive to setup, or marks its index when the primitive is discarded; `pxout` replaces the
ticket's values of a target or its depth; `pxkill` ends the ticket as killed; `pxord` enters the ordered region when the pixel's earlier
fragments have left theirs, waits before, and leaves it once the thread's surface writes are performed, as `pxkill` does inside it; in
another kind of thread each is the surface fault with subcode 4. -/
def Obligations.PixelInstructionsOnTickets : Prop :=
  ∀ (h : Head) (o : XF) (s : State) (c : Issue) (t : Thread) (tm : Team) (l : Launch) (k : Nat) (tk : Ticket),
    let u := t.atIssue s.now
    let n := o.fn.toNat % 16
    let i := (srcWord s u o.c).toNat
    let p : Primitive :=
      { seq := l.draw % 2 ^ 24 * 2 ^ 24 + (256 * tm.index + i) % 2 ^ 24, launch := tm.launch, nattr := n
        verts := (List.range 3).map fun v => (List.range (4 + n)).map fun j => u.reg (o.a.toNat + v * (4 + n) + j) }
    let wrong (i : Instr) : Prop := Issues s c t h i → ∃ a, exec i s = .next ((s.atIssue t h i).free.2.raise c u 0x12 4 a)
    let advances (i : Instr) (w : Thread) (tickets : List Ticket) : Prop := Issues s c t h i → ∃ v : State,
      exec i s = .next (v.setThread (w.advance c h s.now)) ∧ v.raster.tickets = tickets ∧ v.mem = s.mem ∧ v.teams = s.teams
    let swap (x : Ticket) : List Ticket := s.raster.tickets.map fun y => if y.id = x.id then x else y
    let tgt := o.fn.toNat % 8
    let held : Prop := u.ticket = some k ∧ s.raster.tickets.find? (fun y => y.id = k && y.state = .waiting) = some tk ∧ tk.id = k
    (s.team? u.team = some tm → tm.kind ≠ .geometry → wrong (.pemit h o)) ∧
    (u.kind ≠ .pixel → wrong (.pxout h o) ∧ wrong (.pxkill h o) ∧ wrong (.pxord h o)) ∧
    (s.team? u.team = some tm → tm.kind = .geometry → s.launch? tm.launch = some l → i < 256 → i ∉ tm.emitted →
      s.unperformed u.id = false → Issues s c t h (.pemit h o) → ∃ v : State,
        v.teams = (s.setTeam { tm with emitted := i :: tm.emitted }).teams ∧ v.mem = s.mem ∧
        (p.discarded (o.fn.toNat / 16 % 4) = false →
          exec (.pemit h o) s = .next (v.setThread (u.wait c h s.now (.setup i p))) ∧ v.raster = s.raster) ∧
        (p.discarded (o.fn.toNat / 16 % 4) = true → exec (.pemit h o) s = .next (v.setThread (u.advance c h s.now)) ∧
          v.raster.setups = s.raster.setups.map fun x => if x.team = tm.id then { x with slots := x.slots ++ [(i, none)] } else x)) ∧
    (u.kind = .pixel →
      (u.ticket = none → advances (.pxout h o) u s.raster.tickets ∧ advances (.pxord h o) u s.raster.tickets) ∧
      (held → o.fn.toNat / 8 % 2 = 0 →
        advances (.pxout h o) u (swap { tk with outs := (tgt, srcRange u o.a 4) :: tk.outs.filter (·.1 ≠ tgt) })) ∧
      (held → o.fn.toNat / 8 % 2 = 1 →
        advances (.pxout h o) u (swap { tk with depth := some (BitVec.ofNat 32 (satUnit .f32 (srcWord s u o.a).toNat)) })) ∧
      (u.ticket = some k → (u.ordered = true → s.writesWait u.id = false) →
        advances (.pxkill h o) { u with ordered := false } (s.raster.tickets.map fun y =>
          if y.id = k ∧ y.state = .waiting then { y with state := .killed, left := y.left || u.ordered } else y)) ∧
      (u.ticket = some k → u.ordered = true → s.writesWait u.id = true → Issues s c t h (.pxkill h o) → ∃ v : State,
        exec (.pxkill h o) s = .next (v.setThread (u.wait c h s.now (.surfaceWrites true))) ∧
        v.raster.tickets = s.raster.tickets.map fun y => if y.id = k ∧ y.state = .waiting then { y with state := .killed } else y) ∧
      (u.ticket = some k → (u.ordered = true ↔ o.fn.toNat % 2 = 0) → advances (.pxord h o) u s.raster.tickets) ∧
      (held → o.fn.toNat % 2 = 0 → u.ordered = false →
        (s.regionFree k = true → advances (.pxord h o) { u with ordered := true } (swap { tk with left := false })) ∧
        (s.regionFree k = false → Issues s c t h (.pxord h o) →
          exec (.pxord h o) s = .next (s.becomes t h (.pxord h o) (u.wait c h s.now .pxord)))) ∧
      (u.ticket = some k → o.fn.toNat % 2 = 1 → u.ordered = true →
        (s.writesWait u.id = false → advances (.pxord h o) { u with ordered := false }
          (s.raster.tickets.map fun y => if y.id = k then { y with left := true } else y)) ∧
        (s.writesWait u.id = true → Issues s c t h (.pxord h o) →
          exec (.pxord h o) s = .next (s.becomes t h (.pxord h o) (u.wait c h s.now (.surfaceWrites true))))))

/-- R180, R256 to R265, R268: setup takes a waiting primitive; the next primitive of a batch goes to the columns its box meets; the
rasterizer issues a ticket for every covered pixel of the next quad and passes over a primitive without one, in a context that may run
(R383); a nib unit acts on the
lowest ticket of a pixel, writing a passing sample; a draw with nothing left completes. -/
def Obligations.RasterPathEvents : Prop :=
  ∀ (s : State) (u : Thread) (b : Block) (su : Setup) (i col x y cursor : Nat) (p : Primitive) (l : Launch) (q : Inbound)
      (rest : List Primitive) (cover : List Nat) (tm : Team) (tk : Ticket) (f : Surface) (ws : List Word),
    (s.thread? u.id = some u → u.block = some b → b.wait = .setup i p → s.raster.setups = [su] → su.team = u.team →
      s.setupHeld su = false → ∃ t : State, ∃ w : Thread, exec (.setupAccept u.id) s = .next t ∧ t.thread? u.id = some w ∧
        w.pc = b.next ∧ w.block = none ∧ t.raster.setups = [{ su with slots := su.slots ++ [(i, some p)] }]) ∧
    (s.raster.setups = [su] → s.launch? su.launch = some l → su.next < 255 → su.slots = [(su.next, some p)] → su.closed = false →
      l.columnsOf p = [col] → s.raster.inbound = [] → s.mayPrecede (some su.col) l.q p.seq = false → ∃ t : State,
        exec (.primitiveForward su.launch su.team) s = .next t ∧ t.raster.inbound = [⟨col, su.col, l.q, [p], 0⟩] ∧
        t.raster.setups = [{ su with next := su.next + 1, slots := [] }]) ∧
    (s.raster.inbound = [q] → q.prims = p :: rest → s.mayPrecede none q.queue p.seq = false → s.launch? p.launch = some l →
      (s.mayRun l.ctx = false → exec (.rasterize q.col q.queue) s = .next s) ∧ (s.mayRun l.ctx = true →
      let (_, _, nx, ny) := p.quadBox l.area
      let next := p.turned.nextQuad q.col l.samples l.area q.cursor (nx * ny + 1)
      (next = none → rest ≠ [] → ∃ t : State, exec (.rasterize q.col q.queue) s = .next t ∧
        t.raster.inbound = [{ q with prims := rest, cursor := 0 }] ∧ t.threads = s.threads) ∧
      (next = some (cursor, x, y, cover) → s.raster.tickets = [] → s.quadTeam l q.col = some tm → s.quadRoom l tm = true →
        s.team? tm.id = some tm → ∃ t : State,
        exec (.rasterize q.col q.queue) s = .next t ∧ t.raster.inbound = [{ q with cursor := cursor + 1 }] ∧
        t.team? tm.id = some { tm with started := tm.started + 4 } ∧
        (t.raster.tickets.map fun k => ((k.x, k.y), k.cover)) = ((quadPixels x y).zip cover).filter (·.2 ≠ 0) ∧
        ∀ k ∈ t.raster.tickets, k.launch = l.id ∧ k.seq = p.seq ∧ k.state = .waiting ∧ k.outs = []))) ∧
    (s.raster.tickets = [tk] → s.launch? tk.launch = some l → s.recordsFull tk.col = false →
      (∀ v ∈ s.threads, v.ordered = true → v.ticket ≠ some tk.id) →
      (tk.state = .killed → ∃ t : State, exec (.nibUnitAct tk.id) s = .next t ∧ t.raster.tickets = [] ∧
        t.raster.surfaces = s.raster.surfaces ∧ t.mem = s.mem) ∧
      (tk.state = .retired → s.raster.surfaces = [f] → isDepthFmt f.fmt = false → f.spilled = [] → f.ctx = l.ctx → l.depth = 0xFFFFFFFF → l.target_ 0 = f.index →
        f.index ≠ 0xFFFFFFFF → (∀ j, 0 < j → j < 8 → l.target_ j = 0xFFFFFFFF) → tk.cover = 1 → tk.outs = [(0, ws)] →
        f.inside tk.x tk.y l.layer 0 = true → l.blend 0 0 1 = 0 → ∃ t : State, ∃ g : Surface, exec (.nibUnitAct tk.id) s = .next t ∧ t.raster.tickets = [] ∧
          t.raster.surfaces = [g] ∧ g.texels =
            (f.write (f.place tk.x tk.y l.layer 0) (l.written 0 f.fmt ws (f.texel tk.x tk.y l.layer 0))).texels)) ∧
    (s.launch? l.id = some l → l.kind = 2 → l.done = false → (l.terminated = true ∨ l.next = l.total) →
      (∀ k ∈ s.teams, k.launch ≠ l.id) → (∀ k ∈ s.sched.saved, k.team.launch ≠ l.id) → (∀ k ∈ s.raster.setups, k.launch ≠ l.id) →
      (∀ k ∈ s.raster.inbound, ∀ r ∈ k.prims, r.launch ≠ l.id) → (∀ k ∈ s.raster.tickets, k.launch ≠ l.id) →
      ∃ t : State, exec (.drawCompletion l.id) s = .next t ∧ t.launch? l.id = some { l with done := true, reserved := [] } ∧
        ∀ j < 32, t.epoch j l.ctx = s.epoch j l.ctx + 1)

/-! ## Engines (R184 to R202, R269 to R318, R408) -/

/-- R168, R184, R186, R187: a traversal whose record lies in the scratchpad, aligned, unlocked and with no earlier access to come, goes
in flight with the record locked for writing, the five registers leased and the thread at the next word; a misaligned record is the
alignment fault, and a helper thread has the result without a hit. R185 to R188, R304: a traversal of a record in the scratchpad ends
with the record rewritten and its five results ready; a record that is not fit for the instruction keeps all but its STATUS, 7, and
gives no hit; a `.t` form fails with the trace fault on status 5, 6 and 7. -/
def Obligations.TraversalsStartAndEnd : Prop :=
  (∀ (h : Head) (o : XF) (s : State) (c : Issue) (t : Thread) (tm : Team),
     let u := t.atIssue s.now
     let va := u.pair o.a.toNat
     let off := va.toNat - windowBase
     let flight (i : Instr) (st : Stage) : Prop := Issues s c t h i → ∃ v : State, ∃ p : Op,
       exec i s = .next (v.setThread (u.advance c h s.now)) ∧ v.mem = s.mem ∧ v.teams = s.teams ∧ v.ops = s.ops ++ [p] ∧
       p.tid = u.id ∧ p.dst = rangeRegs o.d 5 ∧ p.stage = st ∧ p.slot = (if h.we then some h.wslot.toNat else none) ∧
       v.locks = s.locks ++ [⟨u.col, u.core, u.team, p.id, .scratch, off, off + 64, true⟩]
     let misses (i : Instr) : Prop := Issues s c t h i → exec i s = .next (s.afterLeased c t h i (rangeRegs o.d 5)
       [0xFFFFF000, 0x7F800000, 0xFFFFFFFF, 0, 0])
     let faults (i : Instr) : Prop := Issues s c t h i → exec i s = .next ((s.atIssue t h i).raise c u 0x06 0 va)
     (u.helper = true → misses (.trace h o) ∧ misses (.tcont h o)) ∧
     (u.helper = false → s.team? u.team = some tm → inWindow va.toNat = true → va.toNat + 64 ≤ windowBase + tm.scratchSize →
       (va.toNat % 64 ≠ 0 → faults (.trace h o) ∧ faults (.tcont h o)) ∧
       (va.toNat % 64 = 0 → (∀ k ∈ s.locks, k.team ≠ u.team) → s.unperformed u.id = false →
         (s.locks.filter fun l => l.col = u.col && l.core = u.core).length < 64 →
         flight (.trace h o) (.traverse { va := va, tf := o.fn.getLsbD 0, decision := none, candidate := [], token := none }) ∧
         flight (.tcont h o) (.traverse
           { va := va, tf := o.fn.getLsbD 2, decision := some (o.fn.toNat % 4), candidate := srcRange u o.b 5, token := none })))) ∧
  (∀ (s : State) (o : Op) (tm : Team) (w : Traversal) (x : Traced) (y : Halt),
     let off := w.va.toNat - windowBase
     let r := desc512 (readBytes tm.scratch off 64)
     let tr : Tracer := ⟨s.noteRead o.ctx o.col w.va.toNat 64, o.actor, r, w.dead, w.freed⟩
     let run : Except Halt Traced := match w.decision with | none => tr.trace 0 none | some k => tr.tcont none k w.candidate
     let fit : Prop := recStatus r = 2 ↔ w.decision.isSome = true
     let stage (n : Nat) (vals : List Word) : Stage :=
       if w.tf ∧ (n = 5 ∨ n = 6 ∨ n = 7) then .failed 0x11 n (some w.va) false else .ready (o.dst.zip vals) false
     let ends (n : Nat) (vals : List Word) (at_ : Nat) (b : List Byte) : Prop := ∃ t : State,
       exec (.traversalCompletion o.id false) s = .next t ∧ t.op? o.id = some { o with stage := stage n vals } ∧
       ((∀ k ∈ s.caches.copies, k.owned = false) → t.mem = s.mem) ∧
       t.team? o.team = some { tm with scratch := writeBytes tm.scratch at_ b }
     let endsAs (x : Traced) : Prop :=
       ends x.status (traceRegs (recWord r 224) x) off (leBytes 64 (writeRecord r x.walk x.status).toNat)
     s.op? o.id = some o → o.stage = .traverse w → w.token = none → w.record = none → w.drained = false → s.recordsFull o.col = false →
     s.team? o.team = some tm → inWindow w.va.toNat = true → w.va.toNat % 64 = 0 → w.va.toNat + 64 ≤ windowBase + tm.scratchSize →
     tm.scratchPoison = [] →
       (recInvalid r = true ∨ ¬fit → ends 7 [0xFFFFF007, recWord r 224, 0xFFFFFFFF, 0, 0] (off + 42) [7]) ∧
       (recInvalid r = false → fit → x.status ≠ 7 → run = .ok x → endsAs x) ∧
       (∀ k, recInvalid r = false → fit → k ≠ 7 → run = .error y → y.stop = .status k → endsAs ⟨k, { y.walk with r := 0 }, none⟩))

/-- R189 to R192, R278 to R280: a network call completes, at the next word, wherever the gatherer has room, and stalls where it has
none. One whose handle is no entry of the table gives subcode 1, in its register, for which it waits in its place, or as the fault; one whose network is readable
and of its widths joins the gatherer in a tile of its own. `nflush` completes and dispatches the open tiles that hold a request of the
team, a tile dispatches when its window is over, and a dispatched tile ends and gives each request its results or its subcode. -/
def Obligations.NetworkCallsGatherAndEvaluate : Prop :=
  ∀ (h : Head) (o : XF) (s : State) (c : Issue) (t : Thread) (tl : Tile) (p : Op) (handle : Word) (inputs : List Word) (ds : List Nat)
      (sub : Option (List Nat)) (tok : Option (Nat × Bool)),
    let u := t.atIssue s.now
    let hn := srcWord s u o.b
    let ins := srcRange u o.a (nin o.fn)
    let outs := rangeRegs o.d (nout o.fn)
    let form : Option (List Nat) := if o.fn.getLsbD 9 then some (wordRegs o.c) else none
    let rows := s.netRows ⟨0, 0, tl.ctx, tl.col, tl.core, 0, none⟩ tl.desc
    let answer (ds : List Nat) (handle : Word) (sub : Option (List Nat)) (res : Except Nat (List Word)) : Stage := match res, sub with
      | .ok vs, _ => .ready (ds.zip vs ++ (sub.getD []).map fun k => (k, 0)) false
      | .error k, none => .failed 0x10 k (some (handle.zeroExtend 64)) false
      | .error k, some cs => .ready (ds.map (fun r => (r, 0x7FC00000)) ++ cs.map fun x => (x, BitVec.ofNat 32 k)) false
    let turned : Stage := match form with
      | none => .failed 0x10 1 (some (hn.zeroExtend 64)) false
      | some cs => .refused (outs.map (fun r => (r, 0x7FC00000)) ++ cs.map fun x => (x, 1))
    let room := (s.atIssue t h (.neval h o)).gatherCount u.col u.core
    (Issues s c t h (.neval h o) →
      (1024 ≤ room → exec (.neval h o) s = .next (s.becomes t h (.neval h o) (u.stall c h s.now))) ∧
      (room < 1024 → ∃ v : State, ∃ w : Thread, exec (.neval h o) s = .next v ∧ v.thread? u.id = some w ∧ w.pc = (c.next h).1 ∧
        w.block = none ∧ w.regs = u.regs ∧ w.preds = u.preds) ∧
      (room < 1024 → (∀ x ∈ s.ops, x.id < s.nextId) → 4096 ≤ hn.toNat → ∃ v : State, ∃ q : Op, exec (.neval h o) s = .next v ∧
        v.ops = s.ops ++ [q] ∧ v.mem = s.mem ∧ v.threads = (s.becomes t h (.neval h o) (u.advance c h s.now)).threads ∧ q.tid = u.id ∧
        q.dst = outs ++ form.getD [] ∧ q.stage = turned) ∧
      (∀ eb db, room < 1024 → (∀ x ∈ s.ops, x.id < s.nextId) → hn.toNat < 4096 → (∀ k ∈ s.caches.copies, k.owned = false) →
        (s.team? u.team).bind Team.marked = none →
        (∀ q : Op, q.ctx = u.ctx → q.col = u.col → s.tableRead q (s.netEntryAt u.ctx hn) 8 = .ok (some eb) ∧
          s.tableRead q (netDescAt (BitVec.ofNat 64 (leNat eb))) 64 = .ok (some db)) →
        netEntryOk (BitVec.ofNat 64 (leNat eb)) = true → netMalformed (desc512 db) = false →
        netFailure (s.netRows u.actor (desc512 db)) ≠ some 3 → nin o.fn = netWidth (desc512 db) 0 →
        nout o.fn = netWidth (desc512 db) (netLayers (desc512 db)) → isReg o.d = true → s.openTiles u.col u.core = [] →
        ∃ v : State, ∃ q : Op, ∃ x : Tile, exec (.neval h o) s = .next v ∧ v.ops = s.ops ++ [q] ∧ v.mem = s.mem ∧
          v.threads = (s.becomes t h (.neval h o) (u.advance c h s.now)).threads ∧ q.tid = u.id ∧ q.stage = .gather hn ins form none ∧
          q.dst = outs ++ form.getD [] ∧ v.engines.tiles = s.engines.tiles ++ [x] ∧ x.rows = [q.id] ∧ x.desc = desc512 db ∧
          x.handle = hn.toNat ∧ x.opened = s.now ∧ x.dispatched = false)) ∧
    (Issues s c t h (.nflush h o) → ∃ v : State, exec (.nflush h o) s = .next (v.setThread (u.advance c h s.now)) ∧ v.mem = s.mem ∧
      v.ops = s.ops ∧ ((s.engines.tiles.map Tile.id).Nodup → v.engines.tiles = s.engines.tiles.map fun z =>
        if z.col = u.col ∧ z.core = u.core ∧ z.dispatched = false ∧ (∃ k ∈ z.rows, ∃ q, s.op? k = some q ∧ q.team = u.team) then
          { z with dispatched := true, opened := s.now } else z)) ∧
    (s.engines.tiles.find? (·.id = tl.id) = some tl →
      (tl.dispatched = false → tl.opened + tl.window ≤ s.now → ∃ v : State, exec (.gatherWindowExpiry tl.id) s = .next v ∧
        v.engines.tiles = s.engines.tiles.map (fun z => if z.id = tl.id then { z with dispatched := true, opened := s.now } else z) ∧
        v.ops = s.ops ∧ v.mem = s.mem) ∧
      (tl.dispatched = true ∨ s.now < tl.opened + tl.window → exec (.gatherWindowExpiry tl.id) s = .next s) ∧
      (tl.dispatched = true → ∃ v : State, exec (.tileResultScatter tl.id) s = .next v ∧
        v.engines.tiles = s.engines.tiles.filter (·.id ≠ tl.id) ∧
        ((∀ k ∈ s.caches.copies, k.owned = false) → v.mem = s.mem ∧ v.threads = s.threads) ∧
        (tl.rows = [p.id] → s.op? p.id = some p → p.dst = ds ++ sub.getD [] → p.stage = .gather handle inputs sub tok →
          (s.allFenced tl.col tl.core = true → v.op? p.id = some { p with stage := answer ds handle sub (.error 3) }) ∧
          (∀ k, s.allFenced tl.col tl.core = false → netFailure rows = some k →
            v.op? p.id = some { p with stage := answer ds handle sub (.error k) }) ∧
          (s.allFenced tl.col tl.core = false → netFailure rows = none →
            v.op? p.id = some { p with stage := answer ds handle sub (.ok (netEval tl.desc (netRowsOk rows) inputs)) }))))

/-- R168, R169, R193 to R198: an engine instruction whose descriptor and ranges are fit starts its operation, with its locks, and the
thread goes on; a misfit descriptor or tile range is the illegal instruction fault, an unconfigured barrier the barrier fault, and `accz`
with nothing of its team before it zeroes its tiles; none does anything in a helper thread. -/
def Obligations.EngineInstructionsStart : Prop :=
  ∀ (h : Head) (o : XF) (s : State) (c : Issue) (t : Thread) (tm : Team) (first count k : Nat),
    let u := t.atIssue s.now
    let va := u.pair o.a.toNat
    let d := desc512 (readBytes tm.scratch (va.toNat - windowBase) 64)
    let w := srcWord s u o.b
    let fnBar : Option Nat := if o.fn.getLsbD 4 then some (o.fn.toNat % 16) else none
    let barOk (b : Option Nat) : Prop := ∀ j, b = some j → (tm.barrier j).expected ≠ 0
    let quiet (i : Instr) : Prop := Issues s c t h i → exec i s = .next (s.becomes t h i (u.advance c h s.now))
    let starts (i : Instr) (at_ : DWord) (bar : Option Nat) (e : Engine) (ws : List Want) : Prop := Issues s c t h i → ∃ v : State,
      exec i s = .next (v.setThread (u.advance c h s.now)) ∧ v.mem = s.mem ∧ v.teams = s.teams ∧ v.ops = s.ops ∧
      v.engines.ops = s.engines.ops ++ [(⟨s.nextId, u.team, tm.launch, u.ctx, u.col, u.core, bar, at_, e, s.now, none, none, false⟩ : EngOp)] ∧
      v.locks = s.locks ++ ws.map fun (x : Want) => ⟨u.col, u.core, u.team, s.nextId, x.space, x.lo, x.hi, x.write⟩
    let faults (i : Instr) (cause : Nat) (a : DWord) : Prop := Issues s c t h i → exec i s = .next ((s.atIssue t h i).raise c u cause 0 a)
    let turned (i : Instr) (cause : Nat) : Prop := Issues s c t h i → exec i s = .next ((s.atIssue t h i).raiseFree c u cause)
    let descAt : Prop := AtScratch s u ⟨.load 64 false [] 0, va, 0⟩ 64 tm ∧ tm.scratchPoison = []
    let m := accstMode w o
    let param : Option DWord := if o.c = 0xF0 then none else some (srcPair s u o.c)
    let n := 256 * count * outBytes m.ofmt
    let accstLocks : List Want := wantMem va.toNat n true :: (match param with | some p => s.readWant u.ctx p.toNat (64 + 64 * count) | none => [])
    (u.helper = true → quiet (.mma h o) ∧ quiet (.accz h o) ∧ quiet (.accld h o) ∧ quiet (.accst h o) ∧ quiet (.copy h o) ∧
      quiet (.gred h o)) ∧
    (u.helper = false → s.team? u.team = some tm →
      (descAt → s.unperformed u.id = false →
        (mmaFault d tm.accTiles = some k → faults (.mma h o) 0x01 (va + BitVec.ofNat 64 k)) ∧
        (mmaFault d tm.accTiles = none → barOk (mmaBar d) → s.locksFree u (mmaWants d) = true →
          starts (.mma h o) va (mmaBar d) (.mma d) (mmaWants d)) ∧
        (mmaFault d tm.accTiles = none → ¬barOk (mmaBar d) → turned (.mma h o) 0x15) ∧
        (s.copyFault u.ctx d = some k → faults (.copy h o) 0x01 (va + BitVec.ofNat 64 k)) ∧
        (s.copyFault u.ctx d = none → (copyDest d).kind = 4 → turned (.copy h o) 0x13) ∧
        (s.copyFault u.ctx d = none → (copyDest d).kind ≠ 4 → s.leavesScratch u d (copySource d) = false →
          s.leavesScratch u d (copyDest d) = false → barOk (copyBar d) → s.locksFree u (s.copyWants u.ctx d) = true →
          starts (.copy h o) va (copyBar d) (.copy ⟨d, 4, [], .running, [], [], none, []⟩) (s.copyWants u.ctx d))) ∧
      (tileRange (srcWord s u o.a) tm.accTiles = none → faults (.accz h o) 0x01 ((srcWord s u o.a).zeroExtend 64)) ∧
      (tileRange (srcWord s u o.a) tm.accTiles = some (first, count) → s.accHead u.team = none → cellWf tm.acc = true →
        (∀ e ∈ s.engines.ops, e.id < s.nextId) → Issues s c t h (.accz h o) → ∃ v : State, ∃ q : Team,
          exec (.accz h o) s = .next (v.setThread (u.advance c h s.now)) ∧ v.mem = s.mem ∧ v.engines.ops = s.engines.ops ∧
          v.locks = s.locks ∧ v.team? u.team = some q ∧ cellWf q.acc = true ∧
          ∀ j, cellRead j q.acc = if 256 * first ≤ j ∧ j < 256 * (first + count) then 0 else cellRead j tm.acc) ∧
      (s.unperformed u.id = false → tileRange w tm.accTiles = none → faults (.accld h o) 0x01 (w.zeroExtend 64)) ∧
      (s.unperformed u.id = false → tileRange w tm.accTiles = some (first, count) → inWindow va.toNat = true → va.toNat % 64 = 0 →
        va.toNat + 1024 * count ≤ windowBase + tm.scratchSize → barOk fnBar → s.locksFree u [wantMem va.toNat (1024 * count) false] = true →
        starts (.accld h o) va fnBar (.accld first count va) [wantMem va.toNat (1024 * count) false]) ∧
      (s.unperformed u.id = false → tileRange (w &&& 0x1FFFF) tm.accTiles = some (first, count) →
        (m.ok w param.isSome = false → turned (.accst h o) 0x01) ∧
        (m.ok w param.isSome = true → s.engineAddr u.actor va n 64 = none →
          (∀ p, param = some p → s.engineAddr u.actor p (64 + 64 * count) 64 = none ∧ s.blockTrap u.actor p.toNat (64 + 64 * count) = none) →
          s.classTrap u.actor [0, 2] va.toNat n = none →
          barOk fnBar → s.locksFree u accstLocks = true →
          starts (.accst h o) va fnBar (.accst first count va param m.ofmt m.act m.sat m.ity) accstLocks)))

/-- R47, R169, R193 to R197, R283, R408: the first accumulator operation of a team that can run ends: an integer product adds to its
elements exactly, modulo 2 to the 32, and a floating one rounds as R47 says; `accld` copies the words of the scratchpad; `accst`
converts each element; nothing else of the tiles or the scratchpad changes. R169, R285, R288, R408, R410: a failed operation of the
accumulator ends with its launch failed and ERR on its barrier; a sub-array that fails its test is fenced and logged; an engine that
hangs loses its operations, and its teams their tiles. -/
def Obligations.EngineResultsAndFailures : Prop :=
  (∀ (s : State) (e : EngOp) (tm : Team) (d : BitVec 512) (x y p q : List (List Nat)) (first count ofmt act : Nat) (va : DWord)
       (sat ity : Bool),
     let k := mmaK d
     let ovw := d.getLsbD 408
     let off := va.toNat - windowBase
     let ends (i : Instr) (P : Team → Prop) : Prop := ∃ v : State, ∃ g : Team, exec i s = .next v ∧
       ((∀ k ∈ s.caches.copies, k.owned = false) → v.mem = s.mem) ∧
       v.engines.ops = s.engines.ops.filter (·.id ≠ e.id) ∧ v.locks = s.locks.filter (·.owner ≠ e.id) ∧ v.team? e.team = some g ∧ P g
     let old (i j : Nat) : Word := if ovw then 0 else cellRead (accPlace d i j) tm.acc
     s.engOp? e.id = some e → s.accReady e = true → s.team? e.team = some tm → tm.accPoison = [] → tm.scratchPoison = [] →
     cellWf tm.acc = true → (∀ z ∈ s.engines.ops, z.team = e.team → z.id = e.id) → (∃ z ∈ s.threads, z.team = e.team ∧ z.block = none) →
     s.allFenced e.col e.core = false → (∀ z ∈ s.sched.saved, z.team.id ≠ e.team) →
       (e.engine = .mma d → s.readOperand e (operandA d) k = .ok x → s.readOperand e (operandB d) k = .ok y →
         s.readScales e (operandA d) k = .ok p → s.readScales e (operandB d) k = .ok q →
         ends (.mmaCompletion e.id) fun g =>
           (∀ i < mmaM d, ∀ j < mmaN d, cellRead (accPlace d i j) g.acc =
             if field d 392 4 = 6 then BitVec.ofInt 32 ((old i j).toInt + dotInt ((x.getD i []).map (sextNat 8)) ((y.getD j []).map (sextNat 8)))
             else BitVec.ofNat 32 (dotBlocks ((k + 31) / 32) (old i j).toNat ((x.getD i []).map (unpack (fmtOf (field d 392 4))))
               ((y.getD j []).map (unpack (fmtOf (field d 396 4)))) (p.getD i []) (q.getD j []))) ∧
           (∀ j, ¬(256 * mmaAcc d ≤ j ∧ j < 256 * (mmaAcc d + mmaTiles d)) → cellRead j g.acc = cellRead j tm.acc) ∧
           g.scratch = tm.scratch) ∧
       (e.engine = .accld first count va → 0 < count → off + 1024 * count ≤ tm.scratchSize → ends (.accldCompletion e.id) fun g =>
         (∀ j, cellRead j g.acc = if 256 * first ≤ j ∧ j < 256 * (first + count) then
           BitVec.ofNat 32 (leNat (readBytes tm.scratch (off + 4 * (j - 256 * first)) 4)) else cellRead j tm.acc) ∧ g.scratch = tm.scratch) ∧
       (e.engine = .accst first count va none ofmt act sat ity → inWindow va.toNat = true → va.toNat % 64 = 0 →
         va.toNat + 256 * count * outBytes ofmt ≤ windowBase + tm.scratchSize → cellWf tm.scratch = true →
         ends (.accstCompletion e.id) fun g => g.acc = tm.acc ∧
           (∀ j < 256 * count, readBytes g.scratch (off + outBytes ofmt * j) (outBytes ofmt) =
             leBytes (outBytes ofmt) (accstCode (cellRead (256 * first + j) tm.acc) 0x3F800000 0 ofmt act sat ity)) ∧
           ∀ b, ¬(off ≤ b ∧ b < off + 256 * count * outBytes ofmt) → cellRead b g.scratch = cellRead b tm.scratch)) ∧
  (∀ (s : State) (e : EngOp) (tm : Team) (l : Launch) (code : Option Nat) (b col core sub : Nat),
     (s.engOp? e.id = some e → s.engineFailure e = some code → s.team? e.team = some tm → s.launch? e.launch = some l → l.id = e.launch →
       (∃ z ∈ s.threads, z.team = e.team ∧ z.block = none) → e.bar = some b → b < tm.barriers.length →
       (∀ z ∈ s.engines.ops, z.team = e.team → z.id = e.id) → (∀ z ∈ s.sched.saved, z.team.id ≠ e.team) →
       ∃ v : State, ∃ g : Team, exec (.engineFailure e.id) s = .next v ∧
         v.engines.ops = s.engines.ops.filter (·.id ≠ e.id) ∧ v.locks = s.locks.filter (·.owner ≠ e.id) ∧
         v.launch? e.launch = some { l with failed := true } ∧ v.team? e.team = some g ∧ (g.barrier b).err = true ∧
         (∀ d, e.engine = .mma d → cellWf tm.acc = true → ∀ j, 256 * mmaAcc d ≤ j → j < 256 * (mmaAcc d + mmaTiles d) →
           cellRead j g.acc = 0x7FC00000)) ∧
     (col < 32 → core < 128 → sub < 16 → ⟨col, core, sub⟩ ∉ s.engines.fenced → ∃ v : State,
       exec (.matrixSelfTest col core sub false) s = .next v ∧ v.engines.fenced = s.engines.fenced ++ [⟨col, core, sub⟩] ∧
       v.engines.ops = s.engines.ops ∧ v.teams = s.teams ∧ v.threads = s.threads ∧ v.mem = s.mem ∧
       v.platform.logCount = s.platform.logCount + 1) ∧
     (⟨col, core, sub⟩ ∈ s.engines.fenced → ∀ pass, exec (.matrixSelfTest col core sub pass) s = .next s) ∧
     (s.hangs col core = false → exec (.matrixEngineHang col core) s = .next s) ∧
     (s.hangs col core = true → s.engines.ops = [e] → e.col = col → e.core = core → e.engine.isAcc = true → e.bar = none → s.teams = [tm] →
       tm.id = e.team → tm.col = col → tm.core = core → tm.accTiles ≠ 0 → (∀ z ∈ s.threads, z.team = tm.id ∧ z.block = none) →
       ∃ v : State, ∃ g : Team, exec (.matrixEngineHang col core) s = .next v ∧ v.engines.ops = [] ∧ v.teams = [g] ∧ g.id = tm.id ∧
         g.acc = [] ∧ ∀ z ∈ v.threads, ∃ f ∈ z.pending, f.cause = 0x1A ∧ f.addr = BitVec.ofNat 64 tm.accTiles))

/-- R198, R307 to R314, R352: a chunk that is read whole is written and counted once; one that cannot be moved posts the copy's record, once
no other chunk is in flight; a copy waiting on a record goes on, or ends with ERR once its column has room for the record of that (R413),
as its DISP says; a copy all of whose chunks are written is complete. -/
def Obligations.CopyChunksMoveOnce : Prop :=
  ∀ (s : State) (e : EngOp) (j : CopyJob) (k record reason faddr : Nat) (tm : Team) (b : List (List Byte)),
    let ended (v : State) : Prop := v.engines.ops = s.engines.ops.filter (·.id ≠ e.id) ∧ v.locks = s.locks.filter (·.owner ≠ e.id)
    let alone : Prop := s.engOp? e.id = some e ∧ s.team? e.team = some tm ∧ e.engine = .copy j ∧
      (∃ z ∈ s.threads, z.team = e.team ∧ z.block = none) ∧ (∀ z ∈ s.engines.ops, z.team = e.team → z.id = e.id) ∧
      ∀ z ∈ s.sched.saved, z.team.id ≠ e.team
    let cancelled (i : Instr) : Prop := ∃ v : State, ∃ g : Team, exec i s = .next v ∧ ended v ∧ v.team? e.team = some g ∧
      (g.barrier (field j.desc 438 4)).err = true
    (s.runnable e.id k = some (e, j) → e.token = none → s.engOp? e.id = some e →
      (e.dead = none → j.failing = [] → s.readChunk e j.desc k = .ok b → s.lostSource e j.desc k = none →
        s.lostDest e j.desc k = false → ∃ v : State, ∃ w : EngOp, ∃ g : CopyJob,
        exec (.copyChunkComplete e.id k) s = .next v ∧ v.engOp? e.id = some w ∧ w.engine = .copy g ∧ g.written = k :: j.written ∧
        g.desc = j.desc ∧ g.phase = .running ∧ v.mem = (s.writeChunk e j.desc k b).mem ∧ v.teams = (s.writeChunk e j.desc k b).teams) ∧
      (j.failing = [] → s.chunkFailure e j k = some (reason, faddr) → ∃ v : State, ∃ w : EngOp, ∃ g : CopyJob,
        exec (.copyChunkFailure e.id k) s = .next v ∧ v.engOp? e.id = some w ∧ w.engine = .copy g ∧ g.written = j.written ∧ w.dead = none ∧
        (j.inFlight.filter (· ≠ k) = [] → ∃ r, g.phase = .failed reason faddr r) ∧
        (j.inFlight.filter (· ≠ k) ≠ [] → g.phase = .running ∧ g.failing = [(k, reason, faddr)] ∧ v.mem = s.mem))) ∧
    (s.waitingCopy e.col record = some (e, j, reason) → s.engOp? e.id = some e → record < 2 ^ 64 →
      (s.dispOf record = 1 → exec (.copyReplay e.col (BitVec.ofNat 64 record)) s =
        .next (s.setEngOp { e with engine := .copy { j with phase := .running, arrived := [] } })) ∧
      (s.dispOf record = 2 → s.recordsFull e.col = false → alone → copyLbs j.desc = 0 → field j.desc 438 4 < tm.barriers.length →
        cancelled (.copyCancel e.col (BitVec.ofNat 64 record))) ∧
      (s.dispOf record = 2 → s.recordsFull e.col = true → exec (.copyCancel e.col (BitVec.ofNat 64 record)) s =
        .next (s.setEngOp { e with engine := .copy { j with phase := .cancelled reason } }))) ∧
    (alone → j.phase = .cancelled reason → s.recordsFull e.col = false → copyLbs j.desc = 0 → field j.desc 438 4 < tm.barriers.length →
      cancelled (.copyCompletion e.id)) ∧
    (alone → j.phase = .running → j.cursor = chunkCount j.desc → copyLbs j.desc = 0 → ∃ v : State, ∃ g : Team,
      exec (.copyCompletion e.id) s = .next v ∧ ended v ∧ v.mem = s.mem ∧ v.team? e.team = some g ∧
      (e.bar = none → g = tm) ∧ ∀ n, e.bar = some n → n < tm.barriers.length → g.barrier n = (tm.barrier n).arrive 1)

/-- R199 to R202, R204, R316 to R318: a part of a gather-reduce whose result row is fit completes, and starts the command of its result
row or joins the one of its stroke; it is held behind the thread's earlier accesses that it must follow, and stalls at a full unit or
operand log; a fault of its rows is precise. An accepted command empties its
result lines; a unit reads its pieces and holds its banks until its segment ends; the result is the rounded exact sum of the parts, and
makes the lines full; a failed command marks them. `rstat` completes with the full bits of 32 lines and `rdctr` with a counter. -/
def Obligations.GatherReduceSumsRows : Prop :=
  ∀ (h : Head) (o : XF) (s : State) (c : Issue) (t : Thread) (tm : Team) (g : GredCmd) (l : Leaf) (unit : Nat) (m : Launch),
    let u := t.atIssue s.now
    let p : GredPart := ⟨u.pair o.a.toNat, (srcWord s u o.b).toNat, srcPair s u o.c, o.fn.getLsbD 10, o.fn.getLsbD 9, o.fn.toNat % 512 + 1⟩
    let va := u.pair o.a.toNat
    let full (k : Nat) : Prop := ∀ f, s.resultLeaf u.ctx ((va.toNat / 128 + k) * 128 % 2 ^ 64) = some f →
      s.unused f = true ∨ s.lineEmpty (f.pa / 128) = false
    let unitsFull : Bool := (s.atIssue t h (.gred h o)).unitFull c.stroke p.dst ((s.atIssue t h (.gred h o)).unitsNeeded c u h o p)
    let stalls : Prop := exec (.gred h o) s = .next (s.becomes t h (.gred h o) (u.stall c h s.now))
    let adds (k : GredCmd) (others : List GredCmd) : Prop := ∃ v : State, ∃ q : GredCmd,
      exec (.gred h o) s = .next (v.setThread (u.advance c h s.now)) ∧ v.engines.greds = others ++ [q] ∧ { q with early := k.early } = k ∧
        v.ops = s.ops ∧ ((∀ x ∈ s.caches.copies, x.owned = false) → v.mem = s.mem)
    (u.helper = false → Issues s c t h (.gred h o) →
      (∀ cause a, s.gredCheck c u p.table p.dst p.nel = .fault cause a →
        exec (.gred h o) s = .next ((s.atIssue t h (.gred h o)).raise c u cause 0 a)) ∧
      (s.gredCheck c u p.table p.dst p.nel = .ok →
        (unitsFull = true ∨ (∃ x ∈ p.writes, s.logsBehind u.id x = true ∧ s.logFull u c.stroke x.va = true) → stalls) ∧
        (unitsFull = false → (∀ x ∈ p.writes, s.logsBehind u.id x = false) → p.follows s u.id s.ops = true →
          exec (.gred h o) s = .next (leasing h [] (.gredLogged p []) (s.atIssue t h (.gred h o)) c u)) ∧
        (s.team? u.team = some tm → unitsFull = false → (∀ x ∈ p.writes, s.logsBehind u.id x = false) → p.follows s u.id s.ops = false →
          (∃ v : State, exec (.gred h o) s = .next (v.setThread (u.advance c h s.now)) ∧ v.ops = s.ops) ∧
          ((∀ x ∈ s.engines.greds, x.stroke ≠ c.stroke) →
            adds { p.command (s.nextId + 1) tm.launch c.stroke s.now u.actor with
              rows := [(p.rowAddr, p.row)], issuers := [(u.id, s.nextId)] } s.engines.greds) ∧
          (s.engines.greds = [g] → g.stroke = c.stroke → g.dst = p.dst → g.ctx = u.ctx → g.col = u.col → g.core = u.core →
            g.accepted = false →
            adds { g with rows := g.rows ++ [(p.rowAddr, p.row)], issuers := g.issuers ++ [(u.id, s.nextId)] } [])))) ∧
    (s.engines.greds = [g] → g.token = none → g.failRow = none →
      (g.accepted = false → s.ops = [] → resultPieces g.dst g.nel = [(g.dst.toNat, 4 * g.nel)] → resultPage (s.translate g.ctx g.dst.toNat) g.col = .ok l →
        ∃ v : State, exec (.gredCommandAccept g.id) s = .next v ∧ (s.unused l = false → v.mem = s.mem) ∧
          v.engines.greds = [{ g with accepted := true, places := [(l.pa, 4 * g.nel)] }] ∧
          ∀ n, l.pa / 128 ≤ n → n < (l.pa + 4 * g.nel + 127) / 128 → v.lineEmpty n = true) ∧
      (g.accepted = true → g.split = true → (∃ x ∈ g.lines, x.unit = unit) → unit ∉ s.engines.segments →
        (∀ x ∈ g.lines, x.unit = unit → (x.data = none → s.lineEmpty (x.pa / 128) = false) ∧ (s.pieceBytes g x).isSome = true) →
        ∃ v : State, exec (.reduceSubcommand g.id unit) s = .next v ∧ v.engines.segments = unit :: s.engines.segments ∧ v.mem = s.mem ∧
          v.engines.greds = [{ g with
            lines := g.lines.filter (·.unit ≠ unit), parts := g.parts ++ (g.lines.filter (·.unit = unit)).flatMap (s.pieceParts g)
            waits := none }]) ∧
      (g.accepted = true → g.split = true → g.lines = [] → s.ops = [] → ∃ v : State, exec (.gredResultWrite g.id) s = .next v ∧
        v.engines.greds = [] ∧ v.mem = (s.putResult 0 g.places (s.gredResult g)).mem)) ∧
    (s.engines.greds = [g] → g.failRow = some unit → s.recordsFull g.col = false → s.launch? g.launch = some m → m.id = g.launch → s.ops = [] →
      ∃ v : State, exec (.gredCommandFailure g.id) s = .next v ∧ v.engines.greds = [] ∧ v.launch? g.launch = some { m with failed := true } ∧
        ((∀ x ∈ s.caches.copies, x.owned = false) → ∀ n ∈ g.resultLines, v.poisoned (n * 128) 128 = true)) ∧
    (∃ v : State, exec (.reduceSegmentEnd unit) s = .next v ∧ v.mem = s.mem ∧ v.engines.greds = s.engines.greds ∧
      ∀ n, n ∈ v.engines.segments ↔ n ∈ s.engines.segments ∧ n ≠ unit) ∧
    (Issues s c t h (.rstat h o) →
      (canonical va = true → ∃ v : State, ∃ r : Word, exec (.rstat h o) s = .next (leasingReady h (wordRegs o.d) [r] v c u) ∧
        v.mem = s.mem ∧ v.teams = s.teams ∧ ∀ k < 32, (r.getLsbD k = true ↔ full k)) ∧
      (canonical va = false → exec (.rstat h o) s = .next ((s.atIssue t h (.rstat h o)).raise c u 0x07 0 va))) ∧
    (Issues s c t h (.rdctr h o) → let x := (s.atIssue t h (.rdctr h o)).counterOf u o.fn.toNat
      exec (.rdctr h o) s = .next (s.afterLeased c t h (.rdctr h o) (pairRegs o.d) [BitVec.ofNat 32 x, BitVec.ofNat 32 (x / 2 ^ 32)]) ∧
        x < 2 ^ 48)

/-! ## Caches, translation and migration (R227, R234, R235, R242, R348 to R355) -/

/-- R227, R234, R235, R238, R242, R348: a recall or an eviction of the only copy of a line takes it out of its column and its dirty
bytes to memory, other bytes of memory staying; a persistent request aborts the groups of other cores that hold the line's token; an
invalidation sets BUSY, unless it names no page or one is under way, and BUSY clears once no request uses a discarded translation. R353
to R355: nothing happens to a column's unit outside the end of an epoch or while it is off; at the end of one its counts halve, and a
page of the second tier whose count has reached the threshold begins to move to the next frame of ring 0. A move ends with the bytes in
the new frame, which the table's entry then names, and the old frame on ring 2; or, where the entry is no longer the one walked to, with
the new frame on ring 2. -/
def Obligations.CachesTranslationMigrationEvents : Prop :=
  (∀ (s : State) (c : LineCopy) (u : Thread) (g : Group) (col core line : Nat) (value : BitVec 64),
     let merged (v : State) : Prop := v.caches.copies = [] ∧ ∀ a, cellRead (w := 8) a v.mem =
       if line * 128 ≤ a ∧ a < line * 128 + 128 ∧ c.dirty.testBit (a - line * 128) = true then c.bytes.getD (a - line * 128) 0
       else cellRead (w := 8) a s.mem
     (s.caches.copies = [c] → Memory.wf s.mem = true → c.bytes.length = 128 → c.line = line →
       (c.owned = true → ∃ v : State, exec (.recall line) s = .next v ∧ merged v) ∧
       (c.owned = false → exec (.recall line) s = .next s) ∧
       (c.col = col → ∃ v : State, exec (.eviction col line) s = .next v ∧ merged v ∧ v.threads = s.threads)) ∧
     (s.threads = [u] → u.group = some g → ∃ v : State, exec (.persistentRequest col core line) s = .next v ∧ v.mem = s.mem ∧
       (u.col = col → u.core ≠ core → line ∈ g.lines → v.threads = [{ u with group := some { g with aborted := true } }]) ∧
       (u.col ≠ col ∨ u.core = core ∨ line ∉ g.lines → v.threads = [u])) ∧
     (s.regs.tinvctl.getLsbD 63 = true → exec (.tinvctlCommand value) s = .next s) ∧
     (s.regs.tinvctl.getLsbD 63 = false → ∃ v : State, exec (.tinvctlCommand value) s = .next v ∧ v.mem = s.mem ∧
       (v.regs.tinvctl.getLsbD 63 = true ↔ field value 0 32 ≠ 0 ∨ value.getLsbD 62 = true) ∧
       field v.regs.tinvctl 0 38 = field value 0 38 ∧ v.regs.tinvctl.getLsbD 62 = value.getLsbD 62 ∧ v.regs.tinvaddr = s.regs.tinvaddr ∧
       v.regs.tinvrange = s.regs.tinvaddr) ∧
     (s.usesDiscarded = true → exec .tinvComplete s = .next s) ∧
     (s.usesDiscarded = false → ∃ v : State, exec .tinvComplete s = .next v ∧
       v.regs.tinvctl.getLsbD 63 = false ∧ field v.regs.tinvctl 0 63 = field s.regs.tinvctl 0 63 ∧ v.mem = s.mem)) ∧
  (∀ (s : State) (col occ : Nat) (q : Heat) (l : Leaf) (w : Move),
     let m := s.migration col
     let due : Prop := col < 32 ∧ s.now ≠ 0 ∧ s.now % 1048576 = 0 ∧ m.ctl.getLsbD 63 = true
     let old := l.pa / 65536 * 65536
     let new := s.peekNat (m.ringAt 0 (m.cons_ 0)) 8
     let at2 := m.ringAt 2 (m.prod 2)
     let now (a : Nat) : BitVec 64 := BitVec.ofNat 64 (s.peekNat a 8)
     let sized : Prop := s.regs.migrations.length = 32 ∧ m.idxs.length = 3
     let plain : Prop := s.caches.copies = [] ∧ Memory.wf s.mem = true
     let ends (v : State) : Prop := exec (.migrationEpochEnd col occ) s = .next v ∧ (v.migration col).moving = [] ∧
       (v.migration col).held 2 = m.held 2 + 1 ∧ (v.migration col).heat = m.heat
     (m.moving = [] → ¬due → exec (.migrationEpochEnd col occ) s = .next s) ∧
     (m.moving = [] → due → (∀ h ∈ m.heat, s.heatLeaf col h = none) → exec (.migrationEpochEnd col occ) s =
       .next (s.setMigration col { m with heat := m.heat.map fun (h : Heat) => { h with count := h.count / 2 } })) ∧
     (m.moving = [] → due → m.heat = [q] → s.heatLeaf col q = some l → regionOf l.pa = 1 → field m.ctl 32 16 + field m.ctl 24 8 * min occ 255 ≤ q.count →
       field m.ctl 0 16 < m.held 0 → s.pageHeld q.ctx q.page = false → m.held 2 < 1024 → s.frameFits col 0 new = true →
       s.caches.copies = [] → sized → ∃ v : State, exec (.migrationEpochEnd col occ) s = .next v ∧ v.mem = s.mem ∧
         (v.migration col).moving = [⟨q.ctx, q.page, l.entryAt, now l.entryAt, old, new⟩] ∧
         (v.migration col).heat = [{ q with count := q.count / 2 }] ∧ (v.migration col).held 0 = m.held 0 - 1 ∧
         (v.migration col).held 2 = m.held 2) ∧
     (m.moving = [w] → ¬due → s.pageHeld w.ctx w.page = true → exec (.migrationEpochEnd col occ) s = .next s) ∧
     (m.moving = [w] → ¬due → s.pageHeld w.ctx w.page = false → m.held 2 < 1024 → plain → sized → col < 32 →
       let apart (a : Nat) : Prop := a + 8 ≤ w.new ∨ w.new + 65536 ≤ a
       (now w.entryAt = w.entry → (s.context w.ctx).live = true → apart w.entryAt → apart at2 →
         w.entryAt + 8 ≤ at2 ∨ at2 + 8 ≤ w.entryAt → ∃ v : State, ends v ∧
           (∀ i < 65536, cellRead (w := 8) (w.new + i) v.mem = cellRead (w := 8) (w.old + i) s.mem) ∧
           readBytes v.mem w.entryAt 8 = leBytes 8 (entryFor w.entry w.new).toNat ∧ readBytes v.mem at2 8 = leBytes 8 w.old) ∧
       (now w.entryAt ≠ w.entry ∨ (s.context w.ctx).live = false → ∃ v : State, ends v ∧
         v.mem = writeBytes s.mem at2 (leBytes 8 w.new))))

/-- R349 to R352: a page-fault record that waited is written to its ring when there is room, and the producer count rises by one; what
waited for a resolved page goes on; an access to a page that is declared unresolvable fails with the translation fault, and so does the
wait of a thread, as a deferred fault. -/
def Obligations.PageFaultRecordsAndAnswers : Prop :=
  ∀ (s : State) (r : PageRecord) (o : Op) (u : Thread) (b : Block) (w : WorkQueue) (e : EngOp) (x : Access) (va : DWord) (form : Nat)
      (a : Traversal),
    let base := field (s.context r.ctx).desc 448 64
    let log := field (s.context r.ctx).desc 52 4
    let p := s.peekNat base 4
    s.pageRecords = [r] → s.engines.greds = [] →
      (r.posted = false → s.caches.copies = [] → Memory.wf s.mem = true →
        (s.ringRoom base log = true → ∃ v : State, exec (.pageFaultRecordDelayed r.token) s = .next v ∧
          v.pageRecords = [{ r with posted := true }] ∧ readBytes v.mem (base + 64 + 32 * (p % 2 ^ log)) 32 = r.bytes ∧
          readBytes v.mem base 4 = leBytes 4 ((p + 1) % 2 ^ 32)) ∧
        (s.ringRoom base log = false → exec (.pageFaultRecordDelayed r.token) s = .next s)) ∧
      (r.posted = false → exec (.tfrespResolved r.col r.ctx r.token) s = .next s ∧
        exec (.tfrespUnresolvable r.col r.ctx r.token) s = .next s) ∧
      (r.posted = true →
        (s.ops = [] → s.threads = [u] → s.queues = [w] → s.engines.ops = [e] → ∃ v : State,
          exec (.tfrespResolved r.col r.ctx r.token) s = .next v ∧ v.pageRecords = [] ∧ v.mem = s.mem ∧
          (u.block = some b → b.wait = .page r.token va form → u.atBoundary = false →
            v.threads = [{ u with block := some { b with wait := .stalled true } }]) ∧
          (u.block = some b → b.wait = .page r.token va form → u.atBoundary = true →
            v.threads = [{ u with block := none, readySince := s.now }]) ∧
          (w.token = some r.token → v.queues = [{ w with token := none }]) ∧ (w.token ≠ some r.token → v.queues = [w]) ∧
          (e.token = some r.token → v.engines.ops = [{ e with token := none }]) ∧ (e.token ≠ some r.token → v.engines.ops = [e])) ∧
        (s.ops = [o] → o.stage = .traverse a → a.token = some r.token → ∃ v : State,
          exec (.tfrespResolved r.col r.ctx r.token) s = .next v ∧ v.pageRecords = [] ∧
          v.ops = [{ o with stage := .traverse { a with token := none, drained := a.record.isSome && s.isParked o.tid } }]) ∧
        (s.engines.ops = [] →
          (s.ops = [o] → s.threads = [u] → u.block = none → s.queues = [] → o.stage = .logged x r.token → ∃ v : State,
            exec (.tfrespUnresolvable r.col r.ctx r.token) s = .next v ∧ v.pageRecords = [] ∧ v.mem = s.mem ∧ v.threads = [u] ∧
            v.ops = [{ o with stage := .failed 0x07 0 (some x.va) true }]) ∧
          (s.ops = [] → s.threads = [u] → s.queues = [] → u.block = some b → b.wait = .page r.token va 0 → u.pending = [] →
            ∃ v : State, ∃ t : Thread, ∃ f : PendingFault, exec (.tfrespUnresolvable r.col r.ctx r.token) s = .next v ∧
              v.pageRecords = [] ∧ v.threads = [t] ∧ t.pc = b.next ∧ t.block = none ∧ t.regs = (u.settle s.now).regs ∧ t.pending = [f] ∧
              f.cause = 0x07 ∧ f.addr = va ∧ f.pc = u.pc) ∧
          (s.ops = [] → s.threads = [] → s.queues = [w] → w.token = some r.token → w.record = none → w.failing = none →
            w.withdrawing = false → ∃ v : State,
            exec (.tfrespUnresolvable r.col r.ctx r.token) s = .next v ∧ (v.queue w.idx).stopped = true ∧ (v.queue w.idx).err = true)))

/-! ## Work queues and launches (R277, R326 to R340) -/

/-- R326 to R328, R334, R335, R338: an enabled queue starts at HEAD and TAIL 0 and DSEQ 1, and a disabled one has no record left; a tail
within the ring is taken and any other sets ERR; the record at HEAD is read, waits for its counters, and is dispatched as a launch or
fails, HEAD moving past it. -/
def Obligations.WorkQueueEvents : Prop :=
  ∀ (s : State) (q : Nat) (e : BitVec 256) (who : Accessor) (value : BitVec 64) (b : List Byte) (r : BitVec 1024) (l : Leaf)
      (pipe : BitVec 1024) (plan : BitVec 1536) (params : BitVec 2048),
    let w := s.queue q
    let next := (w.head + 1) % 2 ^ 32
    let new := field value 0 32
    let ahead (t : Nat) : Nat := (t + 2 ^ 32 - w.head) % 2 ^ 32
    let free : Prop := w.en = true ∧ w.stopped = false ∧ w.token = none ∧ w.failing = none ∧ w.withdrawing = false ∧ s.mayRun w.ctx = true
    let uncached : Prop := ∀ k ∈ s.caches.copies, k.owned = false
    let reports : Prop := (s.heldRecords.filter (·.col = 0)).length < 63 ∧
      ∀ r, w.record = some r → recordCe r = true → ∀ va f, s.counterLeaf w.ctx (recordCaddr r) true ≠ .error (.page va f)
    let v63 := s.peekNat l.pa 8
    let k := w.launch s.nextId r pipe plan params
    let fails (i : Instr) : Prop := ∃ v : State, exec i s = .next v ∧ (v.queue q).head = next ∧ (v.queue q).record = none ∧
      (v.queue q).tail = w.tail ∧ v.sched.launches = s.sched.launches ∧ v.teams = s.teams
    (q < 32768 → w.en = false → w.withdrawing = false → field e 14 90 = 0 → field e 2 2 = 0 → e.getLsbD 0 = true → field e 4 4 ≠ 0 → ∃ v : State,
      exec (.queueEnable q e) s = .next v ∧ v.mem = s.mem ∧ (v.queue q).en = true ∧ (v.queue q).head = 0 ∧ (v.queue q).tail = 0 ∧
      (v.queue q).dseq = 1 ∧ (v.queue q).ctx = field e 8 6 ∧ (v.queue q).logn = field e 4 4 ∧ (v.queue q).rbase = e.extractLsb' 192 64 ∧
      (v.queue q).record = none ∧ ∀ j, j ≠ q → v.queue j = s.queue j) ∧
    (w.en = true → exec (.queueEnable q e) s = .next s) ∧
    (w.en = false → exec (.queueDisable q) s = .next s) ∧
    (q < 32768 → w.en = true → w.withdrawing = false → ∃ v : State, exec (.queueDisable q) s = .next v ∧ (v.queue q).en = false ∧
      (v.queue q).tail = w.tail ∧ (w.head = w.tail → v.mem = s.mem ∧ v.threads = s.threads) ∧
      (w.head = w.tail ∨ s.recordsFull 0 = true → (v.queue q).head = w.head ∧ (v.queue q).record = none) ∧
      (next = w.tail → s.recordsFull 0 = false → s.deviceRead w.ctx (w.slot w.head).toNat 48 = .ok b →
        recordCe (BitVec.ofNat 1024 (leNat b)) = false → (v.queue q).head = w.tail ∧ (v.queue q).record = none)) ∧
    ((32768 ≤ q ∨ s.reachesQueue who w = false) → exec (.tailWrite who q value) s = .next s) ∧
    (q < 32768 → s.reachesQueue who w = true → ∃ v : State, exec (.tailWrite who q value) s = .next v ∧ v.mem = s.mem ∧
      v.threads = s.threads ∧ (v.queue q).head = w.head ∧ (v.queue q).en = w.en ∧ (v.queue q).record = w.record ∧
      (field value 32 32 = 0 → ahead w.tail ≤ ahead new → ahead new ≤ 2 ^ w.logn → (v.queue q).tail = new ∧ (v.queue q).err = w.err) ∧
      (field value 32 32 ≠ 0 ∨ ahead new < ahead w.tail ∨ 2 ^ w.logn < ahead new → (v.queue q).tail = w.tail ∧ (v.queue q).err = true)) ∧
    (free → w.record = none → w.head ≠ w.tail → s.deviceRead w.ctx (w.slot w.head).toNat 128 = .ok b → uncached → ∃ v : State,
      exec (.recordExamine q) s = .next v ∧ (v.queue q).record = some (BitVec.ofNat 1024 (leNat b)) ∧ (v.queue q).head = w.head ∧
      v.mem = s.mem ∧ v.threads = s.threads) ∧
    (w.en = true → w.token = none → w.failing = none → s.mayRun w.ctx = true → w.record = some r → uncached →
      (w.met1 = false → s.counterLeaf w.ctx (recordWait r 0).1 false = .ok l → regionOf l.pa ≠ 4 →
        (v63 < (recordWait r 0).2 → v63 < 2 ^ 63 → exec (.waitEventMet q false) s = .next s) ∧
        ((recordWait r 0).2 ≤ v63 → v63 < 2 ^ 63 → exec (.waitEventMet q false) s = .next (s.setQueue { w with met1 := true })) ∧
        (reports → 2 ^ 63 ≤ v63 → fails (.waitEventMet q false))) ∧
      (w.met2 = false → s.counterLeaf w.ctx (recordWait r 1).1 false = .ok l → regionOf l.pa ≠ 4 → (recordWait r 1).2 ≤ v63 → v63 < 2 ^ 63 →
        exec (.waitEventMet q true) s = .next (s.setQueue { w with met2 := true }))) ∧
    ((∀ x, s.nextQueue = some x → x.idx ≠ q) → exec (.launchDispatch q) s = .next s) ∧
    (s.nextQueue = some w → w.record = some r →
      (reports → recordOk r = false → fails (.launchDispatch q)) ∧
      (recordOk r = true → (recordCe r = true → s.counterLeaf w.ctx (recordCaddr r) true = .ok l) →
        s.readLaunch w.ctx r = .ok (pipe, plan, params) → s.launchOk k = true → ∃ v : State, exec (.launchDispatch q) s = .next v ∧
        v.sched.launches = s.sched.launches ++ [{ k with entries := if recordKind r = 2 then (s.boundSurfaces k).map Surface.entry else [] }] ∧
        (v.queue q).head = next ∧ (v.queue q).record = none ∧ v.teams = s.teams ∧
        (uncached → v.mem = (s.syncInks w.ctx).mem ∧ v.threads = (s.syncInks w.ctx).threads)))

/-- R27, R277, R336 to R340: a team is placed where it fits, with one thread for each index at its entry; a cohort waits for all its places
and then starts whole; a team of lower priority is marked when it must make room; a WEIGHTLOAD copies its source to every column of its
mask; a launch that is over leaves, the context's ink table in memory is brought up to date (R356), and its completion counter rises by
one. -/
def Obligations.LaunchAndPlacementEvents : Prop :=
  ∀ (s : State) (l : Launch) (r : Reserve) (tm : Team) (b : List Byte) (lf : Leaf),
    let m := s.aim l
    let gets := s.reserveMore m
    let whole : Prop := gets.length = l.cohort ∧ ∀ x ∈ gets, x.full m = true
    let uncached : Prop := ∀ k ∈ s.caches.copies, k.owned = false
    let at_ := field (s.context l.ctx).desc 592 12 * 65536 + field l.record 448 32
    let u := s.syncInks l.ctx
    let n := u.peekNat lf.pa 8
    s.launch? l.id = some l →
      (s.waiting l = true → l.kind = 1 → l.cohort = 1 → r.pens < 16 → s.placeOpen l r = true → ∃ v : State, ∃ t : Team,
        ∃ ths : List Thread, ∃ k : Launch, exec (.teamPlacement l.id r.col r.core r.pens) s = .next v ∧ v.teams = s.teams ++ [t] ∧
          t = l.team s.nextId r l.next ∧ v.threads = s.threads ++ ths ∧ ths.map Thread.tid = (List.range l.size).map (BitVec.ofNat 32) ∧
          (∀ x ∈ ths, x.team = t.id ∧ x.pc = l.entry ∧ x.allot = l.regs ∧ x.col = r.col ∧ x.core = r.core ∧ x.regs = []) ∧
          v.launch? l.id = some k ∧ k.next = l.next + 1 ∧ v.mem = s.mem) ∧
      (s.waiting l = false → exec (.teamPlacement l.id r.col r.core r.pens) s = .next s ∧ exec (.cohortPlacement l.id) s = .next s) ∧
      (s.heldBack l l.next = true → exec (.cohortPlacement l.id) s = .next s) ∧
      (s.waiting l = true → 1 < l.cohort → s.heldBack l l.next = false → ∃ v : State, ∃ k : Launch,
        exec (.cohortPlacement l.id) s = .next v ∧ v.launch? l.id = some k ∧ v.mem = s.mem ∧
        (¬whole → v.teams = s.teams ∧ v.threads = s.threads ∧ k.target = m.target ∧ k.next = l.next) ∧
        (whole → v.teams.length = s.teams.length + l.cohort ∧ k.target = none ∧ k.next = l.next + l.cohort)) ∧
      (s.nextFits l = true → exec (.preemption l.id) s = .next s) ∧
      ((∃ fit ∈ s.wants l, fit s = false ∧ fit (s.without fun t => t.marked.isSome) = false ∧ fit (s.without (s.below l)) = true) →
        s.victimTeam l = some tm → s.cohortOf tm = [tm] → s.team? tm.id = some tm →
        s.bins = [] → s.engines.tiles = [] → exec (.preemption l.id) s = .next (s.setTeam { tm with marked := some s.now })) ∧
      (l.kind = 3 → l.done = false → l.token = none → s.recordsFull 0 = false → s.weightSource l = .ok b → s.weightEmpty l = none → (∀ w ∈ s.regs.weights, cellWf w.bytes = true) →
        ∃ v : State, exec (.weightload l.id) s = .next v ∧ v.launch? l.id = some { l with done := true, token := none, dead := false, since := none } ∧
          (uncached → v.mem = s.mem) ∧ ∀ c < 32, l.cmask.testBit c = true → ∃ w, v.regs.weights.find? (·.col = c) = some w ∧
            readBytes w.bytes at_ b.length = b) ∧
      (s.launchOver l = false → exec (.launchCompletionSignal l.id) s = .next s) ∧
      (s.launchOver l = true → l.failed = false → l.terminated = false → s.recordsFull 0 = false → ∃ v : State, exec (.launchCompletionSignal l.id) s = .next v ∧
        v.sched.launches = s.sched.launches.filter (·.id ≠ l.id) ∧ v.teams = s.teams ∧
        (l.ce = false → v.mem = ((s.zeroWindows l).syncInks l.ctx).mem) ∧
        (l.ce = false → l.windows = [] → v.mem = u.mem ∧ v.threads = u.threads) ∧
        (l.ce = true → l.windows = [] → (s.context l.ctx).desc.getLsbD 3 = false → u.counterLeaf l.ctx (recordCaddr l.record) true = .ok lf →
          lf.cls ≠ 3 → lf.cls ≠ 4 → u.badRead l.ctx lf 8 = false → s.caches.copies = [] → Memory.wf s.mem = true →
          v.mem = writeBytes u.mem lf.pa (leBytes 8 ((n % 2 ^ 63 + 1) % 2 ^ 63 + n / 2 ^ 63 * 2 ^ 63))))

/-! ## Contexts, escalations and saves (R6, R161, R371 to R384) -/

/-- R6, R371 to R373: a valid descriptor makes a context and an invalid one reads VALID 0; a live context takes only the fields that stay
writable; destroying marks it DYING, no operation of it waits for a page any more, and it ends, its surfaces, regions and cached lines
gone, once nothing of it runs. -/
def Obligations.ContextDescriptorEvents : Prop :=
  ∀ (s : State) (idx : Nat) (d : BitVec 1024),
    let old := (s.context idx).desc
    let others (v : State) : Prop := ∀ j, j ≠ idx → v.context j = s.context j
    (idx < 64 → old.getLsbD 0 = false → old.getLsbD 3 = false → d.getLsbD 0 = true → ∃ v : State,
      exec (.contextCreate idx d) s = .next v ∧ others v ∧ v.teams = s.teams ∧
      (descOk (d &&& ~~~8#1024) = true → (v.context idx).desc = d &&& ~~~8#1024) ∧
      (descOk (d &&& ~~~8#1024) = false → (v.context idx).desc = d &&& ~~~9#1024 ∧ v.mem = s.mem)) ∧
    (64 ≤ idx ∨ old.getLsbD 0 = true ∨ old.getLsbD 3 = true ∨ d.getLsbD 0 = false → exec (.contextCreate idx d) s = .next s) ∧
    (idx < 64 → old.getLsbD 0 = true → old.getLsbD 3 = false → d.getLsbD 0 = true → ∃ v : State,
      exec (.contextFieldWrite idx d) s = .next v ∧ others v ∧ v.mem = s.mem ∧ v.threads = s.threads ∧
      ∀ i < 1024, (v.context idx).desc.getLsbD i =
        if i = 1 ∨ i = 2 ∨ (16 ≤ i ∧ i < 48) ∨ (320 ≤ i ∧ i < 384) then d.getLsbD i else old.getLsbD i) ∧
    (old.getLsbD 0 = false → exec (.contextDestroy idx) s = .next s) ∧
    (old.getLsbD 0 = true → old.getLsbD 3 = false → ∃ v : State, exec (.contextDestroy idx) s = .next v ∧
      (v.context idx).desc = old ||| 8#1024 ∧ others v ∧ (∀ o ∈ v.ops, o.ctx ≠ idx) ∧ (∀ k ∈ v.sched.saved, k.team.ctx ≠ idx) ∧
      ∀ e ∈ v.engines.ops, e.ctx = idx → e.token = none) ∧
    (old.getLsbD 0 = true → old.getLsbD 3 = true → s.quiet idx = false → ∃ v : State, exec (.contextDestroy idx) s = .next v ∧
      v.contexts = s.contexts ∧ v.mem = s.mem ∧ v.threads = s.threads ∧ v.ops = s.ops ∧ ∀ e ∈ v.engines.ops, e.ctx = idx → e.token = none) ∧
    (old.getLsbD 0 = true → old.getLsbD 3 = true → s.quiet idx = true → ∃ v : State, exec (.contextDestroy idx) s = .next v ∧
      (v.context idx).desc = 0 ∧ others v ∧ (∀ c ∈ v.caches.copies, c.ctx ≠ idx) ∧ (∀ r ∈ v.inks, r.ctx ≠ idx) ∧
      (∀ f ∈ v.raster.surfaces, f.ctx ≠ idx) ∧ ∀ w ∈ v.queues, w.ctx ≠ idx)

/-- R375 to R377: an answer that names a held thread resumes it at the record's program counter, ends it, or terminates its launch; an
answer that names none does nothing. R30, R161, R378 to R384: a thread that may park is parked; past a marked team's deadline its
threads between clauses park; a drained team's image goes to the save area and the team leaves; a saved team whose place is free and
whose image is intact is resident again; a time slice that is not over changes nothing, and one that is over passes to the next function
that has work or, as the model chooses where there is none, to the holder again (notes/assumptions/51.md). -/
def Obligations.EscalationSaveAndRestore : Prop :=
  (∀ (s : State) (ctx token : Nat) (u : Thread) (k : Hold) (tm : Team) (l : Launch),
     (heldThread ctx token s.threads = none → s.savedHeld ctx token = none → exec (.hfrespResume ctx token) s = .next s ∧
       exec (.hfrespTerminateThread ctx token) s = .next s ∧ exec (.hfrespTerminateLaunch ctx token) s = .next s) ∧
     (heldThread ctx token s.threads = some (u, k) → s.thread? u.id = some u →
       (∃ v : State, ∃ w : Thread, exec (.hfrespResume ctx token) s = .next v ∧ v.thread? u.id = some w ∧ w.hold = none ∧
         w.pc = k.trap.pc ∧ w.block = none ∧ w.regs = u.regs ∧ w.preds = u.preds ∧ w.inHandler = u.inHandler ∧ v.mem = s.mem ∧
         v.teams = s.teams) ∧
       (s.team? u.team = some tm → s.launch? tm.launch = some l → l.id = tm.launch →
         (u.ticket = none → u.pending = [] → (u.ordered = true → s.writesWait u.id = false) →
           (s.heldRecords.filter (·.col = u.col)).length < 64 → s.slotsClear u.id = true → s.bins = [] → ∃ v : State, ∃ m : Launch,
           exec (.hfrespTerminateThread ctx token) s = .next v ∧ (∀ x ∈ v.threads, x.id ≠ u.id) ∧ v.launch? l.id = some m ∧
           m.failed = true) ∧
         ∃ v : State, ∃ m : Launch, exec (.hfrespTerminateLaunch ctx token) s = .next v ∧ v.launch? l.id = some m ∧ m.failed = true ∧
           m.terminated = true ∧ ∀ x ∈ v.bins, x.requests ≠ []))) ∧
  (∀ (s : State) (u : Thread) (tm : Team) (sv : SavedTeam) (base f : Nat),
     (s.thread? u.id = some u → s.parkDue u = false → exec (.threadPark u.id) s = .next s) ∧
     (s.thread? u.id = some u → s.parkDue u = true → ∃ v : State, ∃ w : Thread, exec (.threadPark u.id) s = .next v ∧
       v.thread? u.id = some w ∧ w.parked = true ∧ w.regs = u.regs ∧ w.stack = u.stack ∧ v.mem = s.mem ∧
       ((∀ b, u.block = some b → b.wait.inGroup = false) → w.pc = u.pc) ∧
       (∀ b, u.block = some b → b.wait.inGroup = true → w.pc = u.head ∧ w.group = none) ∧ ∀ x ∈ v.blkgets, x.tid ≠ u.id) ∧
     (s.threads = [u] → s.team? tm.id = some tm → s.deadlineDue tm u = true → ∃ v : State, ∃ w : Thread,
       exec (.deadlineExpiry tm.id) s = .next v ∧ v.threads = [w] ∧ w.parked = true ∧ w.wholeSave = w.mask.isNone ∧ w.regs = u.regs) ∧
     (s.team? tm.id = some tm → s.saveDue tm = false → exec (.teamSave tm.id) s = .next s) ∧
     (s.team? tm.id = some tm → s.saveDue tm = true → s.bins = [] →
       placeImage (s.context tm.ctx).saveArea (s.images tm.ctx) tm.imageSize = some base → ∃ v : State, ∃ k : SavedTeam,
       exec (.teamSave tm.id) s = .next v ∧ v.teams = s.teams.filter (·.id ≠ tm.id) ∧ 
       v.threads.map Thread.id = (s.threads.filter (·.team ≠ tm.id)).map Thread.id ∧
       v.sched.saved = s.sched.saved ++ [k] ∧ k.base = base ∧ k.size = tm.imageSize ∧ k.team.id = tm.id ∧ k.team.scratch = tm.scratch ∧
       k.team.acc = tm.acc ∧ k.team.barriers = tm.barriers ∧
       k.threads.map Thread.id = (s.threads.filter (·.team = tm.id)).map Thread.id) ∧
     (s.sched.saved = [sv] → s.restorable sv = true → s.cohortOut sv = true → s.savedCohort sv = [sv] → s.placeFree sv = true →
       s.intact sv = true → s.mayReturn sv = true → ∃ v : State,
       exec (.teamRestore sv.team.id) s = .next v ∧ v.teams = s.teams ++ [sv.team] ∧ v.sched.saved = [] ∧ v.mem = s.mem ∧
       v.threads = s.threads ++ sv.threads.map fun (x : Thread) => x.resumed s.now) ∧
     (s.sched.saved = [] → exec (.teamRestore tm.id) s = .next s) ∧
     (s.sched.switching = false → s.sliceOver = false → exec .sliceEnd s = .next s) ∧
     (s.sched.switching = false → s.sliceOver = true → s.nextFunction = none → s.sched.holder ≠ 0 → s.hasWork s.sched.holder = true →
       exec .sliceEnd s = .next { s with sched := { s.sched with sliceFrom := s.now } }) ∧
     (s.sched.switching = false → s.sched.holder = 0 → s.nextFunction = some f → ∃ v : State, exec .sliceEnd s = .next v ∧
       v.sched.holder = f ∧ v.sched.sliceFrom = s.now ∧ v.teams = s.teams ∧ v.queues = s.queues) ∧
     (s.sched.switching = false → s.sliceOver = true → s.sched.holder ≠ 0 → s.nextFunction = some f → s.teams = [] → ∃ v : State,
       exec .sliceEnd s = .next v ∧ v.sched.switching = true ∧ v.sched.holder = s.sched.holder))

/-! ## Counters, registers, errors and the platform (R385 to R432) -/

/-- R348, R385, R386, R415, R418, R419: a counter command is ignored while one is under way, and otherwise moves the named counters
between the columns and the table, a load before its end; its end clears BUSY; a register that the accessor may not reach is not written.
R417: a function masks its vector, and a message that is pending goes out when the mask is lifted (the register's place and that rule are
presumed, notes/assumptions/76.md). -/
def Obligations.CountersAndRegisterWrites : Prop :=
  ∀ (s : State) (value : BitVec 64) (off ctx f : Nat),
    let fn := field value 32 5
    let busy (v : State) : Prop := v.regs.ctrcmd.getLsbD 63 = true ∧ field v.regs.ctrcmd 0 37 = field value 0 37
    (s.regs.ctrcmd.getLsbD 63 = true → exec (.ctrcmdLoad value) s = .next s ∧ exec (.ctrcmdStore value) s = .next s) ∧
    (s.regs.ctrcmd.getLsbD 63 = false → s.caches.copies = [] →
      (field value 61 2 = 1 → ∃ v w : State, exec (.ctrcmdLoad value) s = .next v ∧ busy v ∧ v.mem = s.mem ∧
        v.regs.counters = s.regs.counters ∧ exec .ctrCommandDone v = .next w ∧ w.regs.ctrcmd.getLsbD 63 = false ∧ w.mem = s.mem ∧
        (s.functionLive fn = true → ∀ c < 32, ∀ k < 32, (field value 0 32).testBit c = true →
          (w.counter c (bankCounter fn k)).value = BitVec.ofNat 48 (leNat (readBytes s.mem (s.counterEntry fn c k + 8) 8)) ∧
          (w.counter c (bankCounter fn k)).select =
            BitVec.ofNat 64 (leNat (readBytes s.mem (s.counterEntry fn c k) 8)) &&& 0x3FF0FFF) ∧
        (s.functionLive fn = false → w.regs.counters = s.regs.counters)) ∧
      (field value 61 2 = 2 → Memory.wf s.mem = true → ∃ v : State, exec (.ctrcmdStore value) s = .next v ∧ busy v ∧
        v.regs.counters = s.regs.counters ∧ (s.functionLive fn = false → v.mem = s.mem) ∧
        (s.functionLive fn = true → ∀ c < 32, ∀ k < 32, (field value 0 32).testBit c = true →
          readBytes v.mem (s.counterEntry fn c k) 16 = leBytes 8 (s.counter c (bankCounter fn k)).select.toNat ++
            leBytes 8 (s.counter c (bankCounter fn k)).value.toNat))) ∧
    (s.regs.ctrcmd.getLsbD 63 = false → exec .ctrCommandDone s = .next s) ∧
    (field s.regs.ctrcmd 61 2 ≠ 1 → ∃ v : State, exec .ctrCommandDone s = .next v ∧ v.regs.ctrcmd.getLsbD 63 = false ∧ v.mem = s.mem ∧
      v.regs.counters = s.regs.counters ∧ field v.regs.ctrcmd 0 63 = field s.regs.ctrcmd 0 63) ∧
    (exec (.registerWrite (.func 0) 0x010 value) s = .next (s.onRegs fun (r : Registers) => { r with tinvaddr := value &&& 0x01FFFFFFFFFF0000 })) ∧
    (1 ≤ f → f ≤ 31 → field value 0 32 ≠ 0 → exec (.registerWrite (.func 0) (0x100 + 8 * f) value) s =
      .next (s.onRegs fun (r : Registers) => { r with slices := r.slices.set f (value &&& 0xFFFFFFFF) })) ∧
    (exec (.registerWrite (.func 0) 0x020 value) s = .next (s.writeHfresp value)) ∧
    (∃ v : State, exec (.registerWrite (.func f) vectorControl value) s = .next v ∧ v.mem = s.mem ∧ v.regs.counters = s.regs.counters ∧
      (value.getLsbD 0 = true → f ∉ v.regs.unmasked ∧ v.regs.pending = s.regs.pending ∧ v.regs.interrupts = s.regs.interrupts) ∧
      (value.getLsbD 0 = false → f ∈ v.regs.unmasked ∧ f ∉ v.regs.pending ∧
        v.regs.interrupts = s.regs.interrupts ++ if f ∈ s.regs.pending then [f] else [])) ∧
    (¬(0x100000 ≤ off ∧ off < 0x140000) → (f ≠ 0 → off ≠ vectorControl → exec (.registerWrite (.func f) off value) s = .next s) ∧
      exec (.registerWrite (.program ctx) off value) s = .next s)

/-- R403, R404, R407, R411 to R414: an uncorrectable error marks its granule, is counted and logged, and one found by the scrub likewise; in
a cache, a dirty copy's sector is marked and a clean one is fetched again; an error that is corrected is counted; a control error empties
the core's queues and is logged, and of a column writes back the lines that it can and marks the others; a
record that waited is written when its ring has room; the log and the counts read as written, the counts then being zero. -/
def Obligations.ErrorEventsAct : Prop :=
  ∀ (s : State) (tm : Team) (r : HeldRecord) (site : Site) (stuck : List Nat) (col core k : Nat),
    let base := field (s.context r.ctx).desc 384 64
    let log := field (s.context r.ctx).desc 60 4
    let p := s.peekNat base 4
    let corrected (v : State) (c cls : Nat) : Option (Nat × Nat) :=
      (v.platform.corrections.find? fun x => x.col = c && x.cls = cls).map fun x => (x.corrected, x.poisoned)
    let old (c cls : Nat) : Nat × Nat := (corrected s c cls).getD (0, 0)
    (s.sitePlace site = none → exec (.uncorrectableError site) s = .next s) ∧
    (s.team? tm.id = some tm → k * 32 < tm.scratchSize → ∃ v : State, exec (.uncorrectableError (.scratch tm.id k)) s = .next v ∧
      (∃ g, v.team? tm.id = some g ∧ k ∈ g.scratchPoison ∧ g.scratch = tm.scratch) ∧ v.mem = s.mem ∧
      v.platform.logCount = s.platform.logCount + 1 ∧
      ((old tm.col 1).2 < 2 ^ 32 - 1 → (old tm.col 1).1 < 2 ^ 32 → corrected v tm.col 1 = some ((old tm.col 1).1, (old tm.col 1).2 + 1))) ∧
    (regionOf (k * 32) = 0 → k * 32 % 2 ^ 37 < hbmSize → ∃ v : State, exec (.uncorrectableError (.memory k)) s = .next v ∧
      k ∈ v.poison ∧ (s.owner? (k / 4) = none → v.poisoned (k * 32) 32 = true) ∧ v.mem = s.mem ∧ v.caches = s.caches ∧
      v.platform.logCount = s.platform.logCount + 1 ∧
      ∃ w : State, exec (.patrolScrub (homeColumn (k * 32)) (.memory k) true) s = .next w ∧ w.poison = v.poison ∧
        w.mem = s.mem ∧ w.platform.logCount = s.platform.logCount + 1) ∧
    (∀ x, s.copy? col (k / 4) = some x → ∃ v : State, exec (.uncorrectableError (.cache col k)) s = .next v ∧ v.mem = s.mem ∧
      v.poison = s.poison ∧ ∀ n, n = k % 4 →
        (x.dirtyOf n ≠ 0 → v.copy? col (k / 4) = some { x with poison := x.poison ||| 2 ^ n } ∧
          v.platform.logCount = s.platform.logCount + 1) ∧
        (x.dirtyOf n = 0 → v.platform.logCount = s.platform.logCount ∧ ((old col 3).1 < 2 ^ 32 - 1 → (old col 3).2 < 2 ^ 32 →
          corrected v col 3 = some ((old col 3).1 + 1, (old col 3).2)))) ∧
    (∀ cls, s.sitePlace site = some (col, cls) → (old col cls).1 < 2 ^ 32 - 1 →
      (old col cls).2 < 2 ^ 32 → ∃ v : State, exec (.patrolScrub col site false) s = .next v ∧ v.mem = s.mem ∧ v.poison = s.poison ∧
        corrected v col cls = some ((old col cls).1 + 1, (old col cls).2)) ∧
    (col < 32 → core < 128 → ∃ v : State, exec (.coreControlError col core) s = .next v ∧
      v.platform.logCount = s.platform.logCount + 1 ∧ (∀ x ∈ v.locks, ¬(x.col = col ∧ x.core = core)) ∧
      (∀ x ∈ v.strokes, ¬(x.col = col ∧ x.core = core)) ∧ ∀ x ∈ v.engines.tiles, ¬(x.col = col ∧ x.core = core)) ∧
    (col < 32 → ∃ v : State, exec (.columnControlError ⟨col, stuck⟩) s = .next v ∧ v.platform.logCount = s.platform.logCount + 1 ∧
      (∀ x ∈ v.caches.copies, x.col = col → x.line ∈ stuck ∧ x.poison = 15) ∧
      ((∀ t ∈ s.teams, t.col ≠ col) → (∀ o ∈ s.ops, o.col ≠ col) → ∀ x ∈ s.caches.copies, x.col = col → x.line ∈ stuck →
        x.owned = true → (∀ y ∈ s.caches.copies, y.col = col → y.line = x.line → y = x) → v.copy? col x.line = none ∧ ∀ n < 4, 4 * x.line + n ∈ v.poison) ∧ ∀ x ∈ v.locks, ¬(x.col = col ∧ x.core < 128)) ∧
    (s.heldRecords = [r] → r.col = col → s.engines.ops = [] → s.ops = [] →
      (s.ringRoom base log = false → exec (.faultRecordPostDelayed col) s = .next s) ∧
      (s.ringRoom base log = true → s.caches.copies = [] → Memory.wf s.mem = true → r.bytes.length = 64 → ∃ v : State,
        exec (.faultRecordPostDelayed col) s = .next v ∧ v.heldRecords = [] ∧
        readBytes v.mem (base + 64 + 64 * (p % 2 ^ log)) 64 = r.bytes ∧ readBytes v.mem base 4 = leBytes 4 ((p + 1) % 2 ^ 32))) ∧
    (s.powered = true → k < 1024 → ∃ v : State, exec (.errorLogRead k) s = .next v ∧ v.mem = s.mem ∧ v.platform.replies =
      s.platform.replies ++ [leBytes 32 (s.platform.entry k).toNat ++ leBytes 4 s.platform.logCount]) ∧
    (s.powered = true → col < 32 → ∃ v : State, exec (.correctionCountRead col) s = .next v ∧ v.platform.replies =
      s.platform.replies ++ [(List.range 9).flatMap fun c => leBytes 4 (old col c).1 ++ leBytes 4 (old col c).2] ∧
      (∀ c, corrected v col c = none) ∧ ∀ j c, j ≠ col → corrected v j c = corrected s j c)

/-- R388 to R393: a host core reads and writes memory at its home and nothing else there, and so does a peer, by atomics as well; a frame that
is closed to a peer is not touched; a peer's own memory changes behind its aperture, and a marked answer of it ends this package's load as
poisoned data; a request without an answer for its time is ended, a read as poisoned data; the sixteenth failed replay of a flit takes its
port down; a peer that is gone counts as having acknowledged; its retirement requests discard copies and are acknowledged. -/
def Obligations.HostAccessAndLinkEvents : Prop :=
  ∀ (s : State) (addr len port peer f aop aty : Nat) (again : Bool) (b cmp : DWord) (bytes : List Byte) (o : Op) (x : Access) (l : Leaf)
      (since : Nat),
    let plain (n : Nat) : Prop := regionOf addr = 0 ∧ memoryAt addr n = true ∧ s.servedRange addr n = true ∧ s.caches.copies = [] ∧
      s.freshFrames addr n = s
    let act := Action.atomic aop aty b cmp []
    let new := (act.apply (readBytes s.mem addr act.width)).bytes
    let swapped (v : State) : Prop := v.regs.hostReply = readBytes s.mem addr act.width ∧
      v.mem = match new with | some w => writeBytes s.mem addr w | none => s.mem
    let sound (n : Nat) : Prop := s.poisoned addr n = false
    let reads : Host.Outcome State Fault Refusal :=
      .next (s.onRegs fun (r : Registers) => { r with hostReply := readBytes s.mem addr bytes.length })
    let written (v : State) : Prop := v.mem = writeBytes s.mem addr bytes ∧ v.threads.map Thread.regs = s.threads.map Thread.regs ∧
      v.teams = s.teams
    let ended (i : Instr) : Prop := ∃ v : State, exec i s = .next v ∧ v.mem = s.mem ∧ v.threads = s.threads ∧
      v.ops = [{ o with stage := .failed 0x0F 0 none true }]
    let fails := if again then ((s.platform.links.find? (·.port = port)).map LinkPort.fails).getD 0 + 1 else 0
    let isDown : Prop := ∃ k ∈ s.platform.links, s.platform.links.find? (·.port = port) = some k ∧ k.down = true
    (plain bytes.length → s.tableAt addr = none →
      (s.entryAt addr = none → ∃ v : State, exec (.hostAccess f addr (.write bytes)) s = .next v ∧ written v) ∧
      (sound bytes.length → exec (.hostAccess f addr (.read bytes.length)) s = reads)) ∧
    (plain bytes.length → s.closedTo peer addr bytes.length = false →
      (∃ v : State, exec (.peerAccess peer addr (.write bytes)) s = .next v ∧ written v) ∧
      (sound bytes.length → exec (.peerAccess peer addr (.read bytes.length)) s = reads)) ∧
    (plain act.width → memoryAt addr 8 = true → addr % act.width = 0 → sound act.width →
      (s.tableAt addr = none → ∃ v : State, exec (.hostAccess f addr (.atomic aop aty b cmp)) s = .next v ∧ swapped v) ∧
      (s.closedTo peer addr act.width = false →
        ∃ v : State, exec (.peerAccess peer addr (.atomic aop aty b cmp)) s = .next v ∧ swapped v)) ∧
    (regionOf addr ≠ 3 → s.closedTo peer addr bytes.length = true → exec (.peerAccess peer addr (.write bytes)) s = .next s) ∧
    (regionOf addr = 3 → s.peerOf addr = some peer →
      exec (.peerAccess peer addr (.write bytes)) s = .next { s with mem := writeBytes s.mem (s.through addr) bytes } ∧
      (s.ops = [o] → o.stage = .remote x l since → l.pa = addr → x.act.isStore = false →
        exec (.peerAccess peer addr (.answer bytes true)) s = .next (s.setOp { o with stage := .failed 0x0F 0 none true }))) ∧
    (s.ops = [o] → o.stage = .remote x l since → x.act.dst ≠ [] →
      (regionOf l.pa = 1 → since + 1100000 ≤ s.now → ended (.cxlTimeout o.id)) ∧
      (regionOf l.pa = 1 → s.now < since + 1100000 → exec (.cxlTimeout o.id) s = .next s) ∧
      (regionOf l.pa = 3 → since + 1100000 ≤ s.now ∨ s.served l.pa = false → ended (.peerTimeout o.id)) ∧
      (regionOf l.pa = 3 → s.now < since + 1100000 → s.served l.pa = true → exec (.peerTimeout o.id) s = .next s)) ∧
    (24 ≤ port ∨ isDown → exec (.flitCrcFail ⟨port, again⟩) s = .next s) ∧
    (port < 24 → ¬isDown → ∃ v : State, exec (.flitCrcFail ⟨port, again⟩) s = .next v ∧ v.mem = s.mem ∧ v.ops = s.ops ∧
      v.platform.links.find? (·.port = port) = some ⟨port, fails, decide (16 ≤ fails)⟩ ∧
      v.platform.logCount = s.platform.logCount + if 16 ≤ fails then 1 else 0) ∧
    ((∀ k ∈ s.peersDown, ¬(k.1 = peer ∧ k.2 + 1100000 ≤ s.now)) → exec (.peerRoutesDownTimeout peer) s = .next s) ∧
    (∀ r, s.inks = [r] → (∃ k ∈ s.peersDown, k.1 = peer ∧ k.2 + 1100000 ≤ s.now) → peer ∈ r.peers → r.acks ≠ [] → ∃ v : State,
      exec (.peerRoutesDownTimeout peer) s = .next v ∧ v.inks = [{ r with peers := r.peers.filter (· ≠ peer) }] ∧ v.mem = s.mem ∧
      ∀ p ∈ s.inkPages r, (peer, p / 65536) ∈ v.platform.refused) ∧
    ∃ v : State, exec (.peerRetirementRequest ⟨peer, addr⟩ len) s = .next v ∧ v.mem = s.mem ∧ v.threads = s.threads ∧
      v.platform.acknowledged = s.platform.acknowledged ++ [(peer, addr, len)] ∧
      let outside (line : Nat) : Prop := line * 128 + 128 ≤ s.through addr ∨ s.through addr + len ≤ line * 128
      (∀ c, c ∈ v.caches.copies ↔ c ∈ s.caches.copies ∧ outside c.line) ∧ ∀ c, c ∈ v.caches.scopes ↔ c ∈ s.caches.scopes ∧ outside c.line

/-- R6, R423 to R431: a module reset starts a power span with the valid image of the greater version, or stays in recovery when neither is
valid, flash keeping its slots and counts, but for a slot in the middle of a write, which is left invalid; power that is removed leaves the
rest of flash alone; an image is written to the slot that is not in use; an attestation report is signed with the next leaf, in 2,828 bytes;
power caps and temperatures act as their limits say. -/
def Obligations.PlatformEventsAct : Prop :=
  ∀ (s : State) (k mw col deg : Nat) (bytes nonce : List Byte) (cfg : Config.Settings),
    let slots := s.platform.slotsLeft
    let flash (v : State) : Prop := v.platform.slots = slots ∧ v.platform.leaf = s.platform.leaf
    let empty (v : State) : Prop := v.mem = [] ∧ v.threads = [] ∧ v.teams = [] ∧ v.contexts = [] ∧ v.queues = [] ∧ v.ops = [] ∧ v.now = 0
    let pick := chooseSlot s.platform.rollback slots
    let report := s.report nonce s.platform.leaf 0
    (s.platform.writing = none → slots = s.platform.slots) ∧
    (∀ j, s.platform.writing = some j → imageOk s.platform.rollback (slots.getD j []) = false) ∧
    (pick = none → ∃ v : State, exec .moduleReset s = .next v ∧ v.power = .recovery ∧ flash v ∧ empty v ∧
      v.platform.rollback = s.platform.rollback) ∧
    (pick = some k → Config.bodySettings (imageBody (slots.getD k [])) = some cfg → settingsOk cfg = true ∧ ∃ v : State,
      exec .moduleReset s = .next v ∧ v.power = .on ∧ flash v ∧ empty v ∧ v.platform.chosen = k ∧
      v.platform.rollback = max s.platform.rollback (imageVersion (slots.getD k [])) ∧ v.platform.settings = cfg ∧
      ∀ p, (p ∈ v.platform.rootsDown → p < 8) ∧ (cfg.ports ≤ p → p < 8 → p ∈ v.platform.rootsDown)) ∧
    (pick = some k → imageOk s.platform.rollback (slots.getD k []) = true ∧
      ∀ j < 2, imageOk s.platform.rollback (slots.getD j []) = true → imageVersion (slots.getD j []) ≤ imageVersion (slots.getD k [])) ∧
    (∃ v : State, exec .powerRemoval s = .next v ∧ v.power = .off ∧ flash v ∧ empty v ∧ v.platform.rollback = s.platform.rollback) ∧
    (k < 2 → bytes.length ≤ 16777216 → s.power = .recovery ∨ (s.powered = true ∧ k ≠ s.platform.chosen) →
      (∃ v : State, exec (.imageWrite k (some bytes)) s = .next v ∧ v.platform.slots = s.platform.slots.set k bytes ∧ v.mem = s.mem ∧
        v.platform.rollback = s.platform.rollback ∧ v.platform.writing = none) ∧
      ∃ v : State, exec (.imageWrite k none) s = .next v ∧ v.platform = { s.platform with writing := some k } ∧ v.mem = s.mem) ∧
    (s.powered = true → k = s.platform.chosen →
      exec (.imageWrite k (some bytes)) s = .next s ∧ exec (.imageWrite k none) s = .next s) ∧
    (s.powered = true → nonce.length = 32 → s.platform.leaf < 2 ^ 20 → ∃ v : State, ∃ c : List Byte,
      exec (.attestationRequest nonce) s = .next v ∧ v.platform.leaf = s.platform.leaf + 1 ∧ c.length = 32 ∧
      v.platform.replies = s.platform.replies ++ [report ++ identitySign report c s.platform.leaf] ∧
      (identitySign report c s.platform.leaf).length = 2828) ∧
    (s.powered = true → nonce.length = 32 → 2 ^ 20 ≤ s.platform.leaf → ∃ v : State, exec (.attestationRequest nonce) s = .next v ∧
      v.platform.leaf = s.platform.leaf ∧ v.platform.replies.length = s.platform.replies.length + 1) ∧
    (s.powered = true →
      (s.platform.floor ≤ mw → mw ≤ 7500000 → ∃ v : State, exec (.powerCap mw) s = .next v ∧ v.platform.nextCap = mw ∧
        v.platform.cap = s.platform.cap) ∧
      (mw < s.platform.floor ∨ 7500000 < mw → exec (.powerCap mw) s = .next s) ∧
      (s.platform.windowFrom + 1100000 ≤ s.now → ∃ v : State, exec (.powerWindow mw) s = .next v ∧ v.platform.cap = s.platform.nextCap ∧
        v.platform.windowFrom = s.platform.windowFrom + 1100000 ∧ (v.platform.exceeded = true ↔ s.platform.nextCap < mw)) ∧
      (s.now < s.platform.windowFrom + 1100000 → exec (.powerWindow mw) s = .next s)) ∧
    (col < 32 →
      (∃ v : State, exec (.thermalThrottle col deg) s = .next v ∧ v.threads = s.threads ∧ v.mem = s.mem ∧
        (105 < deg → col ∈ v.platform.throttled) ∧ (deg < 100 → col ∉ v.platform.throttled) ∧
        (100 ≤ deg → deg ≤ 105 → v.platform.throttled = s.platform.throttled) ∧
        ∀ j, j ≠ col → (j ∈ v.platform.throttled ↔ j ∈ s.platform.throttled)) ∧
      (s.powered = true → 115 ≤ deg → ∃ v : State, exec (.thermalShutdown col deg) s = .next v ∧ v.power = .halted ∧ v.mem = s.mem ∧
        v.platform.alarms = s.platform.alarms ++ [col]) ∧
      (deg < 115 → exec (.thermalShutdown col deg) s = .next s))

/-! ## Issue, decoding and encoding (R17, R24, R53 to R75, R223) -/

/-- R60 to R64, R74, R75: for every Lamen instruction, decoding what its encoding gives is the instruction, and a word that decodes to one
is its encoding: no bit of a word is dropped. -/
def Obligations.DecodeInvertsEncode : Prop :=
  (∀ i : Instr, i.head?.isSome = true → i.WellFormed → ∃ w : DWord, encode i = some w ∧ decode w = .ok i) ∧
    ∀ (w : DWord) (i : Instr), decode w = .ok i → i.head?.isSome = true → encode i = some w

/-- R60 to R64, R74: words written out from the spec's encodings, as its worked examples give them, decode to the instructions that they
stand for. -/
def Obligations.DecodedWords : Prop :=
  decode 0x140038181FFFFFFF = .ok (.addi ⟨0, false, false, 0, false, 7⟩ ⟨3, 3, 0x7FFFFFF⟩) ∧
  decode 0x0400385020285080 = .ok (.madw ⟨0, false, false, 0, false, 7⟩ ⟨10, 4, 5, 10, 1, 0⟩) ∧
  decode 0x2180383024003448 = .ok (.ffma ⟨0, false, false, 0, false, 7⟩ ⟨6, 4, 0x80, 6, 8, 0x48⟩) ∧
  decode 0x2405B83817878400 = .ok (.frcp ⟨0, false, true, 3, false, 7⟩ ⟨7, 2, 0xF0, 0xF0, 8, 0⟩) ∧
  decode 0x4400381808178004 = .ok (.pand ⟨0, false, false, 0, false, 7⟩ ⟨3, 1, 2, 0xF0, 0, 4⟩) ∧
  decode 0x4080384300000001 = .ok (.movk ⟨0, false, false, 0, false, 7⟩ ⟨8, 3, 1⟩) ∧
  decode 0x8C803F8787878000 = .ok (.exit ⟨0, false, false, 0, false, 7⟩ ⟨0xF0, 0xF0, 0xF0, 0xF0, 0⟩)

/-- R53, R60, R207, R213: when the device is on and nothing comes before it, and a thread of the stroke that issues can issue, the step is
the execution of the instruction whose fields the word at its place holds, with that thread taken off the list of those still to issue;
a word that is placed is the one that the next step executes. -/
def Obligations.StepRunsDecodedInstruction : Prop :=
  ∀ (s : State) (c : Issue) (t : Thread) (w : DWord) (n tid : Nat) (rest : List (Nat × Nat)),
    (s.power = .on ∨ s.power = .halted → s.agenda = [] → s.issuing = (n, tid) :: rest → s.cur = some c → s.thread? tid = some t → t.issues s.now = true →
      c.clause.words[c.idx]? = some w →
      step s = exec (decodeFields w) { s with issuing := rest, cur := some { c with tid := tid, stroke := n } }) ∧
    (∀ i, decode w = .ok i → decodeFields w = i) ∧
    ∀ bits word : Nat, step (s.withFetchWord bits word) =
      exec (decodeFields (BitVec.ofNat 64 word)) { s.withFetchWord bits word with issuing := [] }

/-- R17, R21, R24, R67, R70, R116, R145, R223, R406: the faults that a word meets before its own effect, in their order. A word that breaks
its encoding takes cause 0x01 or 0x02, an `inkstat` whose destination leaves the allotment 0x02, and another word that names a register
above the allotment 0x03, guard or no guard; a guard that fails makes the word do nothing else; a leased register is 0x04, a result not
yet ready under the checking scoreboard 0x05, a marked source 0x0F, and a quad instruction's sources are those of all its members. Each is
precise at the word, and no part of the word's effect takes place. That a predicate in flight that guards a failing word takes 0x05 is
the model's choice (notes/assumptions/55.md). -/
def Obligations.IssueFaultsInOrder : Prop :=
  ∀ (i : Instr) (h : Head) (s : State) (c : Issue) (t : Thread), i.head? = some h → s.cur = some c → s.thread? c.tid = some t →
    let u := t.atIssue s.now
    let s' := s.atIssue t h i
    let named := (s'.usesOf u i).src ++ (s'.usesOf u i).dst
    let leased : Prop := s.leased c.tid named = true ∨ ∃ a, quadSource i = some a ∧ s'.quadLease c u a = true
    let faults (k : Nat) : Prop := ∃ v : State, ∃ w : Thread, exec i s = .next v ∧ v.thread? c.tid = some w ∧
      { v with threads := s.threads, regs := s.regs, fresh := s.fresh, nextId := s.nextId } = s ∧
      (∀ x ∈ v.threads, x.id ≠ c.tid → x ∈ s.threads) ∧ w.regs = u.regs ∧ w.preds = u.preds ∧ w.stack = u.stack ∧ w.allot = u.allot ∧
      w.flights = u.flights ∧ (s.slotsClear c.tid = true → u.inHandler = false →
        w.trapPc = c.pc ∧ w.trapInfo = BitVec.ofNat 32 k ∧ w.inHandler = true ∧ w.pc = (s.context u.ctx).trapEntry)
    s'.deferredDue u i = false →
      (c.illegal h i = some .instruction → faults 0x01) ∧ (c.illegal h i = some .operand → faults 0x02) ∧
      (c.illegal h i = none → offAllotment u i = true → faults 0x02) ∧
      (c.illegal h i = none → offAllotment u i = false → (∃ n ∈ named, 16 + 16 * u.allot ≤ n) → faults 0x03) ∧
      (∀ k ≤ u.allot, (∃ n ∈ named, 16 + 16 * (u.allot - k) ≤ n) → rangeFault { u with allot := u.allot - k } (s'.usesOf u i) none = true) ∧
      (s'.decodeFault c u h i = none →
        (u.guard h = false →
          ((s.context u.ctx).chksb = true → underrun u h {} = true → faults 0x05) ∧
          ((s.context u.ctx).chksb = false ∨ underrun u h {} = false → exec i s = .next (s.becomes t h i (u.advance c h s.now)))) ∧
        (u.guard h = true →
          (leased → faults 0x04) ∧
          (¬leased →
            ((s.context u.ctx).chksb = true → underrun u h (s'.usesOf u i) = true → faults 0x05) ∧
            ((s.context u.ctx).chksb = false ∨ underrun u h (s'.usesOf u i) = false →
              (∃ n ∈ (s'.usesOf u i).src, n ∈ u.poisoned) ∨ (∃ a, quadSource i = some a ∧ s'.quadPoison c u h i a = true) → faults 0x0F))))

/-- R66: what a fixed-latency result does. Before its ready cycle every register and predicate reads as without it; from then on its
destination holds the value, unless a later result of the same destination has landed, and the others read as without it; p7 discards. -/
def Obligations.FixedResultsLandAtLatency : Prop :=
  ∀ (u : Thread) (now lat k m n : Nat) (x : Word) (b : Bool), cellWf u.regs = true →
    let r := u.launch now lat [.reg n x]
    let p := u.launch now lat [.pred n b]
    (k < now + lat → (r.settle k).reg m = (u.settle k).reg m ∧ (p.settle k).pred m = (u.settle k).pred m) ∧
    (m ≠ n → (r.settle k).reg m = (u.settle k).reg m ∧ (p.settle k).pred m = (u.settle k).pred m) ∧
    (r.settle k).preds = (u.settle k).preds ∧ (p.settle k).regs = (u.settle k).regs ∧
    (now + lat ≤ k → u.flights.Pairwise (fun f g => f.ready ≤ g.ready) →
      ((∀ f ∈ u.flights, ∀ y, f.dest = .reg n y → f.ready ≤ now + lat) → (r.settle k).reg n = x) ∧
      ((∀ f ∈ u.flights, ∀ y, f.dest = .pred n y → f.ready ≤ now + lat) → n < 7 → (p.settle k).pred n = b)) ∧
    (p.settle k).pred 7 = true

/-- R112: `nop` is opcode 0x1D0 in format X with no operand; another FN is the illegal instruction fault, another operand the illegal
operand fault; else it changes nothing but the thread's place, and STALL delays the thread's next issue. -/
def Obligations.NopChangesNothing : Prop :=
  ∀ (h : Head) (o : XF) (s : State) (c : Issue) (t : Thread),
    let u := t.atIssue s.now
    decodeFields (encX 0x1D0 h o) = .nop h o ∧
    ((Instr.nop h o).WellFormed → o = ⟨0xF0, 0xF0, 0xF0, 0xF0, 0⟩) ∧
    (s.cur = some c → s.thread? c.tid = some t → t.pending = [] → o.fn ≠ 0 →
      exec (.nop h o) s = .next ((s.atIssue t h (.nop h o)).raiseFree c u 0x01)) ∧
    (Issues s c t h (.nop h o) → ∃ v : State, exec (.nop h o) s = .next v ∧ { v with threads := s.threads, regs := s.regs } = s ∧
      v.thread? c.tid = some (u.advance c h s.now) ∧ (∀ x ∈ v.threads, x.id ≠ c.tid → x ∈ s.threads) ∧
      (u.advance c h s.now).regs = u.regs ∧ (u.advance c h s.now).preds = u.preds ∧ (u.advance c h s.now).flights = u.flights ∧
      (u.advance c h s.now).nextIssue = s.now + 1 + h.stall.toNat)

/-- R96: `fmin` and `fmax` return one of their modified inputs exactly: the other input where exactly one is a NaN, the canonical NaN where
both are, and −0 is less than +0; SAT then applies. -/
def Obligations.MinimumAndMaximumExact : Prop :=
  ∀ (h : Head) (o : RRR) (s : State) (c : Issue) (t : Thread),
    let u := t.atIssue s.now
    let a := modCode .f32 (o.mod.getLsbD 1) (o.mod.getLsbD 3) (srcWord s u o.a).toNat
    let b := modCode .f32 (o.mod.getLsbD 0) (o.mod.getLsbD 2) (srcWord s u o.b).toNat
    let nan (x : Nat) : Prop := 0x7F800000 < x % 2 ^ 31
    let rank (x : Nat) : Int := if x < 2 ^ 31 then x else 2 ^ 31 - 1 - x
    let returns (i : Instr) (first : Prop) (second : Prop) : Prop := Issues s c t h i → ∃ x : Nat,
      exec i s = .next (s.afterFixed c t h i 5 (dstWord o.d (BitVec.ofNat 32 (if o.mod.getLsbD 4 then satUnit .f32 x else x)))) ∧
      (nan a → nan b → x = 0x7FC00000) ∧ (nan a → ¬nan b → x = b) ∧ (¬nan a → nan b → x = a) ∧
      (¬nan a → ¬nan b → (x = a ∨ x = b) ∧ (first → x = a) ∧ (second → x = b))
    returns (.fmin h o) (rank a < rank b) (rank b < rank a) ∧ returns (.fmax h o) (rank b < rank a) (rank a < rank b)

/-! ## Frames -/

/-- R66, R74: a fixed-latency instruction other than `wrs` and the quad instructions issues with results in its own destinations only:
beside them it changes the issuing thread's place and the counters of events, so memory, caches, teams and every other thread stay. -/
def Obligations.RegisterInstructionFrame : Prop :=
  ∀ (i : Instr) (h : Head) (s : State) (c : Issue) (t : Thread) (lat : Nat),
    i.timing = .fixed lat → i.head? = some h → (∀ o, i ≠ .wrs h o) → (∀ o, i ≠ .ddx h o) → (∀ o, i ≠ .ddy h o) → (∀ o, i ≠ .qswz h o) →
    Issues s c t h i →
      let u := t.atIssue s.now
      let uses := (s.atIssue t h i).usesOf u i
      ∃ v : State, ∃ w : Thread, exec i s = .next v ∧ { v with threads := s.threads, regs := s.regs } = s ∧
        v.thread? c.tid = some w ∧ (∀ x ∈ v.threads, x.id ≠ c.tid → x ∈ s.threads) ∧ u.Keeps w ∧ w.regs = u.regs ∧ w.preds = u.preds ∧
        w.pc = (c.next h).1 ∧ w.nextIssue = s.now + 1 + h.stall.toNat ∧
        ∀ k, (k < s.now + lat → (w.settle k).regs = (u.settle k).regs ∧ (w.settle k).preds = (u.settle k).preds) ∧
          (cellWf u.regs = true → ∀ r, r ∉ uses.dst → (w.settle k).reg r = (u.settle k).reg r) ∧
          ∀ p, p ∉ uses.pdst → (w.settle k).pred p = (u.settle k).pred p

/-- R120 to R123, R127 to R129, R135 to R138: an access changes the bytes that it stores and no other byte, memory and scratchpad alike; it
leaves the thread's registers and predicates, until a leased destination is written, and every other thread's. -/
def Obligations.MemoryAccessFrame : Prop :=
  ∀ (h : Head) (o : MF) (p : XF) (s : State) (c : Issue) (t : Thread) (l : Leaf) (tm : Team),
    let u := t.atIssue s.now
    let kept (v : State) : Prop := v.contexts = s.contexts ∧ (∃ w : Thread, v.thread? c.tid = some w ∧ u.Keeps w ∧ w.regs = u.regs ∧
        w.preds = u.preds ∧ w.flights = u.flights ∧ w.pc = (c.next h).1) ∧
      ∀ w ∈ v.threads, w.id ≠ c.tid → ∃ x ∈ s.threads, x.id = w.id ∧ x.Keeps w ∧ w.regs = x.regs ∧ w.preds = x.preds ∧ w.pc = x.pc
    let frames (i : Instr) (x : Access) (align : Nat) : Prop :=
      let off := x.va.toNat - windowBase
      let kept' (v : State) : Prop := exec i s = .next v ∧ kept v
      (Issues s c t h i → AtColumn s c u x align l → (x.act.apply (readBytes s.mem l.pa x.act.width)).misuse = false →
        ∃ v : State, kept' v ∧ v.teams = s.teams ∧
          ∀ b, (x.act.writes = false ∨ b < l.pa ∨ l.pa + x.act.width ≤ b) → v.peek b 1 = s.peek b 1) ∧
      (Issues s c t h i → AtScratch s u x align tm → cellWf tm.scratch = true →
        (x.act.apply (readBytes tm.scratch off x.act.width)).misuse = false →
        (x.act.isStore = true ∨ ∀ k ∈ tm.scratchPoison, k * 32 + 32 ≤ off ∨ off + x.act.width ≤ k * 32) →
        ∃ v : State, kept' v ∧ v.mem = s.mem ∧ (∀ g ∈ v.teams, g.id ≠ u.team → g ∈ s.teams) ∧
          ∃ g : Team, v.team? u.team = some g ∧ { g with scratch := tm.scratch, scratchPoison := tm.scratchPoison } = tm ∧
            ∀ b, (x.act.writes = false ∨ b < off ∨ off + x.act.width ≤ b) → cellRead b g.scratch = cellRead b tm.scratch)
    let load (form : Nat) : Access :=
      ⟨.load (widBytes o.wid) (widSigned o.wid) (transferRegs o) form, effAddr u o, o.ord.toNat⟩
    let wide := atomWide p.fn
    let src (r : BitVec 8) : DWord := match fnAty p.fn with
      | 2 => srcTyped s u 2 r
      | 3 => srcPair s u r
      | 5 => (srcHalves s u .f16 r).zeroExtend 64
      | 6 => (srcHalves s u .bf16 r).zeroExtend 64
      | _ => (srcWord s u r).zeroExtend 64
    let dst := if wide then pairRegs p.d else wordRegs p.d
    let va := u.pair p.a.toNat
    let n := if wide then 8 else 4
    (c.inGroup = false → frames (.ld h o) (load 0) (widBytes o.wid)) ∧ frames (.ldro h o) (load 1) (widBytes o.wid) ∧
    frames (.ldw h o) (load 2) (widBytes o.wid) ∧
    (u.helper = false → (c.inGroup = false → frames (.st h o) ⟨.store (storeBytes s u o), effAddr u o, o.ord.toNat⟩ (widBytes o.wid)) ∧
      frames (.atom h p) ⟨.atomic (fnAop p.fn) (fnAty p.fn) (src p.b) 0 dst, va, fnOrd p.fn⟩ n ∧
      frames (.cas h p) ⟨.atomic 7 (fnAty p.fn) (src p.c) (src p.b) dst, va, fnOrd p.fn⟩ n ∧
      frames (.red h p) ⟨.red (fnAop p.fn) (fnAty p.fn) (src p.b), va, fnOrd p.fn⟩ n ∧
      frames (.xadd h p) ⟨.xadd (srcWord s u p.b), va, fnOrd p.fn⟩ 64 ∧
      frames (.xrd h p) ⟨.xrd (p.fn.extractLsb' 5 2).toNat (p.fn.getLsbD 4) (wordRegs p.d), va, fnOrd p.fn⟩ 64 ∧
      (srcWord s u p.b ≠ 0 → frames (.mbarr h p) ⟨.mbarr (srcWord s u p.b), va, 0⟩ 8))

/-- R14, R21, R25, R149: no word of one thread writes the registers, predicates or return stack of another: whatever instruction a thread
executes, every thread that stays has the registers, predicates, return stack, allotment and identity that it had, except that at a
`qpush`, `qpop` or `qtry` a thread that waits in a ring's line for its own `qpush` or `qpop` may be served first (R149), which completes
that word of its own or faults it; and no instruction changes a context's descriptor. -/
def Obligations.OtherThreadsKept : Prop :=
  ∀ (i : Instr) (h : Head) (s v : State) (c : Issue), i.head? = some h → s.cur = some c → exec i s = .next v →
    v.contexts = s.contexts ∧ v.now = s.now ∧ s.nextId ≤ v.nextId ∧
    ∀ w ∈ v.threads, w.id ≠ c.tid → s.nextId ≤ w.id ∨ ∃ x ∈ s.threads, x.id = w.id ∧
      ((w.regs, w.preds, w.flights, w.poisoned) = (x.regs, x.preds, x.flights, x.poisoned) ∨
        (∃ o, i = .qpush h o ∨ i = .qpop h o ∨ i = .qtry h o) ∧
          ∃ q l, x.block.map Block.wait = some (.qpush q l) ∨ ∃ l', x.block.map Block.wait = some (.qpop q l')) ∧
      w.allot = x.allot ∧ (w.stack, w.spills) = (x.stack, x.spills) ∧
      (w.ctx, w.team, w.kind, w.col, w.core, w.lane, w.slot, w.tid) = (x.ctx, x.team, x.kind, x.col, x.core, x.lane, x.slot, x.tid)

/-! ## Every step -/

/-- Memory keeps its canonical form: from every state in which it has it, whatever the step does, a next state has it too (the model's own
representation of R7's bytes; notes/assumptions/1.md). -/
def Obligations.MemoryKeepsItsForm : Prop :=
  ∀ s t : State, Memory.wf s.mem = true → step s = .next t → Memory.wf t.mem = true

/-- R6, R326, R354, R359, R371, R383, R425, R431: what the start of a power span leaves, as the spec states it: nothing resident, no queue
enabled, no context, the commands and counters clear, each INKPOOL at its default, slices of 1,000,000 nanoseconds; and memory in its
form, reading zero (the model's choice, notes/assumptions/1.md). -/
def Obligations.ResetLeavesNothingResident : Prop :=
  let s := State.reset
  s.power = .on ∧ s.threads = [] ∧ s.teams = [] ∧ s.strokes = [] ∧ s.ops = [] ∧ s.bins = [] ∧ s.locks = [] ∧ s.contexts = [] ∧
    s.now = 0 ∧ (∀ q, (s.queue q).en = false ∧ (s.queue q).head = 0 ∧ (s.queue q).tail = 0 ∧ (s.queue q).err = false) ∧
    s.inks = [] ∧ s.replicas = [] ∧ s.raster.surfaces = [] ∧ s.engines.ops = [] ∧ s.engines.fenced = [] ∧
    (∀ col < 32, s.inkpools.getD col 0 = BitVec.ofNat 64 (0x0EE6B00A3E9A0001 + col * 2 ^ 37)) ∧
    s.regs.tinvctl = 0 ∧ s.regs.ctrcmd = 0 ∧ s.regs.counters = [] ∧ (∀ col < 32, (s.migration col).ctl = 0) ∧
    (∀ f < 32, s.regs.slices.getD f 0 = 1100000) ∧ s.platform.cap = 7500000 ∧ Memory.wf s.mem = true ∧
    ∀ a, cellRead (w := 8) a s.mem = 0

/-- Every step of the device has a next state, whatever its state, so long as what waits on the agenda are events: a word has the thread
that issues it, no event stops the device, and no meaning refuses. -/
def Obligations.StepAlwaysHasNextState : Prop :=
  ∀ s : State, (∀ i ∈ s.agenda, i.head? = none ∧ ∀ w, i ≠ .unlistedOpcodeIssue w) → ∃ t : State, step s = .next t
end

