-- ==== Sys2Proof/Laws/Cells.lean ====
section
/-! SUPPORT. Sparse storage: what reads give after writes, and that every operation on it keeps the canonical form. -/

namespace Sys2Proof.Machine

theorem cellWfFrom_mono {w : Nat} {j k : Nat} {m : Cells w} (h : j ≤ k) (hm : cellWfFrom k m = true) : cellWfFrom j m = true := by
  cases m with
  | nil => rfl
  | cons c r =>
    simp only [cellWfFrom, Bool.and_eq_true, decide_eq_true_eq] at hm ⊢
    exact ⟨⟨by omega, hm.1.2⟩, hm.2⟩

/-- Below its first key a storage reads zero. -/
theorem cellRead_below {w : Nat} {j k : Nat} {m : Cells w} (hm : cellWfFrom k m = true) (h : j < k) : cellRead j m = 0 := by
  cases m with
  | nil => rfl
  | cons c r =>
    simp only [cellWfFrom, Bool.and_eq_true, decide_eq_true_eq] at hm
    have : c.1 ≠ j ∧ j < c.1 := by omega
    simp [cellRead, this.1, this.2]

theorem cellWfFrom_cons {w : Nat} {j k : Nat} {x : BitVec w} {m : Cells w} (h : j ≤ k) (hm : cellWfFrom (k + 1) m = true) :
    cellWfFrom j (cellCons k x m) = true := by
  unfold cellCons
  split
  · exact cellWfFrom_mono (by omega) hm
  · simp only [cellWfFrom, Bool.and_eq_true, decide_eq_true_eq]
    exact ⟨⟨h, by assumption⟩, hm⟩

theorem cellWfFrom_write {w : Nat} (k : Nat) (x : BitVec w) {j : Nat} {m : Cells w} (h : j ≤ k) (hm : cellWfFrom j m = true) :
    cellWfFrom j (cellWrite k x m) = true := by
  induction m generalizing j with
  | nil => exact cellWfFrom_cons h rfl
  | cons c r ih =>
    simp only [cellWfFrom, Bool.and_eq_true, decide_eq_true_eq] at hm
    unfold cellWrite
    split
    · refine cellWfFrom_cons h ?_
      simp only [cellWfFrom, Bool.and_eq_true, decide_eq_true_eq]
      exact ⟨⟨by omega, hm.1.2⟩, hm.2⟩
    · split
      · refine cellWfFrom_cons h ?_
        rename_i e; rw [← e]; exact hm.2
      · simp only [cellWfFrom, Bool.and_eq_true, decide_eq_true_eq]
        exact ⟨hm.1, ih (by omega) hm.2⟩

/-- Writing a cell keeps the canonical form. -/
theorem cellWf_write {w : Nat} (k : Nat) (x : BitVec w) {m : Cells w} (hm : cellWf m = true) : cellWf (cellWrite k x m) = true :=
  cellWfFrom_write k x (Nat.zero_le _) hm

theorem cellRead_cellCons {w : Nat} (k : Nat) (x : BitVec w) {m : Cells w} (hm : cellWfFrom (k + 1) m = true) (j : Nat) :
    cellRead j (cellCons k x m) = if j = k then x else cellRead j m := by
  unfold cellCons
  split
  · rename_i e
    split
    · rename_i f; rw [e, f]; exact cellRead_below hm (by omega)
    · rfl
  · simp only [cellRead]
    split
    · rename_i e; simp [e]
    · rename_i e
      simp only [show ¬ j = k from fun f => e f.symm, if_false]
      split
      · exact (cellRead_below hm (by omega)).symm
      · rfl

theorem cellRead_writeFrom {w : Nat} (k : Nat) (x : BitVec w) {i : Nat} {m : Cells w} (h : i ≤ k) (hm : cellWfFrom i m = true) (j : Nat) :
    cellRead j (cellWrite k x m) = if j = k then x else cellRead j m := by
  induction m generalizing i with
  | nil => exact cellRead_cellCons k x rfl j
  | cons c r ih =>
    simp only [cellWfFrom, Bool.and_eq_true, decide_eq_true_eq] at hm
    unfold cellWrite
    split
    · refine cellRead_cellCons k x ?_ j
      simp only [cellWfFrom, Bool.and_eq_true, decide_eq_true_eq]
      exact ⟨⟨by omega, hm.1.2⟩, hm.2⟩
    · split
      · rename_i e
        subst e
        rw [cellRead_cellCons _ x hm.2 j]
        simp only [cellRead]
        split
        · rfl
        · rename_i f
          simp only [show ¬ c.1 = j from fun g => f g.symm, if_false]
          split
          · exact cellRead_below hm.2 (by omega)
          · rfl
      · simp only [cellRead]
        rw [ih (by omega) hm.2]
        split
        · have : ¬ j = k := by omega
          simp [this]
        · split
          · have : ¬ j = k := by omega
            simp [this]
          · rfl

/-- A read after a write gives the value written at its own key and what stood there at another. -/
theorem cellRead_cellWrite {w : Nat} (k : Nat) (x : BitVec w) {m : Cells w} (hm : cellWf m = true) (j : Nat) :
    cellRead j (cellWrite k x m) = if j = k then x else cellRead j m :=
  cellRead_writeFrom k x (Nat.zero_le _) hm j

/-- Zeroing a range keeps the canonical form. -/
theorem cellWf_clear {w : Nat} (lo n : Nat) {m : Cells w} (hm : cellWf m = true) : cellWf (cellClear lo n m) = true := by
  have go : ∀ (m : Cells w) (k : Nat), cellWfFrom k m = true → cellWfFrom k (cellClear lo n m) = true := by
    intro m
    induction m with
    | nil => intro k _; rfl
    | cons c r ih =>
      intro k h
      simp only [cellWfFrom, Bool.and_eq_true, decide_eq_true_eq] at h
      unfold cellClear at ih ⊢
      rw [List.filter_cons]
      split
      · simp only [cellWfFrom, Bool.and_eq_true, decide_eq_true_eq]
        exact ⟨h.1, ih _ h.2⟩
      · exact cellWfFrom_mono (by omega) (ih _ h.2)
  exact go m 0 hm

/-- Writing bytes keeps the canonical form. -/
theorem cellWf_writeBytes {m : Cells 8} (a : Nat) (bs : List Byte) (hm : cellWf m = true) : cellWf (writeBytes m a bs) = true := by
  induction bs generalizing a m with
  | nil => exact hm
  | cons b r ih => exact ih (a + 1) (cellWf_write a b hm)

/-- A byte outside those written reads as before. -/
theorem cellRead_writeBytes_outside {m : Cells 8} (a : Nat) (bs : List Byte) (hm : cellWf m = true) {j : Nat}
    (hj : j < a ∨ a + bs.length ≤ j) : cellRead j (writeBytes m a bs) = cellRead j m := by
  induction bs generalizing a m with
  | nil => rfl
  | cons b r ih =>
    rw [writeBytes, ih (a + 1) (cellWf_write a b hm) (by simp only [List.length_cons] at hj; omega), cellRead_cellWrite a b hm]
    have : ¬ j = a := by simp only [List.length_cons] at hj; omega
    simp [this]

/-- A byte among those written reads what was written there. -/
theorem cellRead_writeBytes {m : Cells 8} (a : Nat) (bs : List Byte) (hm : cellWf m = true) {i : Nat} (hi : i < bs.length) :
    cellRead (a + i) (writeBytes m a bs) = bs.getD i 0 := by
  induction bs generalizing a m i with
  | nil => simp at hi
  | cons b r ih =>
    cases i with
    | zero =>
      rw [writeBytes, cellRead_writeBytes_outside (a + 1) r (cellWf_write a b hm) (by omega), Nat.add_zero, cellRead_cellWrite a b hm]
      simp
    | succ i =>
      have h := ih (a + 1) (cellWf_write a b hm) (i := i) (by simp only [List.length_cons] at hi; omega)
      rw [show a + 1 + i = a + (i + 1) by omega] at h
      rw [writeBytes, h]
      rfl

@[simp] theorem readBytes_length (m : Cells 8) (a n : Nat) : (readBytes m a n).length = n := by
  induction n generalizing a with
  | zero => rfl
  | succ n ih => simp [readBytes, ih]

theorem readBytes_congr {m k : Cells 8} {a n : Nat} (h : ∀ j, a ≤ j → j < a + n → cellRead j m = cellRead j k) :
    readBytes m a n = readBytes k a n := by
  induction n generalizing a with
  | zero => rfl
  | succ n ih => rw [readBytes, readBytes, h a (by omega) (by omega), ih fun j h1 h2 => h j (by omega) (by omega)]

/-- The bytes read where bytes were written are those bytes. -/
theorem readBytes_writeBytes {m : Cells 8} (a : Nat) (bs : List Byte) (hm : cellWf m = true) :
    readBytes (writeBytes m a bs) a bs.length = bs := by
  induction bs generalizing a m with
  | nil => rfl
  | cons b r ih =>
    have h := cellRead_writeBytes a (b :: r) hm (i := 0) (by simp)
    simp only [Nat.add_zero] at h
    rw [List.length_cons, readBytes, h, writeBytes, ih (a + 1) (cellWf_write a b hm)]
    rfl

/-- Bytes apart from those written read as before. -/
theorem readBytes_writeBytes_outside {m : Cells 8} (a : Nat) (bs : List Byte) (hm : cellWf m = true) {b n : Nat}
    (h : b + n ≤ a ∨ a + bs.length ≤ b) : readBytes (writeBytes m a bs) b n = readBytes m b n :=
  readBytes_congr fun j h1 h2 => cellRead_writeBytes_outside a bs hm (by omega)

/-- Merging dirty bytes keeps the canonical form. -/
theorem cellWf_mergeDirty {m : Memory} (a d : Nat) (bs : List Byte) (hm : Memory.wf m = true) :
    Memory.wf (mergeDirty m a d bs) = true := by
  induction bs generalizing m a d with
  | nil => exact hm
  | cons b r ih =>
    unfold mergeDirty
    refine ih (a + 1) (d / 2) ?_
    split
    · exact cellWf_write a b hm
    · exact hm

/-! ## Operations on the memory of a state -/

theorem State.writeBack_wf {s : State} (c : LineCopy) (h : Memory.wf s.mem = true) : Memory.wf (s.writeBack c).mem = true :=
  cellWf_mergeDirty _ _ _ h

theorem State.flushOlder_wf {s : State} (col ctx : Nat) (h : Memory.wf s.mem = true) : Memory.wf (s.flushOlder col ctx).mem = true := by
  unfold State.flushOlder
  generalize s.caches.copies.filter _ = cs
  induction cs generalizing s with
  | nil => exact h
  | cons c r ih => exact ih (State.writeBack_wf c h)

theorem State.recall_wf {s : State} (tid line : Nat) (h : Memory.wf s.mem = true) : Memory.wf (s.recall tid line).mem = true := by
  unfold State.recall
  split
  · exact h
  · dsimp only
    split <;> exact State.flushOlder_wf _ _ (State.writeBack_wf _ h)

theorem State.homeRead_wf {s : State} (tid pa n : Nat) (h : Memory.wf s.mem = true) : Memory.wf (s.homeRead tid pa n).2.mem = true :=
  State.recall_wf _ _ h

theorem State.homeWrite_wf {s : State} (tid pa : Nat) (bs : List Byte) (h : Memory.wf s.mem = true) :
    Memory.wf (s.homeWrite tid pa bs).mem = true := cellWf_writeBytes _ _ (State.recall_wf _ _ h)

theorem State.homeReads_wf {s : State} (tid k pa n : Nat) (h : Memory.wf s.mem = true) :
    Memory.wf (s.homeReads tid k pa n).2.mem = true := by
  induction k generalizing s pa n with
  | zero => exact h
  | succ k ih =>
    unfold State.homeReads
    split
    · exact h
    · exact ih _ _ (State.homeRead_wf _ _ _ h)

theorem State.homeWrites_wf {s : State} (tid k pa : Nat) (bs : List Byte) (h : Memory.wf s.mem = true) :
    Memory.wf (s.homeWrites tid k pa bs).mem = true := by
  induction k generalizing s pa bs with
  | zero => exact h
  | succ k ih =>
    unfold State.homeWrites
    split
    · exact h
    · exact ih _ _ (State.homeWrite_wf _ _ _ h)

/-- What keeps memory's form at each step keeps it through a list of steps. -/
theorem State.foldl_wf {α : Type} {f : State → α → State}
    (hf : ∀ (t : State) (x : α), Memory.wf t.mem = true → Memory.wf (f t x).mem = true) (xs : List α) {s : State}
    (h : Memory.wf s.mem = true) : Memory.wf (xs.foldl f s).mem = true := by
  induction xs generalizing s with
  | nil => exact h
  | cons x xs ih => exact ih (hf s x h)

/-- Zeros written at the homes of a range keep memory's form. -/
theorem State.homeZero_wf {s : State} (pa n : Nat) (h : Memory.wf s.mem = true) : Memory.wf (s.homeZero pa n).mem = true :=
  cellWf_clear _ _ (State.foldl_wf (f := fun (t : State) l => t.breakGroups t.nextId l) (fun _ _ g => g) _
    (State.foldl_wf (f := fun (t : State) c => t.writeBack c) (fun _ c g => State.writeBack_wf c g) _ h))

/-- The recalls for a reader keep memory's form. -/
theorem State.recallFor_wf {s : State} (col pa n : Nat) (h : Memory.wf s.mem = true) :
    Memory.wf (s.recallFor col pa n).mem = true := by
  refine State.foldl_wf (fun t x g => ?_) _ h
  split
  · split
    · exact g
    · exact State.recall_wf _ _ g
  · exact g

/-- Posting a record to a ring keeps memory's form. -/
theorem State.ringPost_wf {s : State} (base log : Nat) (rec : List Byte) (h : Memory.wf s.mem = true) :
    Memory.wf (s.ringPost base log rec).mem = true := State.homeWrite_wf _ _ _ (State.homeWrites_wf _ _ _ _ h)

end Sys2Proof.Machine
end

