-- ==== Sys2Proof/Laws/Encode.lean ====
section
/-! SUPPORT. The fields of encoded words (R60, R61): each format's encoder keeps the opcode, the common fields and the operands. -/

namespace Sys2Proof

theorem extract_high {n m w k : Nat} (a : BitVec n) (b : BitVec m) (h : m ≤ k) :
    (a ++ b).extractLsb' k w = a.extractLsb' (k - m) w := by
  ext i hi
  have : ¬k + i < m := by omega
  simp [BitVec.getLsbD_append, this, show k + i - m = k - m + i by omega]

theorem extract_low {n m w k : Nat} (a : BitVec n) (b : BitVec m) (h : k + w ≤ m) :
    (a ++ b).extractLsb' k w = b.extractLsb' k w := by
  ext i hi
  have : k + i < m := by omega
  simp [BitVec.getLsbD_append, this]

theorem extract_all {w : Nat} (a : BitVec w) : a.extractLsb' 0 w = a := by ext i hi; simp

theorem extract_cast {n m w k : Nat} (h : n = m) (a : BitVec n) : (a.cast h).extractLsb' k w = a.extractLsb' k w := by
  subst h; rfl

theorem getLsbD_extract {n : Nat} (a : BitVec n) (k : Nat) : a.getLsbD k = (a.extractLsb' k 1).getLsbD 0 := by simp

@[simp] theorem rrrOf_encRRR (op : BitVec 9) (h : Head) (o : RRR) : rrrOf (encRRR op h o) = o := by
  cases o
  unfold rrrOf encRRR
  simp (disch := omega) only [extract_cast, extract_high, extract_low, extract_all, Nat.reduceSub, Nat.sub_self]

@[simp] theorem opOf_encRRR (op : BitVec 9) (h : Head) (o : RRR) : opOf (encRRR op h o) = op := by
  unfold opOf encRRR headBits
  simp (disch := omega) only [extract_cast, extract_high, extract_all, Nat.reduceSub, Nat.sub_self]

@[simp] theorem headOf_encRRR (op : BitVec 9) (h : Head) (o : RRR) : headOf (encRRR op h o) = h := by
  cases h
  unfold headOf encRRR headBits
  simp (disch := omega) only [extract_cast, extract_high, extract_low, extract_all, Nat.reduceSub, Nat.sub_self,
    getLsbD_extract]
  simp

@[simp] theorem riOf_encRI (op : BitVec 9) (h : Head) (o : RI) : riOf (encRI op h o) = o := by
  cases o
  unfold riOf encRI
  simp (disch := omega) only [extract_cast, extract_high, extract_low, extract_all, Nat.reduceSub, Nat.sub_self]

@[simp] theorem opOf_encRI (op : BitVec 9) (h : Head) (o : RI) : opOf (encRI op h o) = op := by
  unfold opOf encRI headBits
  simp (disch := omega) only [extract_cast, extract_high, extract_all, Nat.reduceSub, Nat.sub_self]

@[simp] theorem headOf_encRI (op : BitVec 9) (h : Head) (o : RI) : headOf (encRI op h o) = h := by
  cases h
  unfold headOf encRI headBits
  simp (disch := omega) only [extract_cast, extract_high, extract_low, extract_all, Nat.reduceSub, Nat.sub_self,
    getLsbD_extract]
  simp

@[simp] theorem kOf_encK (op : BitVec 9) (h : Head) (o : KF) : kOf (encK op h o) = o := by
  cases o
  unfold kOf encK
  simp (disch := omega) only [extract_cast, extract_high, extract_low, extract_all, Nat.reduceSub, Nat.sub_self]

@[simp] theorem opOf_encK (op : BitVec 9) (h : Head) (o : KF) : opOf (encK op h o) = op := by
  unfold opOf encK headBits
  simp (disch := omega) only [extract_cast, extract_high, extract_all, Nat.reduceSub, Nat.sub_self]

@[simp] theorem headOf_encK (op : BitVec 9) (h : Head) (o : KF) : headOf (encK op h o) = h := by
  cases h
  unfold headOf encK headBits
  simp (disch := omega) only [extract_cast, extract_high, extract_low, extract_all, Nat.reduceSub, Nat.sub_self,
    getLsbD_extract]
  simp

@[simp] theorem mOf_encM (op : BitVec 9) (h : Head) (o : MF) : mOf (encM op h o) = o := by
  cases o
  unfold mOf encM
  simp (disch := omega) only [extract_cast, extract_high, extract_low, extract_all, Nat.reduceSub, Nat.sub_self]

@[simp] theorem opOf_encM (op : BitVec 9) (h : Head) (o : MF) : opOf (encM op h o) = op := by
  unfold opOf encM headBits
  simp (disch := omega) only [extract_cast, extract_high, extract_all, Nat.reduceSub, Nat.sub_self]

@[simp] theorem headOf_encM (op : BitVec 9) (h : Head) (o : MF) : headOf (encM op h o) = h := by
  cases h
  unfold headOf encM headBits
  simp (disch := omega) only [extract_cast, extract_high, extract_low, extract_all, Nat.reduceSub, Nat.sub_self,
    getLsbD_extract]
  simp

@[simp] theorem xOf_encX (op : BitVec 9) (h : Head) (o : XF) : xOf (encX op h o) = o := by
  cases o
  unfold xOf encX
  simp (disch := omega) only [extract_cast, extract_high, extract_low, extract_all, Nat.reduceSub, Nat.sub_self]

@[simp] theorem opOf_encX (op : BitVec 9) (h : Head) (o : XF) : opOf (encX op h o) = op := by
  unfold opOf encX headBits
  simp (disch := omega) only [extract_cast, extract_high, extract_all, Nat.reduceSub, Nat.sub_self]

@[simp] theorem headOf_encX (op : BitVec 9) (h : Head) (o : XF) : headOf (encX op h o) = h := by
  cases h
  unfold headOf encX headBits
  simp (disch := omega) only [extract_cast, extract_high, extract_low, extract_all, Nat.reduceSub, Nat.sub_self,
    getLsbD_extract]
  simp

@[simp] theorem bOf_encB (op : BitVec 9) (h : Head) (o : BF) : bOf (encB op h o) = o := by
  cases o
  unfold bOf encB
  simp (disch := omega) only [extract_cast, extract_high, extract_low, extract_all, Nat.reduceSub, Nat.sub_self]

@[simp] theorem opOf_encB (op : BitVec 9) (h : Head) (o : BF) : opOf (encB op h o) = op := by
  unfold opOf encB headBits
  simp (disch := omega) only [extract_cast, extract_high, extract_all, Nat.reduceSub, Nat.sub_self]

@[simp] theorem headOf_encB (op : BitVec 9) (h : Head) (o : BF) : headOf (encB op h o) = h := by
  cases h
  unfold headOf encB headBits
  simp (disch := omega) only [extract_cast, extract_high, extract_low, extract_all, Nat.reduceSub, Nat.sub_self,
    getLsbD_extract]
  simp

end Sys2Proof
end

