-- ==== Sys2Proof/Laws/Issue.lean ====
section
/-! SUPPORT. What the issue of a word can do (R66 to R70), and that an operand reads the same at the issue as before it. -/

namespace Sys2Proof.Machine

/-! ## The state at the issue -/

/-- Counting events changes the counters, and the interrupts that they raise, only. -/
theorem State.count_eq (s : State) (a b : Nat) (x : Option Nat) (n : Nat) : ∃ r, s.count a b x n = { s with regs := r } := by
  unfold State.count
  dsimp only
  split
  · exact ⟨_, rfl⟩
  · exact ⟨s.regs, rfl⟩

/-- Counting an issue changes nothing but the registers of the platform. -/
theorem State.countIssue_eq (s : State) (th : Thread) (h : Head) (i : Instr) :
    ∃ r, s.countIssue th h i = { s with regs := r } := by
  unfold State.countIssue
  obtain ⟨r, hr⟩ := s.count_eq th.col 0x010 (some th.ctx) 1
  rw [hr]
  dsimp only
  split <;> split <;> first
    | exact State.count_eq _ _ _ _ _
    | exact ⟨r, rfl⟩

/-- Beside the issuing thread, the state at the issue differs in the counters only. -/
theorem State.atIssue_eq (s : State) (t : Thread) (h : Head) (i : Instr) :
    ∃ r, s.atIssue t h i = { s with regs := r }.setThread (t.atIssue s.now) := by
  unfold State.atIssue
  split
  · exact ⟨s.regs, rfl⟩
  · obtain ⟨r, hr⟩ := s.countIssue_eq (t.atIssue s.now) h i
    exact ⟨r, by rw [hr]⟩

@[simp] theorem State.atIssue_now (s : State) (t : Thread) (h : Head) (i : Instr) : (s.atIssue t h i).now = s.now := by
  obtain ⟨r, hr⟩ := s.atIssue_eq t h i; rw [hr]; rfl

@[simp] theorem State.atIssue_teams (s : State) (t : Thread) (h : Head) (i : Instr) : (s.atIssue t h i).teams = s.teams := by
  obtain ⟨r, hr⟩ := s.atIssue_eq t h i; rw [hr]; rfl

@[simp] theorem State.atIssue_contexts (s : State) (t : Thread) (h : Head) (i : Instr) :
    (s.atIssue t h i).contexts = s.contexts := by
  obtain ⟨r, hr⟩ := s.atIssue_eq t h i; rw [hr]; rfl

@[simp] theorem State.atIssue_mem (s : State) (t : Thread) (h : Head) (i : Instr) : (s.atIssue t h i).mem = s.mem := by
  obtain ⟨r, hr⟩ := s.atIssue_eq t h i; rw [hr]; rfl

@[simp] theorem State.atIssue_team? (s : State) (t : Thread) (h : Head) (i : Instr) (n : Nat) :
    (s.atIssue t h i).team? n = s.team? n := by simp [State.team?]

@[simp] theorem State.atIssue_context (s : State) (t : Thread) (h : Head) (i : Instr) (n : Nat) :
    (s.atIssue t h i).context n = s.context n := by simp [State.context]

/-! ## Operands read the same at the issue as before it -/

@[simp] theorem uniform_atIssue (s : State) (t : Thread) (h : Head) (i : Instr) (u : Thread) (n : Nat) :
    uniform (s.atIssue t h i) u n = uniform s u n := by simp [uniform]

@[simp] theorem readOnly_atIssue (s : State) (t : Thread) (h : Head) (i : Instr) (u : Thread) (n : Nat) :
    readOnly (s.atIssue t h i) u n = readOnly s u n := by simp [readOnly]

@[simp] theorem srcWord_atIssue (s : State) (t : Thread) (h : Head) (i : Instr) (u : Thread) (r : BitVec 8) :
    srcWord (s.atIssue t h i) u r = srcWord s u r := by simp [srcWord]

@[simp] theorem srcPair_atIssue (s : State) (t : Thread) (h : Head) (i : Instr) (u : Thread) (r : BitVec 8) :
    srcPair (s.atIssue t h i) u r = srcPair s u r := by simp [srcPair]

@[simp] theorem srcTyped_atIssue (s : State) (t : Thread) (h : Head) (i : Instr) (u : Thread) (ty : BitVec 4) (r : BitVec 8) :
    srcTyped (s.atIssue t h i) u ty r = srcTyped s u ty r := by simp [srcTyped]

@[simp] theorem srcHalves_atIssue (s : State) (t : Thread) (h : Head) (i : Instr) (u : Thread) (f : Fmt) (r : BitVec 8) :
    srcHalves (s.atIssue t h i) u f r = srcHalves s u f r := by simp [srcHalves]

/-! ## The issue -/

/-- A word that issues with its own effect has that effect, on the state at the issue. -/
theorem issue_next {s : State} {c : Issue} {t : Thread} {h : Head} {i : Instr} (H : Issues s c t h i)
    (eff : State → Issue → Thread → State) : issue i h s eff = .next (eff (s.atIssue t h i) c (t.atIssue s.now)) := by
  obtain ⟨hc, ht, h1, h2, h4, h5⟩ := H
  unfold State.atIssue Thread.atIssue at *
  unfold issue
  simp only [hc, ht]
  unfold State.issueThread
  simp only [h1, h2, h4, h5]
  simp

/-- What a word that issues with its own effect does when its results come after a fixed time. -/
theorem issue_fixed {s : State} {c : Issue} {t : Thread} {h : Head} {i : Instr} (H : Issues s c t h i) (lat : Nat)
    (res : State → Issue → Thread → List Dest) :
    issue i h s (fixed h lat res) = .next (s.afterFixed c t h i lat (res (s.atIssue t h i) c (t.atIssue s.now))) := by
  rw [issue_next H]; simp [fixed, State.afterFixed, State.becomes]

/-- Whatever becomes of a Lamen instruction, its meaning never refuses, and faults only where no thread issues it. -/
theorem issue_total {s : State} {c : Issue} {t : Thread} (hc : s.cur = some c) (ht : s.thread? c.tid = some t) (i : Instr)
    (h : Head) (eff : State → Issue → Thread → State) : ∃ s', issue i h s eff = .next s' := by
  unfold issue
  rw [hc]
  dsimp only
  rw [ht]
  exact ⟨_, rfl⟩

/-- A well-formed instruction: a word that issues breaks no rule of its own encoding (items 1 and 2 of R70). -/
theorem Issues.wellFormed {s : State} {c : Issue} {t : Thread} {h : Head} {i : Instr} (H : Issues s c t h i)
    (hi : ∀ w, i ≠ .unlistedOpcodeIssue w) : i.WellFormed := by
  have hl := H.legal
  unfold State.decodeFault at hl
  split at hl
  · cases hl
  · cases hl
  · rename_i hn
    unfold Issue.illegal at hn
    dsimp only at hn
    split at hn
    · cases hn
    · cases i <;> first | exact hn | exact absurd rfl (hi _)

end Sys2Proof.Machine
end

