-- ==== Sys2Proof/Laws/Num.lean ====
section
/-! SUPPORT. Integers of a type: their range, wrapping and clamping (R31). -/

namespace Sys2Proof.Machine

/-- What a type reads from a wrapped integer is congruent to it modulo 2 to its width. -/
theorem tyRead_ofInt (ty : BitVec 4) (x : Int) : ((2 ^ tyWidth ty : Nat) : Int) ∣ tyRead ty (BitVec.ofInt 64 x) - x := by
  have hw : tyWidth ty ≤ 64 := by unfold tyWidth; split <;> (try split) <;> (try split) <;> omega
  have h1 : ((2^tyWidth ty : Nat):Int) ∣ (2:Int)^64 := by
    have : (2:ℕ)^tyWidth ty ∣ 2^64 := pow_dvd_pow 2 hw
    exact_mod_cast this
  have h2 : ((2:Int)^64) ∣ ((BitVec.ofInt 64 x).toNat : Int) - x := by
    rw [BitVec.toNat_ofInt]
    have : ((x % (2^64:Nat)).toNat : Int) = x % 2^64 := by
      rw [Int.toNat_of_nonneg]; · norm_num
      · exact Int.emod_nonneg _ (by norm_num)
    rw [this]
    have := Int.emod_add_mul_ediv x (2^64)
    exact ⟨-(x / 2^64), by linarith⟩
  have h3 : ((2^tyWidth ty : Nat):Int) ∣ (((BitVec.ofInt 64 x).toNat % 2 ^ tyWidth ty : Nat) : Int) - x := by
    have e : (((BitVec.ofInt 64 x).toNat % 2 ^ tyWidth ty : Nat) : Int) - x = ((BitVec.ofInt 64 x).toNat - x) - ((2^tyWidth ty : Nat):Int) * (((BitVec.ofInt 64 x).toNat / 2^tyWidth ty : Nat)) := by
      have := Nat.mod_add_div (BitVec.ofInt 64 x).toNat (2^tyWidth ty)
      have : (((BitVec.ofInt 64 x).toNat % 2 ^ tyWidth ty : Nat) : Int) + ((2^tyWidth ty : Nat):Int) * (((BitVec.ofInt 64 x).toNat / 2^tyWidth ty : Nat)) = ((BitVec.ofInt 64 x).toNat : Int) := by exact_mod_cast this
      linarith
    rw [e]
    exact dvd_sub (dvd_trans h1 h2) (dvd_mul_right _ _)
  unfold tyRead
  dsimp only
  split
  · have e : (((BitVec.ofInt 64 x).toNat % 2 ^ tyWidth ty : Nat) : Int) - 2 ^ tyWidth ty - x = ((((BitVec.ofInt 64 x).toNat % 2 ^ tyWidth ty : Nat) : Int) - x) - ((2^tyWidth ty : Nat):Int) := by push_cast; ring
    push_cast at e h3 ⊢
    rw [e]
    exact dvd_sub h3 (dvd_refl _)
  · exact h3

/-- What a type reads lies within its range. -/
theorem tyRead_range (ty : BitVec 4) (v : DWord) : tyMin ty ≤ tyRead ty v ∧ tyRead ty v ≤ tyMax ty := by
  have hp : 1 ≤ tyWidth ty := by unfold tyWidth; split <;> (try split) <;> (try split) <;> omega
  have hl := Nat.mod_lt v.toNat (y := 2 ^ tyWidth ty) (by positivity)
  have he : (2:ℕ)^tyWidth ty = 2 * 2 ^ (tyWidth ty - 1) := by rw [← pow_succ']; congr 1; omega
  unfold tyRead tyMin tyMax
  dsimp only
  generalize hn : v.toNat % 2 ^ tyWidth ty = n at *
  generalize hm : (2:ℕ) ^ (tyWidth ty - 1) = m at *
  have hm' : (2:Int) ^ (tyWidth ty - 1) = m := by rw [← hm]; norm_num
  have he' : (2:Int) ^ tyWidth ty = 2 * m := by
    have : ((2:ℕ)^tyWidth ty : Int) = ((2*m : ℕ):Int) := by exact_mod_cast he
    push_cast at this; exact this
  rw [he] at hl
  rw [hm', he']
  cases tySigned ty
  · simp; omega
  · simp; split <;> omega

/-- An integer of the range reads as itself. -/
theorem tyRead_of_range (ty : BitVec 4) (x : Int) (h1 : tyMin ty ≤ x) (h2 : x ≤ tyMax ty) : tyRead ty (BitVec.ofInt 64 x) = x := by
  have hd := tyRead_ofInt ty x
  have hr := tyRead_range ty (BitVec.ofInt 64 x)
  have hp : 1 ≤ tyWidth ty := by unfold tyWidth; split <;> (try split) <;> (try split) <;> omega
  have hs : tyMax ty - tyMin ty < ((2 ^ tyWidth ty : Nat) : Int) := by
    unfold tyMin tyMax
    have he : (2:Int)^tyWidth ty = 2 * 2 ^ (tyWidth ty - 1) := by rw [← pow_succ']; congr 1; omega
    push_cast
    cases tySigned ty <;> simp <;> linarith
  have := Int.eq_zero_of_abs_lt_dvd hd (by rw [abs_lt]; constructor <;> linarith)
  linarith

/-- The register value of an integer result reads back as the result. -/
theorem tyRead_ofInt_tyRead (ty : BitVec 4) (v : DWord) : tyRead ty (BitVec.ofInt 64 (tyRead ty v)) = tyRead ty v :=
  tyRead_of_range ty _ (tyRead_range ty v).1 (tyRead_range ty v).2

/-- Clamping is the maximum of the least value and the minimum with the greatest. -/
theorem clamp_eq (lo hi x : Int) (h : lo ≤ hi) : clampInt lo hi x = max lo (min hi x) := by
  unfold clampInt; split
  · rw [max_eq_left]; exact le_trans (min_le_right _ _) (le_of_lt (by assumption))
  · split
    · rw [min_eq_left (by omega), max_eq_right h]
    · rw [min_eq_right (by omega), max_eq_right (by omega)]

/-- A type has a value. -/
theorem tyMin_le (ty : BitVec 4) : tyMin ty ≤ tyMax ty := le_trans (tyRead_range ty 0).1 (tyRead_range ty 0).2

end Sys2Proof.Machine
end

