-- ==== Sys2Proof/Laws/State.lean ====
section
/-! SUPPORT. What the updates of the state, of a thread and of a team leave alone, field by field. -/

namespace Sys2Proof.Machine

/-! `setThread` -/

@[simp] theorem State.setThread_power (s : State) (u : Thread) : (s.setThread u).power = s.power := rfl
@[simp] theorem State.setThread_now (s : State) (u : Thread) : (s.setThread u).now = s.now := rfl
@[simp] theorem State.setThread_fresh (s : State) (u : Thread) : (s.setThread u).fresh = s.fresh := rfl
@[simp] theorem State.setThread_nextId (s : State) (u : Thread) : (s.setThread u).nextId = s.nextId := rfl
@[simp] theorem State.setThread_mem (s : State) (u : Thread) : (s.setThread u).mem = s.mem := rfl
@[simp] theorem State.setThread_poison (s : State) (u : Thread) : (s.setThread u).poison = s.poison := rfl
@[simp] theorem State.setThread_caches (s : State) (u : Thread) : (s.setThread u).caches = s.caches := rfl
@[simp] theorem State.setThread_pageRecords (s : State) (u : Thread) : (s.setThread u).pageRecords = s.pageRecords := rfl
@[simp] theorem State.setThread_heldRecords (s : State) (u : Thread) : (s.setThread u).heldRecords = s.heldRecords := rfl
@[simp] theorem State.setThread_inks (s : State) (u : Thread) : (s.setThread u).inks = s.inks := rfl
@[simp] theorem State.setThread_replicas (s : State) (u : Thread) : (s.setThread u).replicas = s.replicas := rfl
@[simp] theorem State.setThread_inkpools (s : State) (u : Thread) : (s.setThread u).inkpools = s.inkpools := rfl
@[simp] theorem State.setThread_peersDown (s : State) (u : Thread) : (s.setThread u).peersDown = s.peersDown := rfl
@[simp] theorem State.setThread_queues (s : State) (u : Thread) : (s.setThread u).queues = s.queues := rfl
@[simp] theorem State.setThread_contexts (s : State) (u : Thread) : (s.setThread u).contexts = s.contexts := rfl
@[simp] theorem State.setThread_teams (s : State) (u : Thread) : (s.setThread u).teams = s.teams := rfl
@[simp] theorem State.setThread_strokes (s : State) (u : Thread) : (s.setThread u).strokes = s.strokes := rfl
@[simp] theorem State.setThread_ops (s : State) (u : Thread) : (s.setThread u).ops = s.ops := rfl
@[simp] theorem State.setThread_bins (s : State) (u : Thread) : (s.setThread u).bins = s.bins := rfl
@[simp] theorem State.setThread_blkgets (s : State) (u : Thread) : (s.setThread u).blkgets = s.blkgets := rfl
@[simp] theorem State.setThread_locks (s : State) (u : Thread) : (s.setThread u).locks = s.locks := rfl
@[simp] theorem State.setThread_engines (s : State) (u : Thread) : (s.setThread u).engines = s.engines := rfl
@[simp] theorem State.setThread_raster (s : State) (u : Thread) : (s.setThread u).raster = s.raster := rfl
@[simp] theorem State.setThread_sched (s : State) (u : Thread) : (s.setThread u).sched = s.sched := rfl
@[simp] theorem State.setThread_regs (s : State) (u : Thread) : (s.setThread u).regs = s.regs := rfl
@[simp] theorem State.setThread_platform (s : State) (u : Thread) : (s.setThread u).platform = s.platform := rfl
@[simp] theorem State.setThread_agenda (s : State) (u : Thread) : (s.setThread u).agenda = s.agenda := rfl
@[simp] theorem State.setThread_issuing (s : State) (u : Thread) : (s.setThread u).issuing = s.issuing := rfl
@[simp] theorem State.setThread_pens (s : State) (u : Thread) : (s.setThread u).pens = s.pens := rfl
@[simp] theorem State.setThread_cur (s : State) (u : Thread) : (s.setThread u).cur = s.cur := rfl

/-! `setTeam` -/

@[simp] theorem State.setTeam_power (s : State) (g : Team) : (s.setTeam g).power = s.power := rfl
@[simp] theorem State.setTeam_now (s : State) (g : Team) : (s.setTeam g).now = s.now := rfl
@[simp] theorem State.setTeam_fresh (s : State) (g : Team) : (s.setTeam g).fresh = s.fresh := rfl
@[simp] theorem State.setTeam_nextId (s : State) (g : Team) : (s.setTeam g).nextId = s.nextId := rfl
@[simp] theorem State.setTeam_mem (s : State) (g : Team) : (s.setTeam g).mem = s.mem := rfl
@[simp] theorem State.setTeam_poison (s : State) (g : Team) : (s.setTeam g).poison = s.poison := rfl
@[simp] theorem State.setTeam_caches (s : State) (g : Team) : (s.setTeam g).caches = s.caches := rfl
@[simp] theorem State.setTeam_pageRecords (s : State) (g : Team) : (s.setTeam g).pageRecords = s.pageRecords := rfl
@[simp] theorem State.setTeam_heldRecords (s : State) (g : Team) : (s.setTeam g).heldRecords = s.heldRecords := rfl
@[simp] theorem State.setTeam_inks (s : State) (g : Team) : (s.setTeam g).inks = s.inks := rfl
@[simp] theorem State.setTeam_replicas (s : State) (g : Team) : (s.setTeam g).replicas = s.replicas := rfl
@[simp] theorem State.setTeam_inkpools (s : State) (g : Team) : (s.setTeam g).inkpools = s.inkpools := rfl
@[simp] theorem State.setTeam_peersDown (s : State) (g : Team) : (s.setTeam g).peersDown = s.peersDown := rfl
@[simp] theorem State.setTeam_queues (s : State) (g : Team) : (s.setTeam g).queues = s.queues := rfl
@[simp] theorem State.setTeam_contexts (s : State) (g : Team) : (s.setTeam g).contexts = s.contexts := rfl
@[simp] theorem State.setTeam_threads (s : State) (g : Team) : (s.setTeam g).threads = s.threads := rfl
@[simp] theorem State.setTeam_strokes (s : State) (g : Team) : (s.setTeam g).strokes = s.strokes := rfl
@[simp] theorem State.setTeam_ops (s : State) (g : Team) : (s.setTeam g).ops = s.ops := rfl
@[simp] theorem State.setTeam_bins (s : State) (g : Team) : (s.setTeam g).bins = s.bins := rfl
@[simp] theorem State.setTeam_blkgets (s : State) (g : Team) : (s.setTeam g).blkgets = s.blkgets := rfl
@[simp] theorem State.setTeam_locks (s : State) (g : Team) : (s.setTeam g).locks = s.locks := rfl
@[simp] theorem State.setTeam_engines (s : State) (g : Team) : (s.setTeam g).engines = s.engines := rfl
@[simp] theorem State.setTeam_raster (s : State) (g : Team) : (s.setTeam g).raster = s.raster := rfl
@[simp] theorem State.setTeam_sched (s : State) (g : Team) : (s.setTeam g).sched = s.sched := rfl
@[simp] theorem State.setTeam_regs (s : State) (g : Team) : (s.setTeam g).regs = s.regs := rfl
@[simp] theorem State.setTeam_platform (s : State) (g : Team) : (s.setTeam g).platform = s.platform := rfl
@[simp] theorem State.setTeam_agenda (s : State) (g : Team) : (s.setTeam g).agenda = s.agenda := rfl
@[simp] theorem State.setTeam_issuing (s : State) (g : Team) : (s.setTeam g).issuing = s.issuing := rfl
@[simp] theorem State.setTeam_pens (s : State) (g : Team) : (s.setTeam g).pens = s.pens := rfl
@[simp] theorem State.setTeam_cur (s : State) (g : Team) : (s.setTeam g).cur = s.cur := rfl

/-! `setOp` -/

@[simp] theorem State.setOp_power (s : State) (o : Op) : (s.setOp o).power = s.power := rfl
@[simp] theorem State.setOp_now (s : State) (o : Op) : (s.setOp o).now = s.now := rfl
@[simp] theorem State.setOp_fresh (s : State) (o : Op) : (s.setOp o).fresh = s.fresh := rfl
@[simp] theorem State.setOp_nextId (s : State) (o : Op) : (s.setOp o).nextId = s.nextId := rfl
@[simp] theorem State.setOp_mem (s : State) (o : Op) : (s.setOp o).mem = s.mem := rfl
@[simp] theorem State.setOp_poison (s : State) (o : Op) : (s.setOp o).poison = s.poison := rfl
@[simp] theorem State.setOp_caches (s : State) (o : Op) : (s.setOp o).caches = s.caches := rfl
@[simp] theorem State.setOp_pageRecords (s : State) (o : Op) : (s.setOp o).pageRecords = s.pageRecords := rfl
@[simp] theorem State.setOp_heldRecords (s : State) (o : Op) : (s.setOp o).heldRecords = s.heldRecords := rfl
@[simp] theorem State.setOp_inks (s : State) (o : Op) : (s.setOp o).inks = s.inks := rfl
@[simp] theorem State.setOp_replicas (s : State) (o : Op) : (s.setOp o).replicas = s.replicas := rfl
@[simp] theorem State.setOp_inkpools (s : State) (o : Op) : (s.setOp o).inkpools = s.inkpools := rfl
@[simp] theorem State.setOp_peersDown (s : State) (o : Op) : (s.setOp o).peersDown = s.peersDown := rfl
@[simp] theorem State.setOp_queues (s : State) (o : Op) : (s.setOp o).queues = s.queues := rfl
@[simp] theorem State.setOp_contexts (s : State) (o : Op) : (s.setOp o).contexts = s.contexts := rfl
@[simp] theorem State.setOp_threads (s : State) (o : Op) : (s.setOp o).threads = s.threads := rfl
@[simp] theorem State.setOp_teams (s : State) (o : Op) : (s.setOp o).teams = s.teams := rfl
@[simp] theorem State.setOp_strokes (s : State) (o : Op) : (s.setOp o).strokes = s.strokes := rfl
@[simp] theorem State.setOp_bins (s : State) (o : Op) : (s.setOp o).bins = s.bins := rfl
@[simp] theorem State.setOp_blkgets (s : State) (o : Op) : (s.setOp o).blkgets = s.blkgets := rfl
@[simp] theorem State.setOp_locks (s : State) (o : Op) : (s.setOp o).locks = s.locks := rfl
@[simp] theorem State.setOp_engines (s : State) (o : Op) : (s.setOp o).engines = s.engines := rfl
@[simp] theorem State.setOp_raster (s : State) (o : Op) : (s.setOp o).raster = s.raster := rfl
@[simp] theorem State.setOp_sched (s : State) (o : Op) : (s.setOp o).sched = s.sched := rfl
@[simp] theorem State.setOp_regs (s : State) (o : Op) : (s.setOp o).regs = s.regs := rfl
@[simp] theorem State.setOp_platform (s : State) (o : Op) : (s.setOp o).platform = s.platform := rfl
@[simp] theorem State.setOp_agenda (s : State) (o : Op) : (s.setOp o).agenda = s.agenda := rfl
@[simp] theorem State.setOp_issuing (s : State) (o : Op) : (s.setOp o).issuing = s.issuing := rfl
@[simp] theorem State.setOp_pens (s : State) (o : Op) : (s.setOp o).pens = s.pens := rfl
@[simp] theorem State.setOp_cur (s : State) (o : Op) : (s.setOp o).cur = s.cur := rfl

/-! `dropOp` -/

@[simp] theorem State.dropOp_power (s : State) (k : Nat) : (s.dropOp k).power = s.power := rfl
@[simp] theorem State.dropOp_now (s : State) (k : Nat) : (s.dropOp k).now = s.now := rfl
@[simp] theorem State.dropOp_fresh (s : State) (k : Nat) : (s.dropOp k).fresh = s.fresh := rfl
@[simp] theorem State.dropOp_nextId (s : State) (k : Nat) : (s.dropOp k).nextId = s.nextId := rfl
@[simp] theorem State.dropOp_mem (s : State) (k : Nat) : (s.dropOp k).mem = s.mem := rfl
@[simp] theorem State.dropOp_poison (s : State) (k : Nat) : (s.dropOp k).poison = s.poison := rfl
@[simp] theorem State.dropOp_caches (s : State) (k : Nat) : (s.dropOp k).caches = s.caches := rfl
@[simp] theorem State.dropOp_pageRecords (s : State) (k : Nat) : (s.dropOp k).pageRecords = s.pageRecords := rfl
@[simp] theorem State.dropOp_heldRecords (s : State) (k : Nat) : (s.dropOp k).heldRecords = s.heldRecords := rfl
@[simp] theorem State.dropOp_inks (s : State) (k : Nat) : (s.dropOp k).inks = s.inks := rfl
@[simp] theorem State.dropOp_replicas (s : State) (k : Nat) : (s.dropOp k).replicas = s.replicas := rfl
@[simp] theorem State.dropOp_inkpools (s : State) (k : Nat) : (s.dropOp k).inkpools = s.inkpools := rfl
@[simp] theorem State.dropOp_peersDown (s : State) (k : Nat) : (s.dropOp k).peersDown = s.peersDown := rfl
@[simp] theorem State.dropOp_queues (s : State) (k : Nat) : (s.dropOp k).queues = s.queues := rfl
@[simp] theorem State.dropOp_contexts (s : State) (k : Nat) : (s.dropOp k).contexts = s.contexts := rfl
@[simp] theorem State.dropOp_threads (s : State) (k : Nat) : (s.dropOp k).threads = s.threads := rfl
@[simp] theorem State.dropOp_teams (s : State) (k : Nat) : (s.dropOp k).teams = s.teams := rfl
@[simp] theorem State.dropOp_strokes (s : State) (k : Nat) : (s.dropOp k).strokes = s.strokes := rfl
@[simp] theorem State.dropOp_bins (s : State) (k : Nat) : (s.dropOp k).bins = s.bins := rfl
@[simp] theorem State.dropOp_blkgets (s : State) (k : Nat) : (s.dropOp k).blkgets = s.blkgets := rfl
@[simp] theorem State.dropOp_engines (s : State) (k : Nat) : (s.dropOp k).engines = s.engines := rfl
@[simp] theorem State.dropOp_raster (s : State) (k : Nat) : (s.dropOp k).raster = s.raster := rfl
@[simp] theorem State.dropOp_sched (s : State) (k : Nat) : (s.dropOp k).sched = s.sched := rfl
@[simp] theorem State.dropOp_regs (s : State) (k : Nat) : (s.dropOp k).regs = s.regs := rfl
@[simp] theorem State.dropOp_platform (s : State) (k : Nat) : (s.dropOp k).platform = s.platform := rfl
@[simp] theorem State.dropOp_agenda (s : State) (k : Nat) : (s.dropOp k).agenda = s.agenda := rfl
@[simp] theorem State.dropOp_issuing (s : State) (k : Nat) : (s.dropOp k).issuing = s.issuing := rfl
@[simp] theorem State.dropOp_pens (s : State) (k : Nat) : (s.dropOp k).pens = s.pens := rfl
@[simp] theorem State.dropOp_cur (s : State) (k : Nat) : (s.dropOp k).cur = s.cur := rfl

/-! `newId` -/

@[simp] theorem State.newId_power (s : State) : s.newId.2.power = s.power := rfl
@[simp] theorem State.newId_now (s : State) : s.newId.2.now = s.now := rfl
@[simp] theorem State.newId_fresh (s : State) : s.newId.2.fresh = s.fresh := rfl
@[simp] theorem State.newId_mem (s : State) : s.newId.2.mem = s.mem := rfl
@[simp] theorem State.newId_poison (s : State) : s.newId.2.poison = s.poison := rfl
@[simp] theorem State.newId_caches (s : State) : s.newId.2.caches = s.caches := rfl
@[simp] theorem State.newId_pageRecords (s : State) : s.newId.2.pageRecords = s.pageRecords := rfl
@[simp] theorem State.newId_heldRecords (s : State) : s.newId.2.heldRecords = s.heldRecords := rfl
@[simp] theorem State.newId_inks (s : State) : s.newId.2.inks = s.inks := rfl
@[simp] theorem State.newId_replicas (s : State) : s.newId.2.replicas = s.replicas := rfl
@[simp] theorem State.newId_inkpools (s : State) : s.newId.2.inkpools = s.inkpools := rfl
@[simp] theorem State.newId_peersDown (s : State) : s.newId.2.peersDown = s.peersDown := rfl
@[simp] theorem State.newId_queues (s : State) : s.newId.2.queues = s.queues := rfl
@[simp] theorem State.newId_contexts (s : State) : s.newId.2.contexts = s.contexts := rfl
@[simp] theorem State.newId_threads (s : State) : s.newId.2.threads = s.threads := rfl
@[simp] theorem State.newId_teams (s : State) : s.newId.2.teams = s.teams := rfl
@[simp] theorem State.newId_strokes (s : State) : s.newId.2.strokes = s.strokes := rfl
@[simp] theorem State.newId_ops (s : State) : s.newId.2.ops = s.ops := rfl
@[simp] theorem State.newId_bins (s : State) : s.newId.2.bins = s.bins := rfl
@[simp] theorem State.newId_blkgets (s : State) : s.newId.2.blkgets = s.blkgets := rfl
@[simp] theorem State.newId_locks (s : State) : s.newId.2.locks = s.locks := rfl
@[simp] theorem State.newId_engines (s : State) : s.newId.2.engines = s.engines := rfl
@[simp] theorem State.newId_raster (s : State) : s.newId.2.raster = s.raster := rfl
@[simp] theorem State.newId_sched (s : State) : s.newId.2.sched = s.sched := rfl
@[simp] theorem State.newId_regs (s : State) : s.newId.2.regs = s.regs := rfl
@[simp] theorem State.newId_platform (s : State) : s.newId.2.platform = s.platform := rfl
@[simp] theorem State.newId_agenda (s : State) : s.newId.2.agenda = s.agenda := rfl
@[simp] theorem State.newId_issuing (s : State) : s.newId.2.issuing = s.issuing := rfl
@[simp] theorem State.newId_pens (s : State) : s.newId.2.pens = s.pens := rfl
@[simp] theorem State.newId_cur (s : State) : s.newId.2.cur = s.cur := rfl

/-! `free` -/

@[simp] theorem State.free_power (s : State) : s.free.2.power = s.power := rfl
@[simp] theorem State.free_now (s : State) : s.free.2.now = s.now := rfl
@[simp] theorem State.free_nextId (s : State) : s.free.2.nextId = s.nextId := rfl
@[simp] theorem State.free_mem (s : State) : s.free.2.mem = s.mem := rfl
@[simp] theorem State.free_poison (s : State) : s.free.2.poison = s.poison := rfl
@[simp] theorem State.free_caches (s : State) : s.free.2.caches = s.caches := rfl
@[simp] theorem State.free_pageRecords (s : State) : s.free.2.pageRecords = s.pageRecords := rfl
@[simp] theorem State.free_heldRecords (s : State) : s.free.2.heldRecords = s.heldRecords := rfl
@[simp] theorem State.free_inks (s : State) : s.free.2.inks = s.inks := rfl
@[simp] theorem State.free_replicas (s : State) : s.free.2.replicas = s.replicas := rfl
@[simp] theorem State.free_inkpools (s : State) : s.free.2.inkpools = s.inkpools := rfl
@[simp] theorem State.free_peersDown (s : State) : s.free.2.peersDown = s.peersDown := rfl
@[simp] theorem State.free_queues (s : State) : s.free.2.queues = s.queues := rfl
@[simp] theorem State.free_contexts (s : State) : s.free.2.contexts = s.contexts := rfl
@[simp] theorem State.free_threads (s : State) : s.free.2.threads = s.threads := rfl
@[simp] theorem State.free_teams (s : State) : s.free.2.teams = s.teams := rfl
@[simp] theorem State.free_strokes (s : State) : s.free.2.strokes = s.strokes := rfl
@[simp] theorem State.free_ops (s : State) : s.free.2.ops = s.ops := rfl
@[simp] theorem State.free_bins (s : State) : s.free.2.bins = s.bins := rfl
@[simp] theorem State.free_blkgets (s : State) : s.free.2.blkgets = s.blkgets := rfl
@[simp] theorem State.free_locks (s : State) : s.free.2.locks = s.locks := rfl
@[simp] theorem State.free_engines (s : State) : s.free.2.engines = s.engines := rfl
@[simp] theorem State.free_raster (s : State) : s.free.2.raster = s.raster := rfl
@[simp] theorem State.free_sched (s : State) : s.free.2.sched = s.sched := rfl
@[simp] theorem State.free_regs (s : State) : s.free.2.regs = s.regs := rfl
@[simp] theorem State.free_platform (s : State) : s.free.2.platform = s.platform := rfl
@[simp] theorem State.free_agenda (s : State) : s.free.2.agenda = s.agenda := rfl
@[simp] theorem State.free_issuing (s : State) : s.free.2.issuing = s.issuing := rfl
@[simp] theorem State.free_pens (s : State) : s.free.2.pens = s.pens := rfl
@[simp] theorem State.free_cur (s : State) : s.free.2.cur = s.cur := rfl

/-! `putCopy` -/

@[simp] theorem State.putCopy_power (s : State) (c : LineCopy) : (s.putCopy c).power = s.power := rfl
@[simp] theorem State.putCopy_now (s : State) (c : LineCopy) : (s.putCopy c).now = s.now := rfl
@[simp] theorem State.putCopy_fresh (s : State) (c : LineCopy) : (s.putCopy c).fresh = s.fresh := rfl
@[simp] theorem State.putCopy_nextId (s : State) (c : LineCopy) : (s.putCopy c).nextId = s.nextId := rfl
@[simp] theorem State.putCopy_mem (s : State) (c : LineCopy) : (s.putCopy c).mem = s.mem := rfl
@[simp] theorem State.putCopy_poison (s : State) (c : LineCopy) : (s.putCopy c).poison = s.poison := rfl
@[simp] theorem State.putCopy_pageRecords (s : State) (c : LineCopy) : (s.putCopy c).pageRecords = s.pageRecords := rfl
@[simp] theorem State.putCopy_heldRecords (s : State) (c : LineCopy) : (s.putCopy c).heldRecords = s.heldRecords := rfl
@[simp] theorem State.putCopy_inks (s : State) (c : LineCopy) : (s.putCopy c).inks = s.inks := rfl
@[simp] theorem State.putCopy_replicas (s : State) (c : LineCopy) : (s.putCopy c).replicas = s.replicas := rfl
@[simp] theorem State.putCopy_inkpools (s : State) (c : LineCopy) : (s.putCopy c).inkpools = s.inkpools := rfl
@[simp] theorem State.putCopy_peersDown (s : State) (c : LineCopy) : (s.putCopy c).peersDown = s.peersDown := rfl
@[simp] theorem State.putCopy_queues (s : State) (c : LineCopy) : (s.putCopy c).queues = s.queues := rfl
@[simp] theorem State.putCopy_contexts (s : State) (c : LineCopy) : (s.putCopy c).contexts = s.contexts := rfl
@[simp] theorem State.putCopy_threads (s : State) (c : LineCopy) : (s.putCopy c).threads = s.threads := rfl
@[simp] theorem State.putCopy_teams (s : State) (c : LineCopy) : (s.putCopy c).teams = s.teams := rfl
@[simp] theorem State.putCopy_strokes (s : State) (c : LineCopy) : (s.putCopy c).strokes = s.strokes := rfl
@[simp] theorem State.putCopy_ops (s : State) (c : LineCopy) : (s.putCopy c).ops = s.ops := rfl
@[simp] theorem State.putCopy_bins (s : State) (c : LineCopy) : (s.putCopy c).bins = s.bins := rfl
@[simp] theorem State.putCopy_blkgets (s : State) (c : LineCopy) : (s.putCopy c).blkgets = s.blkgets := rfl
@[simp] theorem State.putCopy_locks (s : State) (c : LineCopy) : (s.putCopy c).locks = s.locks := rfl
@[simp] theorem State.putCopy_engines (s : State) (c : LineCopy) : (s.putCopy c).engines = s.engines := rfl
@[simp] theorem State.putCopy_raster (s : State) (c : LineCopy) : (s.putCopy c).raster = s.raster := rfl
@[simp] theorem State.putCopy_sched (s : State) (c : LineCopy) : (s.putCopy c).sched = s.sched := rfl
@[simp] theorem State.putCopy_regs (s : State) (c : LineCopy) : (s.putCopy c).regs = s.regs := rfl
@[simp] theorem State.putCopy_platform (s : State) (c : LineCopy) : (s.putCopy c).platform = s.platform := rfl
@[simp] theorem State.putCopy_agenda (s : State) (c : LineCopy) : (s.putCopy c).agenda = s.agenda := rfl
@[simp] theorem State.putCopy_issuing (s : State) (c : LineCopy) : (s.putCopy c).issuing = s.issuing := rfl
@[simp] theorem State.putCopy_pens (s : State) (c : LineCopy) : (s.putCopy c).pens = s.pens := rfl
@[simp] theorem State.putCopy_cur (s : State) (c : LineCopy) : (s.putCopy c).cur = s.cur := rfl

/-! `dropCopy` -/

@[simp] theorem State.dropCopy_power (s : State) (c l : Nat) : (s.dropCopy c l).power = s.power := rfl
@[simp] theorem State.dropCopy_now (s : State) (c l : Nat) : (s.dropCopy c l).now = s.now := rfl
@[simp] theorem State.dropCopy_fresh (s : State) (c l : Nat) : (s.dropCopy c l).fresh = s.fresh := rfl
@[simp] theorem State.dropCopy_nextId (s : State) (c l : Nat) : (s.dropCopy c l).nextId = s.nextId := rfl
@[simp] theorem State.dropCopy_mem (s : State) (c l : Nat) : (s.dropCopy c l).mem = s.mem := rfl
@[simp] theorem State.dropCopy_poison (s : State) (c l : Nat) : (s.dropCopy c l).poison = s.poison := rfl
@[simp] theorem State.dropCopy_pageRecords (s : State) (c l : Nat) : (s.dropCopy c l).pageRecords = s.pageRecords := rfl
@[simp] theorem State.dropCopy_heldRecords (s : State) (c l : Nat) : (s.dropCopy c l).heldRecords = s.heldRecords := rfl
@[simp] theorem State.dropCopy_inks (s : State) (c l : Nat) : (s.dropCopy c l).inks = s.inks := rfl
@[simp] theorem State.dropCopy_replicas (s : State) (c l : Nat) : (s.dropCopy c l).replicas = s.replicas := rfl
@[simp] theorem State.dropCopy_inkpools (s : State) (c l : Nat) : (s.dropCopy c l).inkpools = s.inkpools := rfl
@[simp] theorem State.dropCopy_peersDown (s : State) (c l : Nat) : (s.dropCopy c l).peersDown = s.peersDown := rfl
@[simp] theorem State.dropCopy_queues (s : State) (c l : Nat) : (s.dropCopy c l).queues = s.queues := rfl
@[simp] theorem State.dropCopy_contexts (s : State) (c l : Nat) : (s.dropCopy c l).contexts = s.contexts := rfl
@[simp] theorem State.dropCopy_threads (s : State) (c l : Nat) : (s.dropCopy c l).threads = s.threads := rfl
@[simp] theorem State.dropCopy_teams (s : State) (c l : Nat) : (s.dropCopy c l).teams = s.teams := rfl
@[simp] theorem State.dropCopy_strokes (s : State) (c l : Nat) : (s.dropCopy c l).strokes = s.strokes := rfl
@[simp] theorem State.dropCopy_ops (s : State) (c l : Nat) : (s.dropCopy c l).ops = s.ops := rfl
@[simp] theorem State.dropCopy_bins (s : State) (c l : Nat) : (s.dropCopy c l).bins = s.bins := rfl
@[simp] theorem State.dropCopy_blkgets (s : State) (c l : Nat) : (s.dropCopy c l).blkgets = s.blkgets := rfl
@[simp] theorem State.dropCopy_locks (s : State) (c l : Nat) : (s.dropCopy c l).locks = s.locks := rfl
@[simp] theorem State.dropCopy_engines (s : State) (c l : Nat) : (s.dropCopy c l).engines = s.engines := rfl
@[simp] theorem State.dropCopy_raster (s : State) (c l : Nat) : (s.dropCopy c l).raster = s.raster := rfl
@[simp] theorem State.dropCopy_sched (s : State) (c l : Nat) : (s.dropCopy c l).sched = s.sched := rfl
@[simp] theorem State.dropCopy_regs (s : State) (c l : Nat) : (s.dropCopy c l).regs = s.regs := rfl
@[simp] theorem State.dropCopy_platform (s : State) (c l : Nat) : (s.dropCopy c l).platform = s.platform := rfl
@[simp] theorem State.dropCopy_agenda (s : State) (c l : Nat) : (s.dropCopy c l).agenda = s.agenda := rfl
@[simp] theorem State.dropCopy_issuing (s : State) (c l : Nat) : (s.dropCopy c l).issuing = s.issuing := rfl
@[simp] theorem State.dropCopy_pens (s : State) (c l : Nat) : (s.dropCopy c l).pens = s.pens := rfl
@[simp] theorem State.dropCopy_cur (s : State) (c l : Nat) : (s.dropCopy c l).cur = s.cur := rfl

/-! `writeBack` -/

@[simp] theorem State.writeBack_power (s : State) (c : LineCopy) : (s.writeBack c).power = s.power := rfl
@[simp] theorem State.writeBack_now (s : State) (c : LineCopy) : (s.writeBack c).now = s.now := rfl
@[simp] theorem State.writeBack_fresh (s : State) (c : LineCopy) : (s.writeBack c).fresh = s.fresh := rfl
@[simp] theorem State.writeBack_nextId (s : State) (c : LineCopy) : (s.writeBack c).nextId = s.nextId := rfl
@[simp] theorem State.writeBack_pageRecords (s : State) (c : LineCopy) : (s.writeBack c).pageRecords = s.pageRecords := rfl
@[simp] theorem State.writeBack_heldRecords (s : State) (c : LineCopy) : (s.writeBack c).heldRecords = s.heldRecords := rfl
@[simp] theorem State.writeBack_inks (s : State) (c : LineCopy) : (s.writeBack c).inks = s.inks := rfl
@[simp] theorem State.writeBack_replicas (s : State) (c : LineCopy) : (s.writeBack c).replicas = s.replicas := rfl
@[simp] theorem State.writeBack_inkpools (s : State) (c : LineCopy) : (s.writeBack c).inkpools = s.inkpools := rfl
@[simp] theorem State.writeBack_peersDown (s : State) (c : LineCopy) : (s.writeBack c).peersDown = s.peersDown := rfl
@[simp] theorem State.writeBack_queues (s : State) (c : LineCopy) : (s.writeBack c).queues = s.queues := rfl
@[simp] theorem State.writeBack_contexts (s : State) (c : LineCopy) : (s.writeBack c).contexts = s.contexts := rfl
@[simp] theorem State.writeBack_threads (s : State) (c : LineCopy) : (s.writeBack c).threads = s.threads := rfl
@[simp] theorem State.writeBack_teams (s : State) (c : LineCopy) : (s.writeBack c).teams = s.teams := rfl
@[simp] theorem State.writeBack_strokes (s : State) (c : LineCopy) : (s.writeBack c).strokes = s.strokes := rfl
@[simp] theorem State.writeBack_ops (s : State) (c : LineCopy) : (s.writeBack c).ops = s.ops := rfl
@[simp] theorem State.writeBack_bins (s : State) (c : LineCopy) : (s.writeBack c).bins = s.bins := rfl
@[simp] theorem State.writeBack_blkgets (s : State) (c : LineCopy) : (s.writeBack c).blkgets = s.blkgets := rfl
@[simp] theorem State.writeBack_locks (s : State) (c : LineCopy) : (s.writeBack c).locks = s.locks := rfl
@[simp] theorem State.writeBack_engines (s : State) (c : LineCopy) : (s.writeBack c).engines = s.engines := rfl
@[simp] theorem State.writeBack_raster (s : State) (c : LineCopy) : (s.writeBack c).raster = s.raster := rfl
@[simp] theorem State.writeBack_sched (s : State) (c : LineCopy) : (s.writeBack c).sched = s.sched := rfl
@[simp] theorem State.writeBack_regs (s : State) (c : LineCopy) : (s.writeBack c).regs = s.regs := rfl
@[simp] theorem State.writeBack_platform (s : State) (c : LineCopy) : (s.writeBack c).platform = s.platform := rfl
@[simp] theorem State.writeBack_agenda (s : State) (c : LineCopy) : (s.writeBack c).agenda = s.agenda := rfl
@[simp] theorem State.writeBack_issuing (s : State) (c : LineCopy) : (s.writeBack c).issuing = s.issuing := rfl
@[simp] theorem State.writeBack_pens (s : State) (c : LineCopy) : (s.writeBack c).pens = s.pens := rfl
@[simp] theorem State.writeBack_cur (s : State) (c : LineCopy) : (s.writeBack c).cur = s.cur := rfl

/-! `countRelease` -/

@[simp] theorem State.countRelease_power (s : State) (c x : Nat) : (s.countRelease c x).power = s.power := rfl
@[simp] theorem State.countRelease_now (s : State) (c x : Nat) : (s.countRelease c x).now = s.now := rfl
@[simp] theorem State.countRelease_fresh (s : State) (c x : Nat) : (s.countRelease c x).fresh = s.fresh := rfl
@[simp] theorem State.countRelease_nextId (s : State) (c x : Nat) : (s.countRelease c x).nextId = s.nextId := rfl
@[simp] theorem State.countRelease_mem (s : State) (c x : Nat) : (s.countRelease c x).mem = s.mem := rfl
@[simp] theorem State.countRelease_poison (s : State) (c x : Nat) : (s.countRelease c x).poison = s.poison := rfl
@[simp] theorem State.countRelease_pageRecords (s : State) (c x : Nat) : (s.countRelease c x).pageRecords = s.pageRecords := rfl
@[simp] theorem State.countRelease_heldRecords (s : State) (c x : Nat) : (s.countRelease c x).heldRecords = s.heldRecords := rfl
@[simp] theorem State.countRelease_inks (s : State) (c x : Nat) : (s.countRelease c x).inks = s.inks := rfl
@[simp] theorem State.countRelease_replicas (s : State) (c x : Nat) : (s.countRelease c x).replicas = s.replicas := rfl
@[simp] theorem State.countRelease_inkpools (s : State) (c x : Nat) : (s.countRelease c x).inkpools = s.inkpools := rfl
@[simp] theorem State.countRelease_peersDown (s : State) (c x : Nat) : (s.countRelease c x).peersDown = s.peersDown := rfl
@[simp] theorem State.countRelease_queues (s : State) (c x : Nat) : (s.countRelease c x).queues = s.queues := rfl
@[simp] theorem State.countRelease_contexts (s : State) (c x : Nat) : (s.countRelease c x).contexts = s.contexts := rfl
@[simp] theorem State.countRelease_threads (s : State) (c x : Nat) : (s.countRelease c x).threads = s.threads := rfl
@[simp] theorem State.countRelease_teams (s : State) (c x : Nat) : (s.countRelease c x).teams = s.teams := rfl
@[simp] theorem State.countRelease_strokes (s : State) (c x : Nat) : (s.countRelease c x).strokes = s.strokes := rfl
@[simp] theorem State.countRelease_ops (s : State) (c x : Nat) : (s.countRelease c x).ops = s.ops := rfl
@[simp] theorem State.countRelease_bins (s : State) (c x : Nat) : (s.countRelease c x).bins = s.bins := rfl
@[simp] theorem State.countRelease_blkgets (s : State) (c x : Nat) : (s.countRelease c x).blkgets = s.blkgets := rfl
@[simp] theorem State.countRelease_locks (s : State) (c x : Nat) : (s.countRelease c x).locks = s.locks := rfl
@[simp] theorem State.countRelease_engines (s : State) (c x : Nat) : (s.countRelease c x).engines = s.engines := rfl
@[simp] theorem State.countRelease_raster (s : State) (c x : Nat) : (s.countRelease c x).raster = s.raster := rfl
@[simp] theorem State.countRelease_sched (s : State) (c x : Nat) : (s.countRelease c x).sched = s.sched := rfl
@[simp] theorem State.countRelease_regs (s : State) (c x : Nat) : (s.countRelease c x).regs = s.regs := rfl
@[simp] theorem State.countRelease_platform (s : State) (c x : Nat) : (s.countRelease c x).platform = s.platform := rfl
@[simp] theorem State.countRelease_agenda (s : State) (c x : Nat) : (s.countRelease c x).agenda = s.agenda := rfl
@[simp] theorem State.countRelease_issuing (s : State) (c x : Nat) : (s.countRelease c x).issuing = s.issuing := rfl
@[simp] theorem State.countRelease_pens (s : State) (c x : Nat) : (s.countRelease c x).pens = s.pens := rfl
@[simp] theorem State.countRelease_cur (s : State) (c x : Nat) : (s.countRelease c x).cur = s.cur := rfl

/-! `refreshHome` -/

@[simp] theorem State.refreshHome_power (s : State) (l : Nat) : (s.refreshHome l).power = s.power := rfl
@[simp] theorem State.refreshHome_now (s : State) (l : Nat) : (s.refreshHome l).now = s.now := rfl
@[simp] theorem State.refreshHome_fresh (s : State) (l : Nat) : (s.refreshHome l).fresh = s.fresh := rfl
@[simp] theorem State.refreshHome_nextId (s : State) (l : Nat) : (s.refreshHome l).nextId = s.nextId := rfl
@[simp] theorem State.refreshHome_mem (s : State) (l : Nat) : (s.refreshHome l).mem = s.mem := rfl
@[simp] theorem State.refreshHome_poison (s : State) (l : Nat) : (s.refreshHome l).poison = s.poison := rfl
@[simp] theorem State.refreshHome_pageRecords (s : State) (l : Nat) : (s.refreshHome l).pageRecords = s.pageRecords := rfl
@[simp] theorem State.refreshHome_heldRecords (s : State) (l : Nat) : (s.refreshHome l).heldRecords = s.heldRecords := rfl
@[simp] theorem State.refreshHome_inks (s : State) (l : Nat) : (s.refreshHome l).inks = s.inks := rfl
@[simp] theorem State.refreshHome_replicas (s : State) (l : Nat) : (s.refreshHome l).replicas = s.replicas := rfl
@[simp] theorem State.refreshHome_inkpools (s : State) (l : Nat) : (s.refreshHome l).inkpools = s.inkpools := rfl
@[simp] theorem State.refreshHome_peersDown (s : State) (l : Nat) : (s.refreshHome l).peersDown = s.peersDown := rfl
@[simp] theorem State.refreshHome_queues (s : State) (l : Nat) : (s.refreshHome l).queues = s.queues := rfl
@[simp] theorem State.refreshHome_contexts (s : State) (l : Nat) : (s.refreshHome l).contexts = s.contexts := rfl
@[simp] theorem State.refreshHome_threads (s : State) (l : Nat) : (s.refreshHome l).threads = s.threads := rfl
@[simp] theorem State.refreshHome_teams (s : State) (l : Nat) : (s.refreshHome l).teams = s.teams := rfl
@[simp] theorem State.refreshHome_strokes (s : State) (l : Nat) : (s.refreshHome l).strokes = s.strokes := rfl
@[simp] theorem State.refreshHome_ops (s : State) (l : Nat) : (s.refreshHome l).ops = s.ops := rfl
@[simp] theorem State.refreshHome_bins (s : State) (l : Nat) : (s.refreshHome l).bins = s.bins := rfl
@[simp] theorem State.refreshHome_blkgets (s : State) (l : Nat) : (s.refreshHome l).blkgets = s.blkgets := rfl
@[simp] theorem State.refreshHome_locks (s : State) (l : Nat) : (s.refreshHome l).locks = s.locks := rfl
@[simp] theorem State.refreshHome_engines (s : State) (l : Nat) : (s.refreshHome l).engines = s.engines := rfl
@[simp] theorem State.refreshHome_raster (s : State) (l : Nat) : (s.refreshHome l).raster = s.raster := rfl
@[simp] theorem State.refreshHome_sched (s : State) (l : Nat) : (s.refreshHome l).sched = s.sched := rfl
@[simp] theorem State.refreshHome_regs (s : State) (l : Nat) : (s.refreshHome l).regs = s.regs := rfl
@[simp] theorem State.refreshHome_platform (s : State) (l : Nat) : (s.refreshHome l).platform = s.platform := rfl
@[simp] theorem State.refreshHome_agenda (s : State) (l : Nat) : (s.refreshHome l).agenda = s.agenda := rfl
@[simp] theorem State.refreshHome_issuing (s : State) (l : Nat) : (s.refreshHome l).issuing = s.issuing := rfl
@[simp] theorem State.refreshHome_pens (s : State) (l : Nat) : (s.refreshHome l).pens = s.pens := rfl
@[simp] theorem State.refreshHome_cur (s : State) (l : Nat) : (s.refreshHome l).cur = s.cur := rfl

/-! `breakGroups` -/

@[simp] theorem State.breakGroups_power (s : State) (t l : Nat) : (s.breakGroups t l).power = s.power := rfl
@[simp] theorem State.breakGroups_now (s : State) (t l : Nat) : (s.breakGroups t l).now = s.now := rfl
@[simp] theorem State.breakGroups_fresh (s : State) (t l : Nat) : (s.breakGroups t l).fresh = s.fresh := rfl
@[simp] theorem State.breakGroups_nextId (s : State) (t l : Nat) : (s.breakGroups t l).nextId = s.nextId := rfl
@[simp] theorem State.breakGroups_mem (s : State) (t l : Nat) : (s.breakGroups t l).mem = s.mem := rfl
@[simp] theorem State.breakGroups_poison (s : State) (t l : Nat) : (s.breakGroups t l).poison = s.poison := rfl
@[simp] theorem State.breakGroups_caches (s : State) (t l : Nat) : (s.breakGroups t l).caches = s.caches := rfl
@[simp] theorem State.breakGroups_pageRecords (s : State) (t l : Nat) : (s.breakGroups t l).pageRecords = s.pageRecords := rfl
@[simp] theorem State.breakGroups_heldRecords (s : State) (t l : Nat) : (s.breakGroups t l).heldRecords = s.heldRecords := rfl
@[simp] theorem State.breakGroups_inks (s : State) (t l : Nat) : (s.breakGroups t l).inks = s.inks := rfl
@[simp] theorem State.breakGroups_replicas (s : State) (t l : Nat) : (s.breakGroups t l).replicas = s.replicas := rfl
@[simp] theorem State.breakGroups_inkpools (s : State) (t l : Nat) : (s.breakGroups t l).inkpools = s.inkpools := rfl
@[simp] theorem State.breakGroups_peersDown (s : State) (t l : Nat) : (s.breakGroups t l).peersDown = s.peersDown := rfl
@[simp] theorem State.breakGroups_queues (s : State) (t l : Nat) : (s.breakGroups t l).queues = s.queues := rfl
@[simp] theorem State.breakGroups_contexts (s : State) (t l : Nat) : (s.breakGroups t l).contexts = s.contexts := rfl
@[simp] theorem State.breakGroups_teams (s : State) (t l : Nat) : (s.breakGroups t l).teams = s.teams := rfl
@[simp] theorem State.breakGroups_strokes (s : State) (t l : Nat) : (s.breakGroups t l).strokes = s.strokes := rfl
@[simp] theorem State.breakGroups_ops (s : State) (t l : Nat) : (s.breakGroups t l).ops = s.ops := rfl
@[simp] theorem State.breakGroups_bins (s : State) (t l : Nat) : (s.breakGroups t l).bins = s.bins := rfl
@[simp] theorem State.breakGroups_blkgets (s : State) (t l : Nat) : (s.breakGroups t l).blkgets = s.blkgets := rfl
@[simp] theorem State.breakGroups_locks (s : State) (t l : Nat) : (s.breakGroups t l).locks = s.locks := rfl
@[simp] theorem State.breakGroups_engines (s : State) (t l : Nat) : (s.breakGroups t l).engines = s.engines := rfl
@[simp] theorem State.breakGroups_raster (s : State) (t l : Nat) : (s.breakGroups t l).raster = s.raster := rfl
@[simp] theorem State.breakGroups_sched (s : State) (t l : Nat) : (s.breakGroups t l).sched = s.sched := rfl
@[simp] theorem State.breakGroups_regs (s : State) (t l : Nat) : (s.breakGroups t l).regs = s.regs := rfl
@[simp] theorem State.breakGroups_platform (s : State) (t l : Nat) : (s.breakGroups t l).platform = s.platform := rfl
@[simp] theorem State.breakGroups_agenda (s : State) (t l : Nat) : (s.breakGroups t l).agenda = s.agenda := rfl
@[simp] theorem State.breakGroups_issuing (s : State) (t l : Nat) : (s.breakGroups t l).issuing = s.issuing := rfl
@[simp] theorem State.breakGroups_pens (s : State) (t l : Nat) : (s.breakGroups t l).pens = s.pens := rfl
@[simp] theorem State.breakGroups_cur (s : State) (t l : Nat) : (s.breakGroups t l).cur = s.cur := rfl

/-! `markPoison` -/

/-- Marking a sector changes the marks of copies and of homes only. -/
theorem State.markSector_eq (s : State) (o : Option LineCopy) (k : Nat) :
    ∃ c p, s.markSector o k = { s with caches := c, poison := p } := by
  unfold State.markSector State.putCopy
  cases o with
  | some c => exact ⟨_, s.poison, rfl⟩
  | none =>
    by_cases h : s.poison.contains k
    · exact ⟨s.caches, s.poison, by simp only [h, if_true]⟩
    · exact ⟨s.caches, _, by simp only [h]; rfl⟩

/-- Marking sectors changes the marks of copies and of homes only. -/
theorem State.markPoison_eq (s : State) (a n : Nat) : ∃ c p, s.markPoison a n = { s with caches := c, poison := p } := by
  unfold State.markPoison
  generalize sectorsOf a n = ks
  induction ks generalizing s with
  | nil => exact ⟨s.caches, s.poison, rfl⟩
  | cons k r ih =>
    obtain ⟨c, p, h⟩ := s.markSector_eq (s.owner? (k / 4)) k
    obtain ⟨d, q, g⟩ := ih (s.markSector (s.owner? (k / 4)) k)
    exact ⟨d, q, by rw [List.foldl_cons, g, h]⟩

@[simp] theorem State.markPoison_power (s : State) (a n : Nat) : (s.markPoison a n).power = s.power := by
  obtain ⟨c, p, h⟩ := s.markPoison_eq a n; rw [h]
@[simp] theorem State.markPoison_now (s : State) (a n : Nat) : (s.markPoison a n).now = s.now := by
  obtain ⟨c, p, h⟩ := s.markPoison_eq a n; rw [h]
@[simp] theorem State.markPoison_fresh (s : State) (a n : Nat) : (s.markPoison a n).fresh = s.fresh := by
  obtain ⟨c, p, h⟩ := s.markPoison_eq a n; rw [h]
@[simp] theorem State.markPoison_nextId (s : State) (a n : Nat) : (s.markPoison a n).nextId = s.nextId := by
  obtain ⟨c, p, h⟩ := s.markPoison_eq a n; rw [h]
@[simp] theorem State.markPoison_mem (s : State) (a n : Nat) : (s.markPoison a n).mem = s.mem := by
  obtain ⟨c, p, h⟩ := s.markPoison_eq a n; rw [h]
@[simp] theorem State.markPoison_pageRecords (s : State) (a n : Nat) : (s.markPoison a n).pageRecords = s.pageRecords := by
  obtain ⟨c, p, h⟩ := s.markPoison_eq a n; rw [h]
@[simp] theorem State.markPoison_heldRecords (s : State) (a n : Nat) : (s.markPoison a n).heldRecords = s.heldRecords := by
  obtain ⟨c, p, h⟩ := s.markPoison_eq a n; rw [h]
@[simp] theorem State.markPoison_inks (s : State) (a n : Nat) : (s.markPoison a n).inks = s.inks := by
  obtain ⟨c, p, h⟩ := s.markPoison_eq a n; rw [h]
@[simp] theorem State.markPoison_replicas (s : State) (a n : Nat) : (s.markPoison a n).replicas = s.replicas := by
  obtain ⟨c, p, h⟩ := s.markPoison_eq a n; rw [h]
@[simp] theorem State.markPoison_inkpools (s : State) (a n : Nat) : (s.markPoison a n).inkpools = s.inkpools := by
  obtain ⟨c, p, h⟩ := s.markPoison_eq a n; rw [h]
@[simp] theorem State.markPoison_peersDown (s : State) (a n : Nat) : (s.markPoison a n).peersDown = s.peersDown := by
  obtain ⟨c, p, h⟩ := s.markPoison_eq a n; rw [h]
@[simp] theorem State.markPoison_queues (s : State) (a n : Nat) : (s.markPoison a n).queues = s.queues := by
  obtain ⟨c, p, h⟩ := s.markPoison_eq a n; rw [h]
@[simp] theorem State.markPoison_contexts (s : State) (a n : Nat) : (s.markPoison a n).contexts = s.contexts := by
  obtain ⟨c, p, h⟩ := s.markPoison_eq a n; rw [h]
@[simp] theorem State.markPoison_threads (s : State) (a n : Nat) : (s.markPoison a n).threads = s.threads := by
  obtain ⟨c, p, h⟩ := s.markPoison_eq a n; rw [h]
@[simp] theorem State.markPoison_teams (s : State) (a n : Nat) : (s.markPoison a n).teams = s.teams := by
  obtain ⟨c, p, h⟩ := s.markPoison_eq a n; rw [h]
@[simp] theorem State.markPoison_strokes (s : State) (a n : Nat) : (s.markPoison a n).strokes = s.strokes := by
  obtain ⟨c, p, h⟩ := s.markPoison_eq a n; rw [h]
@[simp] theorem State.markPoison_ops (s : State) (a n : Nat) : (s.markPoison a n).ops = s.ops := by
  obtain ⟨c, p, h⟩ := s.markPoison_eq a n; rw [h]
@[simp] theorem State.markPoison_bins (s : State) (a n : Nat) : (s.markPoison a n).bins = s.bins := by
  obtain ⟨c, p, h⟩ := s.markPoison_eq a n; rw [h]
@[simp] theorem State.markPoison_blkgets (s : State) (a n : Nat) : (s.markPoison a n).blkgets = s.blkgets := by
  obtain ⟨c, p, h⟩ := s.markPoison_eq a n; rw [h]
@[simp] theorem State.markPoison_locks (s : State) (a n : Nat) : (s.markPoison a n).locks = s.locks := by
  obtain ⟨c, p, h⟩ := s.markPoison_eq a n; rw [h]
@[simp] theorem State.markPoison_engines (s : State) (a n : Nat) : (s.markPoison a n).engines = s.engines := by
  obtain ⟨c, p, h⟩ := s.markPoison_eq a n; rw [h]
@[simp] theorem State.markPoison_raster (s : State) (a n : Nat) : (s.markPoison a n).raster = s.raster := by
  obtain ⟨c, p, h⟩ := s.markPoison_eq a n; rw [h]
@[simp] theorem State.markPoison_sched (s : State) (a n : Nat) : (s.markPoison a n).sched = s.sched := by
  obtain ⟨c, p, h⟩ := s.markPoison_eq a n; rw [h]
@[simp] theorem State.markPoison_regs (s : State) (a n : Nat) : (s.markPoison a n).regs = s.regs := by
  obtain ⟨c, p, h⟩ := s.markPoison_eq a n; rw [h]
@[simp] theorem State.markPoison_platform (s : State) (a n : Nat) : (s.markPoison a n).platform = s.platform := by
  obtain ⟨c, p, h⟩ := s.markPoison_eq a n; rw [h]
@[simp] theorem State.markPoison_agenda (s : State) (a n : Nat) : (s.markPoison a n).agenda = s.agenda := by
  obtain ⟨c, p, h⟩ := s.markPoison_eq a n; rw [h]
@[simp] theorem State.markPoison_issuing (s : State) (a n : Nat) : (s.markPoison a n).issuing = s.issuing := by
  obtain ⟨c, p, h⟩ := s.markPoison_eq a n; rw [h]
@[simp] theorem State.markPoison_pens (s : State) (a n : Nat) : (s.markPoison a n).pens = s.pens := by
  obtain ⟨c, p, h⟩ := s.markPoison_eq a n; rw [h]
@[simp] theorem State.markPoison_cur (s : State) (a n : Nat) : (s.markPoison a n).cur = s.cur := by
  obtain ⟨c, p, h⟩ := s.markPoison_eq a n; rw [h]

/-! `clearPoison` -/

@[simp] theorem State.clearPoison_power (s : State) (a n : Nat) : (s.clearPoison a n).power = s.power := rfl
@[simp] theorem State.clearPoison_now (s : State) (a n : Nat) : (s.clearPoison a n).now = s.now := rfl
@[simp] theorem State.clearPoison_fresh (s : State) (a n : Nat) : (s.clearPoison a n).fresh = s.fresh := rfl
@[simp] theorem State.clearPoison_nextId (s : State) (a n : Nat) : (s.clearPoison a n).nextId = s.nextId := rfl
@[simp] theorem State.clearPoison_mem (s : State) (a n : Nat) : (s.clearPoison a n).mem = s.mem := rfl
@[simp] theorem State.clearPoison_caches (s : State) (a n : Nat) : (s.clearPoison a n).caches = s.caches := rfl
@[simp] theorem State.clearPoison_pageRecords (s : State) (a n : Nat) : (s.clearPoison a n).pageRecords = s.pageRecords := rfl
@[simp] theorem State.clearPoison_heldRecords (s : State) (a n : Nat) : (s.clearPoison a n).heldRecords = s.heldRecords := rfl
@[simp] theorem State.clearPoison_inks (s : State) (a n : Nat) : (s.clearPoison a n).inks = s.inks := rfl
@[simp] theorem State.clearPoison_replicas (s : State) (a n : Nat) : (s.clearPoison a n).replicas = s.replicas := rfl
@[simp] theorem State.clearPoison_inkpools (s : State) (a n : Nat) : (s.clearPoison a n).inkpools = s.inkpools := rfl
@[simp] theorem State.clearPoison_peersDown (s : State) (a n : Nat) : (s.clearPoison a n).peersDown = s.peersDown := rfl
@[simp] theorem State.clearPoison_queues (s : State) (a n : Nat) : (s.clearPoison a n).queues = s.queues := rfl
@[simp] theorem State.clearPoison_contexts (s : State) (a n : Nat) : (s.clearPoison a n).contexts = s.contexts := rfl
@[simp] theorem State.clearPoison_threads (s : State) (a n : Nat) : (s.clearPoison a n).threads = s.threads := rfl
@[simp] theorem State.clearPoison_teams (s : State) (a n : Nat) : (s.clearPoison a n).teams = s.teams := rfl
@[simp] theorem State.clearPoison_strokes (s : State) (a n : Nat) : (s.clearPoison a n).strokes = s.strokes := rfl
@[simp] theorem State.clearPoison_ops (s : State) (a n : Nat) : (s.clearPoison a n).ops = s.ops := rfl
@[simp] theorem State.clearPoison_bins (s : State) (a n : Nat) : (s.clearPoison a n).bins = s.bins := rfl
@[simp] theorem State.clearPoison_blkgets (s : State) (a n : Nat) : (s.clearPoison a n).blkgets = s.blkgets := rfl
@[simp] theorem State.clearPoison_locks (s : State) (a n : Nat) : (s.clearPoison a n).locks = s.locks := rfl
@[simp] theorem State.clearPoison_engines (s : State) (a n : Nat) : (s.clearPoison a n).engines = s.engines := rfl
@[simp] theorem State.clearPoison_raster (s : State) (a n : Nat) : (s.clearPoison a n).raster = s.raster := rfl
@[simp] theorem State.clearPoison_sched (s : State) (a n : Nat) : (s.clearPoison a n).sched = s.sched := rfl
@[simp] theorem State.clearPoison_regs (s : State) (a n : Nat) : (s.clearPoison a n).regs = s.regs := rfl
@[simp] theorem State.clearPoison_platform (s : State) (a n : Nat) : (s.clearPoison a n).platform = s.platform := rfl
@[simp] theorem State.clearPoison_agenda (s : State) (a n : Nat) : (s.clearPoison a n).agenda = s.agenda := rfl
@[simp] theorem State.clearPoison_issuing (s : State) (a n : Nat) : (s.clearPoison a n).issuing = s.issuing := rfl
@[simp] theorem State.clearPoison_pens (s : State) (a n : Nat) : (s.clearPoison a n).pens = s.pens := rfl
@[simp] theorem State.clearPoison_cur (s : State) (a n : Nat) : (s.clearPoison a n).cur = s.cur := rfl

/-! `setReg` -/

@[simp] theorem Thread.setReg_id (t : Thread) (n : Nat) (v : Word) : (t.setReg n v).id = t.id := rfl
@[simp] theorem Thread.setReg_ctx (t : Thread) (n : Nat) (v : Word) : (t.setReg n v).ctx = t.ctx := rfl
@[simp] theorem Thread.setReg_team (t : Thread) (n : Nat) (v : Word) : (t.setReg n v).team = t.team := rfl
@[simp] theorem Thread.setReg_kind (t : Thread) (n : Nat) (v : Word) : (t.setReg n v).kind = t.kind := rfl
@[simp] theorem Thread.setReg_col (t : Thread) (n : Nat) (v : Word) : (t.setReg n v).col = t.col := rfl
@[simp] theorem Thread.setReg_core (t : Thread) (n : Nat) (v : Word) : (t.setReg n v).core = t.core := rfl
@[simp] theorem Thread.setReg_lane (t : Thread) (n : Nat) (v : Word) : (t.setReg n v).lane = t.lane := rfl
@[simp] theorem Thread.setReg_slot (t : Thread) (n : Nat) (v : Word) : (t.setReg n v).slot = t.slot := rfl
@[simp] theorem Thread.setReg_allot (t : Thread) (n : Nat) (v : Word) : (t.setReg n v).allot = t.allot := rfl
@[simp] theorem Thread.setReg_preds (t : Thread) (n : Nat) (v : Word) : (t.setReg n v).preds = t.preds := rfl
@[simp] theorem Thread.setReg_pc (t : Thread) (n : Nat) (v : Word) : (t.setReg n v).pc = t.pc := rfl
@[simp] theorem Thread.setReg_head (t : Thread) (n : Nat) (v : Word) : (t.setReg n v).head = t.head := rfl
@[simp] theorem Thread.setReg_entering (t : Thread) (n : Nat) (v : Word) : (t.setReg n v).entering = t.entering := rfl
@[simp] theorem Thread.setReg_stack (t : Thread) (n : Nat) (v : Word) : (t.setReg n v).stack = t.stack := rfl
@[simp] theorem Thread.setReg_spills (t : Thread) (n : Nat) (v : Word) : (t.setReg n v).spills = t.spills := rfl
@[simp] theorem Thread.setReg_window (t : Thread) (n : Nat) (v : Word) : (t.setReg n v).window = t.window := rfl
@[simp] theorem Thread.setReg_spillSize (t : Thread) (n : Nat) (v : Word) : (t.setReg n v).spillSize = t.spillSize := rfl
@[simp] theorem Thread.setReg_tid (t : Thread) (n : Nat) (v : Word) : (t.setReg n v).tid = t.tid := rfl
@[simp] theorem Thread.setReg_tx (t : Thread) (n : Nat) (v : Word) : (t.setReg n v).tx = t.tx := rfl
@[simp] theorem Thread.setReg_ty (t : Thread) (n : Nat) (v : Word) : (t.setReg n v).ty = t.ty := rfl
@[simp] theorem Thread.setReg_tz (t : Thread) (n : Nat) (v : Word) : (t.setReg n v).tz = t.tz := rfl
@[simp] theorem Thread.setReg_quad (t : Thread) (n : Nat) (v : Word) : (t.setReg n v).quad = t.quad := rfl
@[simp] theorem Thread.setReg_quadId (t : Thread) (n : Nat) (v : Word) : (t.setReg n v).quadId = t.quadId := rfl
@[simp] theorem Thread.setReg_helper (t : Thread) (n : Nat) (v : Word) : (t.setReg n v).helper = t.helper := rfl
@[simp] theorem Thread.setReg_px (t : Thread) (n : Nat) (v : Word) : (t.setReg n v).px = t.px := rfl
@[simp] theorem Thread.setReg_py (t : Thread) (n : Nat) (v : Word) : (t.setReg n v).py = t.py := rfl
@[simp] theorem Thread.setReg_prim (t : Thread) (n : Nat) (v : Word) : (t.setReg n v).prim = t.prim := rfl
@[simp] theorem Thread.setReg_seq (t : Thread) (n : Nat) (v : Word) : (t.setReg n v).seq = t.seq := rfl
@[simp] theorem Thread.setReg_nbin (t : Thread) (n : Nat) (v : Word) : (t.setReg n v).nbin = t.nbin := rfl
@[simp] theorem Thread.setReg_item (t : Thread) (n : Nat) (v : Word) : (t.setReg n v).item = t.item := rfl
@[simp] theorem Thread.setReg_trapPc (t : Thread) (n : Nat) (v : Word) : (t.setReg n v).trapPc = t.trapPc := rfl
@[simp] theorem Thread.setReg_trapHead (t : Thread) (n : Nat) (v : Word) : (t.setReg n v).trapHead = t.trapHead := rfl
@[simp] theorem Thread.setReg_trapAddr (t : Thread) (n : Nat) (v : Word) : (t.setReg n v).trapAddr = t.trapAddr := rfl
@[simp] theorem Thread.setReg_trapInfo (t : Thread) (n : Nat) (v : Word) : (t.setReg n v).trapInfo = t.trapInfo := rfl
@[simp] theorem Thread.setReg_inHandler (t : Thread) (n : Nat) (v : Word) : (t.setReg n v).inHandler = t.inHandler := rfl
@[simp] theorem Thread.setReg_trap (t : Thread) (n : Nat) (v : Word) : (t.setReg n v).trap = t.trap := rfl
@[simp] theorem Thread.setReg_pending (t : Thread) (n : Nat) (v : Word) : (t.setReg n v).pending = t.pending := rfl
@[simp] theorem Thread.setReg_hold (t : Thread) (n : Nat) (v : Word) : (t.setReg n v).hold = t.hold := rfl
@[simp] theorem Thread.setReg_flights (t : Thread) (n : Nat) (v : Word) : (t.setReg n v).flights = t.flights := rfl
@[simp] theorem Thread.setReg_nextIssue (t : Thread) (n : Nat) (v : Word) : (t.setReg n v).nextIssue = t.nextIssue := rfl
@[simp] theorem Thread.setReg_readySince (t : Thread) (n : Nat) (v : Word) : (t.setReg n v).readySince = t.readySince := rfl
@[simp] theorem Thread.setReg_yieldMark (t : Thread) (n : Nat) (v : Word) : (t.setReg n v).yieldMark = t.yieldMark := rfl
@[simp] theorem Thread.setReg_yieldIn (t : Thread) (n : Nat) (v : Word) : (t.setReg n v).yieldIn = t.yieldIn := rfl
@[simp] theorem Thread.setReg_block (t : Thread) (n : Nat) (v : Word) : (t.setReg n v).block = t.block := rfl
@[simp] theorem Thread.setReg_mask (t : Thread) (n : Nat) (v : Word) : (t.setReg n v).mask = t.mask := rfl
@[simp] theorem Thread.setReg_group (t : Thread) (n : Nat) (v : Word) : (t.setReg n v).group = t.group := rfl
@[simp] theorem Thread.setReg_aborts (t : Thread) (n : Nat) (v : Word) : (t.setReg n v).aborts = t.aborts := rfl
@[simp] theorem Thread.setReg_abortAt (t : Thread) (n : Nat) (v : Word) : (t.setReg n v).abortAt = t.abortAt := rfl
@[simp] theorem Thread.setReg_ticket (t : Thread) (n : Nat) (v : Word) : (t.setReg n v).ticket = t.ticket := rfl
@[simp] theorem Thread.setReg_ordered (t : Thread) (n : Nat) (v : Word) : (t.setReg n v).ordered = t.ordered := rfl
@[simp] theorem Thread.setReg_parked (t : Thread) (n : Nat) (v : Word) : (t.setReg n v).parked = t.parked := rfl
@[simp] theorem Thread.setReg_wholeSave (t : Thread) (n : Nat) (v : Word) : (t.setReg n v).wholeSave = t.wholeSave := rfl
@[simp] theorem Thread.setReg_begun (t : Thread) (n : Nat) (v : Word) : (t.setReg n v).begun = t.begun := rfl
@[simp] theorem Thread.setReg_trapYield (t : Thread) (n : Nat) (v : Word) : (t.setReg n v).trapYield = t.trapYield := rfl

/-! `setPred` -/

@[simp] theorem Thread.setPred_id (t : Thread) (n : Nat) (b : Bool) : (t.setPred n b).id = t.id := by unfold Thread.setPred; split <;> rfl
@[simp] theorem Thread.setPred_ctx (t : Thread) (n : Nat) (b : Bool) : (t.setPred n b).ctx = t.ctx := by unfold Thread.setPred; split <;> rfl
@[simp] theorem Thread.setPred_team (t : Thread) (n : Nat) (b : Bool) : (t.setPred n b).team = t.team := by unfold Thread.setPred; split <;> rfl
@[simp] theorem Thread.setPred_kind (t : Thread) (n : Nat) (b : Bool) : (t.setPred n b).kind = t.kind := by unfold Thread.setPred; split <;> rfl
@[simp] theorem Thread.setPred_col (t : Thread) (n : Nat) (b : Bool) : (t.setPred n b).col = t.col := by unfold Thread.setPred; split <;> rfl
@[simp] theorem Thread.setPred_core (t : Thread) (n : Nat) (b : Bool) : (t.setPred n b).core = t.core := by unfold Thread.setPred; split <;> rfl
@[simp] theorem Thread.setPred_lane (t : Thread) (n : Nat) (b : Bool) : (t.setPred n b).lane = t.lane := by unfold Thread.setPred; split <;> rfl
@[simp] theorem Thread.setPred_slot (t : Thread) (n : Nat) (b : Bool) : (t.setPred n b).slot = t.slot := by unfold Thread.setPred; split <;> rfl
@[simp] theorem Thread.setPred_regs (t : Thread) (n : Nat) (b : Bool) : (t.setPred n b).regs = t.regs := by unfold Thread.setPred; split <;> rfl
@[simp] theorem Thread.setPred_allot (t : Thread) (n : Nat) (b : Bool) : (t.setPred n b).allot = t.allot := by unfold Thread.setPred; split <;> rfl
@[simp] theorem Thread.setPred_pc (t : Thread) (n : Nat) (b : Bool) : (t.setPred n b).pc = t.pc := by unfold Thread.setPred; split <;> rfl
@[simp] theorem Thread.setPred_head (t : Thread) (n : Nat) (b : Bool) : (t.setPred n b).head = t.head := by unfold Thread.setPred; split <;> rfl
@[simp] theorem Thread.setPred_entering (t : Thread) (n : Nat) (b : Bool) : (t.setPred n b).entering = t.entering := by unfold Thread.setPred; split <;> rfl
@[simp] theorem Thread.setPred_stack (t : Thread) (n : Nat) (b : Bool) : (t.setPred n b).stack = t.stack := by unfold Thread.setPred; split <;> rfl
@[simp] theorem Thread.setPred_spills (t : Thread) (n : Nat) (b : Bool) : (t.setPred n b).spills = t.spills := by unfold Thread.setPred; split <;> rfl
@[simp] theorem Thread.setPred_window (t : Thread) (n : Nat) (b : Bool) : (t.setPred n b).window = t.window := by unfold Thread.setPred; split <;> rfl
@[simp] theorem Thread.setPred_spillSize (t : Thread) (n : Nat) (b : Bool) : (t.setPred n b).spillSize = t.spillSize := by unfold Thread.setPred; split <;> rfl
@[simp] theorem Thread.setPred_tid (t : Thread) (n : Nat) (b : Bool) : (t.setPred n b).tid = t.tid := by unfold Thread.setPred; split <;> rfl
@[simp] theorem Thread.setPred_tx (t : Thread) (n : Nat) (b : Bool) : (t.setPred n b).tx = t.tx := by unfold Thread.setPred; split <;> rfl
@[simp] theorem Thread.setPred_ty (t : Thread) (n : Nat) (b : Bool) : (t.setPred n b).ty = t.ty := by unfold Thread.setPred; split <;> rfl
@[simp] theorem Thread.setPred_tz (t : Thread) (n : Nat) (b : Bool) : (t.setPred n b).tz = t.tz := by unfold Thread.setPred; split <;> rfl
@[simp] theorem Thread.setPred_quad (t : Thread) (n : Nat) (b : Bool) : (t.setPred n b).quad = t.quad := by unfold Thread.setPred; split <;> rfl
@[simp] theorem Thread.setPred_quadId (t : Thread) (n : Nat) (b : Bool) : (t.setPred n b).quadId = t.quadId := by unfold Thread.setPred; split <;> rfl
@[simp] theorem Thread.setPred_helper (t : Thread) (n : Nat) (b : Bool) : (t.setPred n b).helper = t.helper := by unfold Thread.setPred; split <;> rfl
@[simp] theorem Thread.setPred_px (t : Thread) (n : Nat) (b : Bool) : (t.setPred n b).px = t.px := by unfold Thread.setPred; split <;> rfl
@[simp] theorem Thread.setPred_py (t : Thread) (n : Nat) (b : Bool) : (t.setPred n b).py = t.py := by unfold Thread.setPred; split <;> rfl
@[simp] theorem Thread.setPred_prim (t : Thread) (n : Nat) (b : Bool) : (t.setPred n b).prim = t.prim := by unfold Thread.setPred; split <;> rfl
@[simp] theorem Thread.setPred_seq (t : Thread) (n : Nat) (b : Bool) : (t.setPred n b).seq = t.seq := by unfold Thread.setPred; split <;> rfl
@[simp] theorem Thread.setPred_nbin (t : Thread) (n : Nat) (b : Bool) : (t.setPred n b).nbin = t.nbin := by unfold Thread.setPred; split <;> rfl
@[simp] theorem Thread.setPred_item (t : Thread) (n : Nat) (b : Bool) : (t.setPred n b).item = t.item := by unfold Thread.setPred; split <;> rfl
@[simp] theorem Thread.setPred_trapPc (t : Thread) (n : Nat) (b : Bool) : (t.setPred n b).trapPc = t.trapPc := by unfold Thread.setPred; split <;> rfl
@[simp] theorem Thread.setPred_trapHead (t : Thread) (n : Nat) (b : Bool) : (t.setPred n b).trapHead = t.trapHead := by unfold Thread.setPred; split <;> rfl
@[simp] theorem Thread.setPred_trapAddr (t : Thread) (n : Nat) (b : Bool) : (t.setPred n b).trapAddr = t.trapAddr := by unfold Thread.setPred; split <;> rfl
@[simp] theorem Thread.setPred_trapInfo (t : Thread) (n : Nat) (b : Bool) : (t.setPred n b).trapInfo = t.trapInfo := by unfold Thread.setPred; split <;> rfl
@[simp] theorem Thread.setPred_inHandler (t : Thread) (n : Nat) (b : Bool) : (t.setPred n b).inHandler = t.inHandler := by unfold Thread.setPred; split <;> rfl
@[simp] theorem Thread.setPred_trap (t : Thread) (n : Nat) (b : Bool) : (t.setPred n b).trap = t.trap := by unfold Thread.setPred; split <;> rfl
@[simp] theorem Thread.setPred_pending (t : Thread) (n : Nat) (b : Bool) : (t.setPred n b).pending = t.pending := by unfold Thread.setPred; split <;> rfl
@[simp] theorem Thread.setPred_hold (t : Thread) (n : Nat) (b : Bool) : (t.setPred n b).hold = t.hold := by unfold Thread.setPred; split <;> rfl
@[simp] theorem Thread.setPred_flights (t : Thread) (n : Nat) (b : Bool) : (t.setPred n b).flights = t.flights := by unfold Thread.setPred; split <;> rfl
@[simp] theorem Thread.setPred_nextIssue (t : Thread) (n : Nat) (b : Bool) : (t.setPred n b).nextIssue = t.nextIssue := by unfold Thread.setPred; split <;> rfl
@[simp] theorem Thread.setPred_readySince (t : Thread) (n : Nat) (b : Bool) : (t.setPred n b).readySince = t.readySince := by unfold Thread.setPred; split <;> rfl
@[simp] theorem Thread.setPred_yieldMark (t : Thread) (n : Nat) (b : Bool) : (t.setPred n b).yieldMark = t.yieldMark := by unfold Thread.setPred; split <;> rfl
@[simp] theorem Thread.setPred_yieldIn (t : Thread) (n : Nat) (b : Bool) : (t.setPred n b).yieldIn = t.yieldIn := by unfold Thread.setPred; split <;> rfl
@[simp] theorem Thread.setPred_block (t : Thread) (n : Nat) (b : Bool) : (t.setPred n b).block = t.block := by unfold Thread.setPred; split <;> rfl
@[simp] theorem Thread.setPred_mask (t : Thread) (n : Nat) (b : Bool) : (t.setPred n b).mask = t.mask := by unfold Thread.setPred; split <;> rfl
@[simp] theorem Thread.setPred_poisoned (t : Thread) (n : Nat) (b : Bool) : (t.setPred n b).poisoned = t.poisoned := by unfold Thread.setPred; split <;> rfl
@[simp] theorem Thread.setPred_group (t : Thread) (n : Nat) (b : Bool) : (t.setPred n b).group = t.group := by unfold Thread.setPred; split <;> rfl
@[simp] theorem Thread.setPred_aborts (t : Thread) (n : Nat) (b : Bool) : (t.setPred n b).aborts = t.aborts := by unfold Thread.setPred; split <;> rfl
@[simp] theorem Thread.setPred_abortAt (t : Thread) (n : Nat) (b : Bool) : (t.setPred n b).abortAt = t.abortAt := by unfold Thread.setPred; split <;> rfl
@[simp] theorem Thread.setPred_ticket (t : Thread) (n : Nat) (b : Bool) : (t.setPred n b).ticket = t.ticket := by unfold Thread.setPred; split <;> rfl
@[simp] theorem Thread.setPred_ordered (t : Thread) (n : Nat) (b : Bool) : (t.setPred n b).ordered = t.ordered := by unfold Thread.setPred; split <;> rfl
@[simp] theorem Thread.setPred_parked (t : Thread) (n : Nat) (b : Bool) : (t.setPred n b).parked = t.parked := by unfold Thread.setPred; split <;> rfl
@[simp] theorem Thread.setPred_wholeSave (t : Thread) (n : Nat) (b : Bool) : (t.setPred n b).wholeSave = t.wholeSave := by unfold Thread.setPred; split <;> rfl
@[simp] theorem Thread.setPred_begun (t : Thread) (n : Nat) (b : Bool) : (t.setPred n b).begun = t.begun := by unfold Thread.setPred; split <;> rfl
@[simp] theorem Thread.setPred_trapYield (t : Thread) (n : Nat) (b : Bool) : (t.setPred n b).trapYield = t.trapYield := by unfold Thread.setPred; split <;> rfl

/-! `write` -/

@[simp] theorem Thread.write_id (t : Thread) (d : Dest) : (t.write d).id = t.id := by cases d <;> simp [Thread.write]
@[simp] theorem Thread.write_ctx (t : Thread) (d : Dest) : (t.write d).ctx = t.ctx := by cases d <;> simp [Thread.write]
@[simp] theorem Thread.write_team (t : Thread) (d : Dest) : (t.write d).team = t.team := by cases d <;> simp [Thread.write]
@[simp] theorem Thread.write_kind (t : Thread) (d : Dest) : (t.write d).kind = t.kind := by cases d <;> simp [Thread.write]
@[simp] theorem Thread.write_col (t : Thread) (d : Dest) : (t.write d).col = t.col := by cases d <;> simp [Thread.write]
@[simp] theorem Thread.write_core (t : Thread) (d : Dest) : (t.write d).core = t.core := by cases d <;> simp [Thread.write]
@[simp] theorem Thread.write_lane (t : Thread) (d : Dest) : (t.write d).lane = t.lane := by cases d <;> simp [Thread.write]
@[simp] theorem Thread.write_slot (t : Thread) (d : Dest) : (t.write d).slot = t.slot := by cases d <;> simp [Thread.write]
@[simp] theorem Thread.write_allot (t : Thread) (d : Dest) : (t.write d).allot = t.allot := by cases d <;> simp [Thread.write]
@[simp] theorem Thread.write_pc (t : Thread) (d : Dest) : (t.write d).pc = t.pc := by cases d <;> simp [Thread.write]
@[simp] theorem Thread.write_head (t : Thread) (d : Dest) : (t.write d).head = t.head := by cases d <;> simp [Thread.write]
@[simp] theorem Thread.write_entering (t : Thread) (d : Dest) : (t.write d).entering = t.entering := by cases d <;> simp [Thread.write]
@[simp] theorem Thread.write_stack (t : Thread) (d : Dest) : (t.write d).stack = t.stack := by cases d <;> simp [Thread.write]
@[simp] theorem Thread.write_spills (t : Thread) (d : Dest) : (t.write d).spills = t.spills := by cases d <;> simp [Thread.write]
@[simp] theorem Thread.write_window (t : Thread) (d : Dest) : (t.write d).window = t.window := by cases d <;> simp [Thread.write]
@[simp] theorem Thread.write_spillSize (t : Thread) (d : Dest) : (t.write d).spillSize = t.spillSize := by cases d <;> simp [Thread.write]
@[simp] theorem Thread.write_tid (t : Thread) (d : Dest) : (t.write d).tid = t.tid := by cases d <;> simp [Thread.write]
@[simp] theorem Thread.write_tx (t : Thread) (d : Dest) : (t.write d).tx = t.tx := by cases d <;> simp [Thread.write]
@[simp] theorem Thread.write_ty (t : Thread) (d : Dest) : (t.write d).ty = t.ty := by cases d <;> simp [Thread.write]
@[simp] theorem Thread.write_tz (t : Thread) (d : Dest) : (t.write d).tz = t.tz := by cases d <;> simp [Thread.write]
@[simp] theorem Thread.write_quad (t : Thread) (d : Dest) : (t.write d).quad = t.quad := by cases d <;> simp [Thread.write]
@[simp] theorem Thread.write_quadId (t : Thread) (d : Dest) : (t.write d).quadId = t.quadId := by cases d <;> simp [Thread.write]
@[simp] theorem Thread.write_helper (t : Thread) (d : Dest) : (t.write d).helper = t.helper := by cases d <;> simp [Thread.write]
@[simp] theorem Thread.write_px (t : Thread) (d : Dest) : (t.write d).px = t.px := by cases d <;> simp [Thread.write]
@[simp] theorem Thread.write_py (t : Thread) (d : Dest) : (t.write d).py = t.py := by cases d <;> simp [Thread.write]
@[simp] theorem Thread.write_prim (t : Thread) (d : Dest) : (t.write d).prim = t.prim := by cases d <;> simp [Thread.write]
@[simp] theorem Thread.write_seq (t : Thread) (d : Dest) : (t.write d).seq = t.seq := by cases d <;> simp [Thread.write]
@[simp] theorem Thread.write_nbin (t : Thread) (d : Dest) : (t.write d).nbin = t.nbin := by cases d <;> simp [Thread.write]
@[simp] theorem Thread.write_item (t : Thread) (d : Dest) : (t.write d).item = t.item := by cases d <;> simp [Thread.write]
@[simp] theorem Thread.write_trapPc (t : Thread) (d : Dest) : (t.write d).trapPc = t.trapPc := by cases d <;> simp [Thread.write]
@[simp] theorem Thread.write_trapHead (t : Thread) (d : Dest) : (t.write d).trapHead = t.trapHead := by cases d <;> simp [Thread.write]
@[simp] theorem Thread.write_trapAddr (t : Thread) (d : Dest) : (t.write d).trapAddr = t.trapAddr := by cases d <;> simp [Thread.write]
@[simp] theorem Thread.write_trapInfo (t : Thread) (d : Dest) : (t.write d).trapInfo = t.trapInfo := by cases d <;> simp [Thread.write]
@[simp] theorem Thread.write_inHandler (t : Thread) (d : Dest) : (t.write d).inHandler = t.inHandler := by cases d <;> simp [Thread.write]
@[simp] theorem Thread.write_trap (t : Thread) (d : Dest) : (t.write d).trap = t.trap := by cases d <;> simp [Thread.write]
@[simp] theorem Thread.write_pending (t : Thread) (d : Dest) : (t.write d).pending = t.pending := by cases d <;> simp [Thread.write]
@[simp] theorem Thread.write_hold (t : Thread) (d : Dest) : (t.write d).hold = t.hold := by cases d <;> simp [Thread.write]
@[simp] theorem Thread.write_flights (t : Thread) (d : Dest) : (t.write d).flights = t.flights := by cases d <;> simp [Thread.write]
@[simp] theorem Thread.write_nextIssue (t : Thread) (d : Dest) : (t.write d).nextIssue = t.nextIssue := by cases d <;> simp [Thread.write]
@[simp] theorem Thread.write_readySince (t : Thread) (d : Dest) : (t.write d).readySince = t.readySince := by cases d <;> simp [Thread.write]
@[simp] theorem Thread.write_yieldMark (t : Thread) (d : Dest) : (t.write d).yieldMark = t.yieldMark := by cases d <;> simp [Thread.write]
@[simp] theorem Thread.write_yieldIn (t : Thread) (d : Dest) : (t.write d).yieldIn = t.yieldIn := by cases d <;> simp [Thread.write]
@[simp] theorem Thread.write_block (t : Thread) (d : Dest) : (t.write d).block = t.block := by cases d <;> simp [Thread.write]
@[simp] theorem Thread.write_mask (t : Thread) (d : Dest) : (t.write d).mask = t.mask := by cases d <;> simp [Thread.write]
@[simp] theorem Thread.write_group (t : Thread) (d : Dest) : (t.write d).group = t.group := by cases d <;> simp [Thread.write]
@[simp] theorem Thread.write_aborts (t : Thread) (d : Dest) : (t.write d).aborts = t.aborts := by cases d <;> simp [Thread.write]
@[simp] theorem Thread.write_abortAt (t : Thread) (d : Dest) : (t.write d).abortAt = t.abortAt := by cases d <;> simp [Thread.write]
@[simp] theorem Thread.write_ticket (t : Thread) (d : Dest) : (t.write d).ticket = t.ticket := by cases d <;> simp [Thread.write]
@[simp] theorem Thread.write_ordered (t : Thread) (d : Dest) : (t.write d).ordered = t.ordered := by cases d <;> simp [Thread.write]
@[simp] theorem Thread.write_parked (t : Thread) (d : Dest) : (t.write d).parked = t.parked := by cases d <;> simp [Thread.write]
@[simp] theorem Thread.write_wholeSave (t : Thread) (d : Dest) : (t.write d).wholeSave = t.wholeSave := by cases d <;> simp [Thread.write]
@[simp] theorem Thread.write_begun (t : Thread) (d : Dest) : (t.write d).begun = t.begun := by cases d <;> simp [Thread.write]
@[simp] theorem Thread.write_trapYield (t : Thread) (d : Dest) : (t.write d).trapYield = t.trapYield := by cases d <;> simp [Thread.write]

/-! `launch` -/

@[simp] theorem Thread.launch_id (t : Thread) (n l : Nat) (ds : List Dest) : (t.launch n l ds).id = t.id := rfl
@[simp] theorem Thread.launch_ctx (t : Thread) (n l : Nat) (ds : List Dest) : (t.launch n l ds).ctx = t.ctx := rfl
@[simp] theorem Thread.launch_team (t : Thread) (n l : Nat) (ds : List Dest) : (t.launch n l ds).team = t.team := rfl
@[simp] theorem Thread.launch_kind (t : Thread) (n l : Nat) (ds : List Dest) : (t.launch n l ds).kind = t.kind := rfl
@[simp] theorem Thread.launch_col (t : Thread) (n l : Nat) (ds : List Dest) : (t.launch n l ds).col = t.col := rfl
@[simp] theorem Thread.launch_core (t : Thread) (n l : Nat) (ds : List Dest) : (t.launch n l ds).core = t.core := rfl
@[simp] theorem Thread.launch_lane (t : Thread) (n l : Nat) (ds : List Dest) : (t.launch n l ds).lane = t.lane := rfl
@[simp] theorem Thread.launch_slot (t : Thread) (n l : Nat) (ds : List Dest) : (t.launch n l ds).slot = t.slot := rfl
@[simp] theorem Thread.launch_regs (t : Thread) (n l : Nat) (ds : List Dest) : (t.launch n l ds).regs = t.regs := rfl
@[simp] theorem Thread.launch_allot (t : Thread) (n l : Nat) (ds : List Dest) : (t.launch n l ds).allot = t.allot := rfl
@[simp] theorem Thread.launch_preds (t : Thread) (n l : Nat) (ds : List Dest) : (t.launch n l ds).preds = t.preds := rfl
@[simp] theorem Thread.launch_pc (t : Thread) (n l : Nat) (ds : List Dest) : (t.launch n l ds).pc = t.pc := rfl
@[simp] theorem Thread.launch_head (t : Thread) (n l : Nat) (ds : List Dest) : (t.launch n l ds).head = t.head := rfl
@[simp] theorem Thread.launch_entering (t : Thread) (n l : Nat) (ds : List Dest) : (t.launch n l ds).entering = t.entering := rfl
@[simp] theorem Thread.launch_stack (t : Thread) (n l : Nat) (ds : List Dest) : (t.launch n l ds).stack = t.stack := rfl
@[simp] theorem Thread.launch_spills (t : Thread) (n l : Nat) (ds : List Dest) : (t.launch n l ds).spills = t.spills := rfl
@[simp] theorem Thread.launch_window (t : Thread) (n l : Nat) (ds : List Dest) : (t.launch n l ds).window = t.window := rfl
@[simp] theorem Thread.launch_spillSize (t : Thread) (n l : Nat) (ds : List Dest) : (t.launch n l ds).spillSize = t.spillSize := rfl
@[simp] theorem Thread.launch_tid (t : Thread) (n l : Nat) (ds : List Dest) : (t.launch n l ds).tid = t.tid := rfl
@[simp] theorem Thread.launch_tx (t : Thread) (n l : Nat) (ds : List Dest) : (t.launch n l ds).tx = t.tx := rfl
@[simp] theorem Thread.launch_ty (t : Thread) (n l : Nat) (ds : List Dest) : (t.launch n l ds).ty = t.ty := rfl
@[simp] theorem Thread.launch_tz (t : Thread) (n l : Nat) (ds : List Dest) : (t.launch n l ds).tz = t.tz := rfl
@[simp] theorem Thread.launch_quad (t : Thread) (n l : Nat) (ds : List Dest) : (t.launch n l ds).quad = t.quad := rfl
@[simp] theorem Thread.launch_quadId (t : Thread) (n l : Nat) (ds : List Dest) : (t.launch n l ds).quadId = t.quadId := rfl
@[simp] theorem Thread.launch_helper (t : Thread) (n l : Nat) (ds : List Dest) : (t.launch n l ds).helper = t.helper := rfl
@[simp] theorem Thread.launch_px (t : Thread) (n l : Nat) (ds : List Dest) : (t.launch n l ds).px = t.px := rfl
@[simp] theorem Thread.launch_py (t : Thread) (n l : Nat) (ds : List Dest) : (t.launch n l ds).py = t.py := rfl
@[simp] theorem Thread.launch_prim (t : Thread) (n l : Nat) (ds : List Dest) : (t.launch n l ds).prim = t.prim := rfl
@[simp] theorem Thread.launch_seq (t : Thread) (n l : Nat) (ds : List Dest) : (t.launch n l ds).seq = t.seq := rfl
@[simp] theorem Thread.launch_nbin (t : Thread) (n l : Nat) (ds : List Dest) : (t.launch n l ds).nbin = t.nbin := rfl
@[simp] theorem Thread.launch_item (t : Thread) (n l : Nat) (ds : List Dest) : (t.launch n l ds).item = t.item := rfl
@[simp] theorem Thread.launch_trapPc (t : Thread) (n l : Nat) (ds : List Dest) : (t.launch n l ds).trapPc = t.trapPc := rfl
@[simp] theorem Thread.launch_trapHead (t : Thread) (n l : Nat) (ds : List Dest) : (t.launch n l ds).trapHead = t.trapHead := rfl
@[simp] theorem Thread.launch_trapAddr (t : Thread) (n l : Nat) (ds : List Dest) : (t.launch n l ds).trapAddr = t.trapAddr := rfl
@[simp] theorem Thread.launch_trapInfo (t : Thread) (n l : Nat) (ds : List Dest) : (t.launch n l ds).trapInfo = t.trapInfo := rfl
@[simp] theorem Thread.launch_inHandler (t : Thread) (n l : Nat) (ds : List Dest) : (t.launch n l ds).inHandler = t.inHandler := rfl
@[simp] theorem Thread.launch_trap (t : Thread) (n l : Nat) (ds : List Dest) : (t.launch n l ds).trap = t.trap := rfl
@[simp] theorem Thread.launch_pending (t : Thread) (n l : Nat) (ds : List Dest) : (t.launch n l ds).pending = t.pending := rfl
@[simp] theorem Thread.launch_hold (t : Thread) (n l : Nat) (ds : List Dest) : (t.launch n l ds).hold = t.hold := rfl
@[simp] theorem Thread.launch_nextIssue (t : Thread) (n l : Nat) (ds : List Dest) : (t.launch n l ds).nextIssue = t.nextIssue := rfl
@[simp] theorem Thread.launch_readySince (t : Thread) (n l : Nat) (ds : List Dest) : (t.launch n l ds).readySince = t.readySince := rfl
@[simp] theorem Thread.launch_yieldMark (t : Thread) (n l : Nat) (ds : List Dest) : (t.launch n l ds).yieldMark = t.yieldMark := rfl
@[simp] theorem Thread.launch_yieldIn (t : Thread) (n l : Nat) (ds : List Dest) : (t.launch n l ds).yieldIn = t.yieldIn := rfl
@[simp] theorem Thread.launch_block (t : Thread) (n l : Nat) (ds : List Dest) : (t.launch n l ds).block = t.block := rfl
@[simp] theorem Thread.launch_mask (t : Thread) (n l : Nat) (ds : List Dest) : (t.launch n l ds).mask = t.mask := rfl
@[simp] theorem Thread.launch_poisoned (t : Thread) (n l : Nat) (ds : List Dest) : (t.launch n l ds).poisoned = t.poisoned := rfl
@[simp] theorem Thread.launch_group (t : Thread) (n l : Nat) (ds : List Dest) : (t.launch n l ds).group = t.group := rfl
@[simp] theorem Thread.launch_aborts (t : Thread) (n l : Nat) (ds : List Dest) : (t.launch n l ds).aborts = t.aborts := rfl
@[simp] theorem Thread.launch_abortAt (t : Thread) (n l : Nat) (ds : List Dest) : (t.launch n l ds).abortAt = t.abortAt := rfl
@[simp] theorem Thread.launch_ticket (t : Thread) (n l : Nat) (ds : List Dest) : (t.launch n l ds).ticket = t.ticket := rfl
@[simp] theorem Thread.launch_ordered (t : Thread) (n l : Nat) (ds : List Dest) : (t.launch n l ds).ordered = t.ordered := rfl
@[simp] theorem Thread.launch_parked (t : Thread) (n l : Nat) (ds : List Dest) : (t.launch n l ds).parked = t.parked := rfl
@[simp] theorem Thread.launch_wholeSave (t : Thread) (n l : Nat) (ds : List Dest) : (t.launch n l ds).wholeSave = t.wholeSave := rfl
@[simp] theorem Thread.launch_begun (t : Thread) (n l : Nat) (ds : List Dest) : (t.launch n l ds).begun = t.begun := rfl
@[simp] theorem Thread.launch_trapYield (t : Thread) (n l : Nat) (ds : List Dest) : (t.launch n l ds).trapYield = t.trapYield := rfl

/-! `advance` -/

@[simp] theorem Thread.advance_id (t : Thread) (c : Issue) (h : Head) (n : Nat) : (t.advance c h n).id = t.id := rfl
@[simp] theorem Thread.advance_ctx (t : Thread) (c : Issue) (h : Head) (n : Nat) : (t.advance c h n).ctx = t.ctx := rfl
@[simp] theorem Thread.advance_team (t : Thread) (c : Issue) (h : Head) (n : Nat) : (t.advance c h n).team = t.team := rfl
@[simp] theorem Thread.advance_kind (t : Thread) (c : Issue) (h : Head) (n : Nat) : (t.advance c h n).kind = t.kind := rfl
@[simp] theorem Thread.advance_col (t : Thread) (c : Issue) (h : Head) (n : Nat) : (t.advance c h n).col = t.col := rfl
@[simp] theorem Thread.advance_core (t : Thread) (c : Issue) (h : Head) (n : Nat) : (t.advance c h n).core = t.core := rfl
@[simp] theorem Thread.advance_lane (t : Thread) (c : Issue) (h : Head) (n : Nat) : (t.advance c h n).lane = t.lane := rfl
@[simp] theorem Thread.advance_slot (t : Thread) (c : Issue) (h : Head) (n : Nat) : (t.advance c h n).slot = t.slot := rfl
@[simp] theorem Thread.advance_regs (t : Thread) (c : Issue) (h : Head) (n : Nat) : (t.advance c h n).regs = t.regs := rfl
@[simp] theorem Thread.advance_allot (t : Thread) (c : Issue) (h : Head) (n : Nat) : (t.advance c h n).allot = t.allot := rfl
@[simp] theorem Thread.advance_preds (t : Thread) (c : Issue) (h : Head) (n : Nat) : (t.advance c h n).preds = t.preds := rfl
@[simp] theorem Thread.advance_stack (t : Thread) (c : Issue) (h : Head) (n : Nat) : (t.advance c h n).stack = t.stack := rfl
@[simp] theorem Thread.advance_spills (t : Thread) (c : Issue) (h : Head) (n : Nat) : (t.advance c h n).spills = t.spills := rfl
@[simp] theorem Thread.advance_window (t : Thread) (c : Issue) (h : Head) (n : Nat) : (t.advance c h n).window = t.window := rfl
@[simp] theorem Thread.advance_spillSize (t : Thread) (c : Issue) (h : Head) (n : Nat) : (t.advance c h n).spillSize = t.spillSize := rfl
@[simp] theorem Thread.advance_tid (t : Thread) (c : Issue) (h : Head) (n : Nat) : (t.advance c h n).tid = t.tid := rfl
@[simp] theorem Thread.advance_tx (t : Thread) (c : Issue) (h : Head) (n : Nat) : (t.advance c h n).tx = t.tx := rfl
@[simp] theorem Thread.advance_ty (t : Thread) (c : Issue) (h : Head) (n : Nat) : (t.advance c h n).ty = t.ty := rfl
@[simp] theorem Thread.advance_tz (t : Thread) (c : Issue) (h : Head) (n : Nat) : (t.advance c h n).tz = t.tz := rfl
@[simp] theorem Thread.advance_quad (t : Thread) (c : Issue) (h : Head) (n : Nat) : (t.advance c h n).quad = t.quad := rfl
@[simp] theorem Thread.advance_quadId (t : Thread) (c : Issue) (h : Head) (n : Nat) : (t.advance c h n).quadId = t.quadId := rfl
@[simp] theorem Thread.advance_helper (t : Thread) (c : Issue) (h : Head) (n : Nat) : (t.advance c h n).helper = t.helper := rfl
@[simp] theorem Thread.advance_px (t : Thread) (c : Issue) (h : Head) (n : Nat) : (t.advance c h n).px = t.px := rfl
@[simp] theorem Thread.advance_py (t : Thread) (c : Issue) (h : Head) (n : Nat) : (t.advance c h n).py = t.py := rfl
@[simp] theorem Thread.advance_prim (t : Thread) (c : Issue) (h : Head) (n : Nat) : (t.advance c h n).prim = t.prim := rfl
@[simp] theorem Thread.advance_seq (t : Thread) (c : Issue) (h : Head) (n : Nat) : (t.advance c h n).seq = t.seq := rfl
@[simp] theorem Thread.advance_nbin (t : Thread) (c : Issue) (h : Head) (n : Nat) : (t.advance c h n).nbin = t.nbin := rfl
@[simp] theorem Thread.advance_item (t : Thread) (c : Issue) (h : Head) (n : Nat) : (t.advance c h n).item = t.item := rfl
@[simp] theorem Thread.advance_trapPc (t : Thread) (c : Issue) (h : Head) (n : Nat) : (t.advance c h n).trapPc = t.trapPc := rfl
@[simp] theorem Thread.advance_trapHead (t : Thread) (c : Issue) (h : Head) (n : Nat) : (t.advance c h n).trapHead = t.trapHead := rfl
@[simp] theorem Thread.advance_trapAddr (t : Thread) (c : Issue) (h : Head) (n : Nat) : (t.advance c h n).trapAddr = t.trapAddr := rfl
@[simp] theorem Thread.advance_trapInfo (t : Thread) (c : Issue) (h : Head) (n : Nat) : (t.advance c h n).trapInfo = t.trapInfo := rfl
@[simp] theorem Thread.advance_inHandler (t : Thread) (c : Issue) (h : Head) (n : Nat) : (t.advance c h n).inHandler = t.inHandler := rfl
@[simp] theorem Thread.advance_trap (t : Thread) (c : Issue) (h : Head) (n : Nat) : (t.advance c h n).trap = t.trap := rfl
@[simp] theorem Thread.advance_pending (t : Thread) (c : Issue) (h : Head) (n : Nat) : (t.advance c h n).pending = t.pending := rfl
@[simp] theorem Thread.advance_hold (t : Thread) (c : Issue) (h : Head) (n : Nat) : (t.advance c h n).hold = t.hold := rfl
@[simp] theorem Thread.advance_flights (t : Thread) (c : Issue) (h : Head) (n : Nat) : (t.advance c h n).flights = t.flights := rfl
@[simp] theorem Thread.advance_yieldMark (t : Thread) (c : Issue) (h : Head) (n : Nat) : (t.advance c h n).yieldMark = (t.yieldMark || t.endsMarked c h) := rfl
@[simp] theorem Thread.advance_poisoned (t : Thread) (c : Issue) (h : Head) (n : Nat) : (t.advance c h n).poisoned = t.poisoned := rfl
@[simp] theorem Thread.advance_aborts (t : Thread) (c : Issue) (h : Head) (n : Nat) : (t.advance c h n).aborts = t.aborts := rfl
@[simp] theorem Thread.advance_abortAt (t : Thread) (c : Issue) (h : Head) (n : Nat) : (t.advance c h n).abortAt = t.abortAt := rfl
@[simp] theorem Thread.advance_ticket (t : Thread) (c : Issue) (h : Head) (n : Nat) : (t.advance c h n).ticket = t.ticket := rfl
@[simp] theorem Thread.advance_ordered (t : Thread) (c : Issue) (h : Head) (n : Nat) : (t.advance c h n).ordered = t.ordered := rfl
@[simp] theorem Thread.advance_parked (t : Thread) (c : Issue) (h : Head) (n : Nat) : (t.advance c h n).parked = t.parked := rfl
@[simp] theorem Thread.advance_wholeSave (t : Thread) (c : Issue) (h : Head) (n : Nat) : (t.advance c h n).wholeSave = t.wholeSave := rfl
@[simp] theorem Thread.advance_begun (t : Thread) (c : Issue) (h : Head) (n : Nat) : (t.advance c h n).begun = t.begun := rfl
@[simp] theorem Thread.advance_trapYield (t : Thread) (c : Issue) (h : Head) (n : Nat) : (t.advance c h n).trapYield = t.trapYield := rfl

/-! `jump` -/

@[simp] theorem Thread.jump_id (t : Thread) (c : Issue) (h : Head) (n : Nat) (x : DWord) : (t.jump c h n x).id = t.id := by unfold Thread.jump; split <;> rfl
@[simp] theorem Thread.jump_ctx (t : Thread) (c : Issue) (h : Head) (n : Nat) (x : DWord) : (t.jump c h n x).ctx = t.ctx := by unfold Thread.jump; split <;> rfl
@[simp] theorem Thread.jump_team (t : Thread) (c : Issue) (h : Head) (n : Nat) (x : DWord) : (t.jump c h n x).team = t.team := by unfold Thread.jump; split <;> rfl
@[simp] theorem Thread.jump_kind (t : Thread) (c : Issue) (h : Head) (n : Nat) (x : DWord) : (t.jump c h n x).kind = t.kind := by unfold Thread.jump; split <;> rfl
@[simp] theorem Thread.jump_col (t : Thread) (c : Issue) (h : Head) (n : Nat) (x : DWord) : (t.jump c h n x).col = t.col := by unfold Thread.jump; split <;> rfl
@[simp] theorem Thread.jump_core (t : Thread) (c : Issue) (h : Head) (n : Nat) (x : DWord) : (t.jump c h n x).core = t.core := by unfold Thread.jump; split <;> rfl
@[simp] theorem Thread.jump_lane (t : Thread) (c : Issue) (h : Head) (n : Nat) (x : DWord) : (t.jump c h n x).lane = t.lane := by unfold Thread.jump; split <;> rfl
@[simp] theorem Thread.jump_slot (t : Thread) (c : Issue) (h : Head) (n : Nat) (x : DWord) : (t.jump c h n x).slot = t.slot := by unfold Thread.jump; split <;> rfl
@[simp] theorem Thread.jump_regs (t : Thread) (c : Issue) (h : Head) (n : Nat) (x : DWord) : (t.jump c h n x).regs = t.regs := by unfold Thread.jump; split <;> rfl
@[simp] theorem Thread.jump_allot (t : Thread) (c : Issue) (h : Head) (n : Nat) (x : DWord) : (t.jump c h n x).allot = t.allot := by unfold Thread.jump; split <;> rfl
@[simp] theorem Thread.jump_preds (t : Thread) (c : Issue) (h : Head) (n : Nat) (x : DWord) : (t.jump c h n x).preds = t.preds := by unfold Thread.jump; split <;> rfl
@[simp] theorem Thread.jump_stack (t : Thread) (c : Issue) (h : Head) (n : Nat) (x : DWord) : (t.jump c h n x).stack = t.stack := by unfold Thread.jump; split <;> rfl
@[simp] theorem Thread.jump_spills (t : Thread) (c : Issue) (h : Head) (n : Nat) (x : DWord) : (t.jump c h n x).spills = t.spills := by unfold Thread.jump; split <;> rfl
@[simp] theorem Thread.jump_window (t : Thread) (c : Issue) (h : Head) (n : Nat) (x : DWord) : (t.jump c h n x).window = t.window := by unfold Thread.jump; split <;> rfl
@[simp] theorem Thread.jump_spillSize (t : Thread) (c : Issue) (h : Head) (n : Nat) (x : DWord) : (t.jump c h n x).spillSize = t.spillSize := by unfold Thread.jump; split <;> rfl
@[simp] theorem Thread.jump_tid (t : Thread) (c : Issue) (h : Head) (n : Nat) (x : DWord) : (t.jump c h n x).tid = t.tid := by unfold Thread.jump; split <;> rfl
@[simp] theorem Thread.jump_tx (t : Thread) (c : Issue) (h : Head) (n : Nat) (x : DWord) : (t.jump c h n x).tx = t.tx := by unfold Thread.jump; split <;> rfl
@[simp] theorem Thread.jump_ty (t : Thread) (c : Issue) (h : Head) (n : Nat) (x : DWord) : (t.jump c h n x).ty = t.ty := by unfold Thread.jump; split <;> rfl
@[simp] theorem Thread.jump_tz (t : Thread) (c : Issue) (h : Head) (n : Nat) (x : DWord) : (t.jump c h n x).tz = t.tz := by unfold Thread.jump; split <;> rfl
@[simp] theorem Thread.jump_quad (t : Thread) (c : Issue) (h : Head) (n : Nat) (x : DWord) : (t.jump c h n x).quad = t.quad := by unfold Thread.jump; split <;> rfl
@[simp] theorem Thread.jump_quadId (t : Thread) (c : Issue) (h : Head) (n : Nat) (x : DWord) : (t.jump c h n x).quadId = t.quadId := by unfold Thread.jump; split <;> rfl
@[simp] theorem Thread.jump_helper (t : Thread) (c : Issue) (h : Head) (n : Nat) (x : DWord) : (t.jump c h n x).helper = t.helper := by unfold Thread.jump; split <;> rfl
@[simp] theorem Thread.jump_px (t : Thread) (c : Issue) (h : Head) (n : Nat) (x : DWord) : (t.jump c h n x).px = t.px := by unfold Thread.jump; split <;> rfl
@[simp] theorem Thread.jump_py (t : Thread) (c : Issue) (h : Head) (n : Nat) (x : DWord) : (t.jump c h n x).py = t.py := by unfold Thread.jump; split <;> rfl
@[simp] theorem Thread.jump_prim (t : Thread) (c : Issue) (h : Head) (n : Nat) (x : DWord) : (t.jump c h n x).prim = t.prim := by unfold Thread.jump; split <;> rfl
@[simp] theorem Thread.jump_seq (t : Thread) (c : Issue) (h : Head) (n : Nat) (x : DWord) : (t.jump c h n x).seq = t.seq := by unfold Thread.jump; split <;> rfl
@[simp] theorem Thread.jump_nbin (t : Thread) (c : Issue) (h : Head) (n : Nat) (x : DWord) : (t.jump c h n x).nbin = t.nbin := by unfold Thread.jump; split <;> rfl
@[simp] theorem Thread.jump_item (t : Thread) (c : Issue) (h : Head) (n : Nat) (x : DWord) : (t.jump c h n x).item = t.item := by unfold Thread.jump; split <;> rfl
@[simp] theorem Thread.jump_trapPc (t : Thread) (c : Issue) (h : Head) (n : Nat) (x : DWord) : (t.jump c h n x).trapPc = t.trapPc := by unfold Thread.jump; split <;> rfl
@[simp] theorem Thread.jump_trapHead (t : Thread) (c : Issue) (h : Head) (n : Nat) (x : DWord) : (t.jump c h n x).trapHead = t.trapHead := by unfold Thread.jump; split <;> rfl
@[simp] theorem Thread.jump_trapAddr (t : Thread) (c : Issue) (h : Head) (n : Nat) (x : DWord) : (t.jump c h n x).trapAddr = t.trapAddr := by unfold Thread.jump; split <;> rfl
@[simp] theorem Thread.jump_trapInfo (t : Thread) (c : Issue) (h : Head) (n : Nat) (x : DWord) : (t.jump c h n x).trapInfo = t.trapInfo := by unfold Thread.jump; split <;> rfl
@[simp] theorem Thread.jump_inHandler (t : Thread) (c : Issue) (h : Head) (n : Nat) (x : DWord) : (t.jump c h n x).inHandler = t.inHandler := by unfold Thread.jump; split <;> rfl
@[simp] theorem Thread.jump_trap (t : Thread) (c : Issue) (h : Head) (n : Nat) (x : DWord) : (t.jump c h n x).trap = t.trap := by unfold Thread.jump; split <;> rfl
@[simp] theorem Thread.jump_pending (t : Thread) (c : Issue) (h : Head) (n : Nat) (x : DWord) : (t.jump c h n x).pending = t.pending := by unfold Thread.jump; split <;> rfl
@[simp] theorem Thread.jump_hold (t : Thread) (c : Issue) (h : Head) (n : Nat) (x : DWord) : (t.jump c h n x).hold = t.hold := by unfold Thread.jump; split <;> rfl
@[simp] theorem Thread.jump_flights (t : Thread) (c : Issue) (h : Head) (n : Nat) (x : DWord) : (t.jump c h n x).flights = t.flights := by unfold Thread.jump; split <;> rfl
@[simp] theorem Thread.jump_yieldMark (t : Thread) (c : Issue) (h : Head) (n : Nat) (x : DWord) : (t.jump c h n x).yieldMark = (t.yieldMark || t.endsMarked c h) := by unfold Thread.jump; split <;> rfl
@[simp] theorem Thread.jump_poisoned (t : Thread) (c : Issue) (h : Head) (n : Nat) (x : DWord) : (t.jump c h n x).poisoned = t.poisoned := by unfold Thread.jump; split <;> rfl
@[simp] theorem Thread.jump_aborts (t : Thread) (c : Issue) (h : Head) (n : Nat) (x : DWord) : (t.jump c h n x).aborts = t.aborts := by unfold Thread.jump; split <;> rfl
@[simp] theorem Thread.jump_abortAt (t : Thread) (c : Issue) (h : Head) (n : Nat) (x : DWord) : (t.jump c h n x).abortAt = t.abortAt := by unfold Thread.jump; split <;> rfl
@[simp] theorem Thread.jump_ticket (t : Thread) (c : Issue) (h : Head) (n : Nat) (x : DWord) : (t.jump c h n x).ticket = t.ticket := by unfold Thread.jump; split <;> rfl
@[simp] theorem Thread.jump_ordered (t : Thread) (c : Issue) (h : Head) (n : Nat) (x : DWord) : (t.jump c h n x).ordered = t.ordered := by unfold Thread.jump; split <;> rfl
@[simp] theorem Thread.jump_parked (t : Thread) (c : Issue) (h : Head) (n : Nat) (x : DWord) : (t.jump c h n x).parked = t.parked := by unfold Thread.jump; split <;> rfl
@[simp] theorem Thread.jump_wholeSave (t : Thread) (c : Issue) (h : Head) (n : Nat) (x : DWord) : (t.jump c h n x).wholeSave = t.wholeSave := by unfold Thread.jump; split <;> rfl
@[simp] theorem Thread.jump_begun (t : Thread) (c : Issue) (h : Head) (n : Nat) (x : DWord) : (t.jump c h n x).begun = t.begun := by unfold Thread.jump; split <;> rfl
@[simp] theorem Thread.jump_trapYield (t : Thread) (c : Issue) (h : Head) (n : Nat) (x : DWord) : (t.jump c h n x).trapYield = t.trapYield := by unfold Thread.jump; split <;> rfl

/-! `wait` -/

@[simp] theorem Thread.wait_id (t : Thread) (c : Issue) (h : Head) (n : Nat) (w : Wait) : (t.wait c h n w).id = t.id := rfl
@[simp] theorem Thread.wait_ctx (t : Thread) (c : Issue) (h : Head) (n : Nat) (w : Wait) : (t.wait c h n w).ctx = t.ctx := rfl
@[simp] theorem Thread.wait_team (t : Thread) (c : Issue) (h : Head) (n : Nat) (w : Wait) : (t.wait c h n w).team = t.team := rfl
@[simp] theorem Thread.wait_kind (t : Thread) (c : Issue) (h : Head) (n : Nat) (w : Wait) : (t.wait c h n w).kind = t.kind := rfl
@[simp] theorem Thread.wait_col (t : Thread) (c : Issue) (h : Head) (n : Nat) (w : Wait) : (t.wait c h n w).col = t.col := rfl
@[simp] theorem Thread.wait_core (t : Thread) (c : Issue) (h : Head) (n : Nat) (w : Wait) : (t.wait c h n w).core = t.core := rfl
@[simp] theorem Thread.wait_lane (t : Thread) (c : Issue) (h : Head) (n : Nat) (w : Wait) : (t.wait c h n w).lane = t.lane := rfl
@[simp] theorem Thread.wait_slot (t : Thread) (c : Issue) (h : Head) (n : Nat) (w : Wait) : (t.wait c h n w).slot = t.slot := rfl
@[simp] theorem Thread.wait_regs (t : Thread) (c : Issue) (h : Head) (n : Nat) (w : Wait) : (t.wait c h n w).regs = t.regs := rfl
@[simp] theorem Thread.wait_allot (t : Thread) (c : Issue) (h : Head) (n : Nat) (w : Wait) : (t.wait c h n w).allot = t.allot := rfl
@[simp] theorem Thread.wait_preds (t : Thread) (c : Issue) (h : Head) (n : Nat) (w : Wait) : (t.wait c h n w).preds = t.preds := rfl
@[simp] theorem Thread.wait_stack (t : Thread) (c : Issue) (h : Head) (n : Nat) (w : Wait) : (t.wait c h n w).stack = t.stack := rfl
@[simp] theorem Thread.wait_spills (t : Thread) (c : Issue) (h : Head) (n : Nat) (w : Wait) : (t.wait c h n w).spills = t.spills := rfl
@[simp] theorem Thread.wait_window (t : Thread) (c : Issue) (h : Head) (n : Nat) (w : Wait) : (t.wait c h n w).window = t.window := rfl
@[simp] theorem Thread.wait_spillSize (t : Thread) (c : Issue) (h : Head) (n : Nat) (w : Wait) : (t.wait c h n w).spillSize = t.spillSize := rfl
@[simp] theorem Thread.wait_tid (t : Thread) (c : Issue) (h : Head) (n : Nat) (w : Wait) : (t.wait c h n w).tid = t.tid := rfl
@[simp] theorem Thread.wait_tx (t : Thread) (c : Issue) (h : Head) (n : Nat) (w : Wait) : (t.wait c h n w).tx = t.tx := rfl
@[simp] theorem Thread.wait_ty (t : Thread) (c : Issue) (h : Head) (n : Nat) (w : Wait) : (t.wait c h n w).ty = t.ty := rfl
@[simp] theorem Thread.wait_tz (t : Thread) (c : Issue) (h : Head) (n : Nat) (w : Wait) : (t.wait c h n w).tz = t.tz := rfl
@[simp] theorem Thread.wait_quad (t : Thread) (c : Issue) (h : Head) (n : Nat) (w : Wait) : (t.wait c h n w).quad = t.quad := rfl
@[simp] theorem Thread.wait_quadId (t : Thread) (c : Issue) (h : Head) (n : Nat) (w : Wait) : (t.wait c h n w).quadId = t.quadId := rfl
@[simp] theorem Thread.wait_helper (t : Thread) (c : Issue) (h : Head) (n : Nat) (w : Wait) : (t.wait c h n w).helper = t.helper := rfl
@[simp] theorem Thread.wait_px (t : Thread) (c : Issue) (h : Head) (n : Nat) (w : Wait) : (t.wait c h n w).px = t.px := rfl
@[simp] theorem Thread.wait_py (t : Thread) (c : Issue) (h : Head) (n : Nat) (w : Wait) : (t.wait c h n w).py = t.py := rfl
@[simp] theorem Thread.wait_prim (t : Thread) (c : Issue) (h : Head) (n : Nat) (w : Wait) : (t.wait c h n w).prim = t.prim := rfl
@[simp] theorem Thread.wait_seq (t : Thread) (c : Issue) (h : Head) (n : Nat) (w : Wait) : (t.wait c h n w).seq = t.seq := rfl
@[simp] theorem Thread.wait_nbin (t : Thread) (c : Issue) (h : Head) (n : Nat) (w : Wait) : (t.wait c h n w).nbin = t.nbin := rfl
@[simp] theorem Thread.wait_item (t : Thread) (c : Issue) (h : Head) (n : Nat) (w : Wait) : (t.wait c h n w).item = t.item := rfl
@[simp] theorem Thread.wait_trapPc (t : Thread) (c : Issue) (h : Head) (n : Nat) (w : Wait) : (t.wait c h n w).trapPc = t.trapPc := rfl
@[simp] theorem Thread.wait_trapHead (t : Thread) (c : Issue) (h : Head) (n : Nat) (w : Wait) : (t.wait c h n w).trapHead = t.trapHead := rfl
@[simp] theorem Thread.wait_trapAddr (t : Thread) (c : Issue) (h : Head) (n : Nat) (w : Wait) : (t.wait c h n w).trapAddr = t.trapAddr := rfl
@[simp] theorem Thread.wait_trapInfo (t : Thread) (c : Issue) (h : Head) (n : Nat) (w : Wait) : (t.wait c h n w).trapInfo = t.trapInfo := rfl
@[simp] theorem Thread.wait_inHandler (t : Thread) (c : Issue) (h : Head) (n : Nat) (w : Wait) : (t.wait c h n w).inHandler = t.inHandler := rfl
@[simp] theorem Thread.wait_trap (t : Thread) (c : Issue) (h : Head) (n : Nat) (w : Wait) : (t.wait c h n w).trap = t.trap := rfl
@[simp] theorem Thread.wait_pending (t : Thread) (c : Issue) (h : Head) (n : Nat) (w : Wait) : (t.wait c h n w).pending = t.pending := rfl
@[simp] theorem Thread.wait_hold (t : Thread) (c : Issue) (h : Head) (n : Nat) (w : Wait) : (t.wait c h n w).hold = t.hold := rfl
@[simp] theorem Thread.wait_flights (t : Thread) (c : Issue) (h : Head) (n : Nat) (w : Wait) : (t.wait c h n w).flights = t.flights := rfl
@[simp] theorem Thread.wait_readySince (t : Thread) (c : Issue) (h : Head) (n : Nat) (w : Wait) : (t.wait c h n w).readySince = t.readySince := rfl
@[simp] theorem Thread.wait_yieldMark (t : Thread) (c : Issue) (h : Head) (n : Nat) (w : Wait) : (t.wait c h n w).yieldMark = (t.yieldMark || t.endsMarked c h) := rfl
@[simp] theorem Thread.wait_poisoned (t : Thread) (c : Issue) (h : Head) (n : Nat) (w : Wait) : (t.wait c h n w).poisoned = t.poisoned := rfl
@[simp] theorem Thread.wait_group (t : Thread) (c : Issue) (h : Head) (n : Nat) (w : Wait) : (t.wait c h n w).group = t.group := rfl
@[simp] theorem Thread.wait_aborts (t : Thread) (c : Issue) (h : Head) (n : Nat) (w : Wait) : (t.wait c h n w).aborts = t.aborts := rfl
@[simp] theorem Thread.wait_abortAt (t : Thread) (c : Issue) (h : Head) (n : Nat) (w : Wait) : (t.wait c h n w).abortAt = t.abortAt := rfl
@[simp] theorem Thread.wait_ticket (t : Thread) (c : Issue) (h : Head) (n : Nat) (w : Wait) : (t.wait c h n w).ticket = t.ticket := rfl
@[simp] theorem Thread.wait_ordered (t : Thread) (c : Issue) (h : Head) (n : Nat) (w : Wait) : (t.wait c h n w).ordered = t.ordered := rfl
@[simp] theorem Thread.wait_parked (t : Thread) (c : Issue) (h : Head) (n : Nat) (w : Wait) : (t.wait c h n w).parked = t.parked := rfl
@[simp] theorem Thread.wait_wholeSave (t : Thread) (c : Issue) (h : Head) (n : Nat) (w : Wait) : (t.wait c h n w).wholeSave = t.wholeSave := rfl
@[simp] theorem Thread.wait_begun (t : Thread) (c : Issue) (h : Head) (n : Nat) (w : Wait) : (t.wait c h n w).begun = t.begun := rfl
@[simp] theorem Thread.wait_trapYield (t : Thread) (c : Issue) (h : Head) (n : Nat) (w : Wait) : (t.wait c h n w).trapYield = t.trapYield := rfl

end Sys2Proof.Machine
end

