-- ==== Sys2Proof/Laws/Ops.lean ====
section
/-! SUPPORT. What the shared operations can do: results that land, a trap that is taken, an operation that goes in flight, and the
outcomes of an issue (R66, R70, R124, R164, R375). -/

namespace Sys2Proof.Machine

/-! ## Results in flight -/

theorem Thread.write_keeps (t : Thread) (d : Dest) : t.Keeps (t.write d) := by
  constructor <;> simp

/-- Writing results that are ready leaves everything but registers, predicates and flights. -/
theorem Thread.settle_keeps (t : Thread) (n : Nat) : t.Keeps (t.settle n) := by
  have go : ∀ (fs : List Flight) (u : Thread), t.Keeps u → t.Keeps (fs.foldl (fun t f => t.write f.dest) u) := by
    intro fs
    induction fs with
    | nil => exact fun _ h => h
    | cons f r ih =>
      intro u h
      refine ih _ ?_
      obtain ⟨h1, h2, h3, h4, h5⟩ := h
      constructor <;> simp_all
  exact go _ _ ⟨rfl, rfl, rfl, rfl, rfl⟩

/-- Going on at the next word leaves registers and predicates, and everything else of the thread but its place. -/
theorem Thread.advance_keeps (t : Thread) (c : Issue) (h : Head) (n : Nat) : t.Keeps (t.advance c h n) := by
  constructor <;> simp

/-- A flight in the list after an insertion is the one put in, or one that was there. -/
theorem mem_insertFlight {f g : Flight} {fs : List Flight} : g ∈ insertFlight f fs ↔ g = f ∨ g ∈ fs := by
  induction fs with
  | nil => simp [insertFlight]
  | cons x r ih =>
    unfold insertFlight
    split
    · rw [List.mem_cons, ih, List.mem_cons]; tauto
    · simp

/-! ## Threads of a state -/

/-- The thread that was replaced is found as its new record. -/
theorem State.thread?_setThread {s : State} {t u : Thread} (h : s.thread? u.id = some t) : (s.setThread u).thread? u.id = some u := by
  unfold State.thread? State.setThread at *
  dsimp only
  generalize s.threads = l at h
  induction l with
  | nil => simp at h
  | cons x r ih =>
    rw [List.map_cons, List.find?_cons]
    by_cases e : x.id = u.id
    · simp [e]
    · rw [List.find?_cons] at h
      simp only [e, decide_false] at h
      simp only [e, if_false, decide_false]
      exact ih h

/-- A thread that is found has the number it was looked for by. -/
theorem State.thread?_id {s : State} {n : Nat} {t : Thread} (h : s.thread? n = some t) : t.id = n := by
  simpa using List.find?_some h

/-- Threads of other numbers stay. -/
theorem State.mem_setThread {s : State} {u x : Thread} (h : x ∈ (s.setThread u).threads) : x = u ∨ (x ∈ s.threads ∧ x.id ≠ u.id) := by
  unfold State.setThread at h
  obtain ⟨y, hy, rfl⟩ := List.mem_map.mp h
  by_cases e : y.id = u.id
  · simp [e]
  · simp only [e, if_false]; exact .inr ⟨hy, e⟩

/-! ## Traps -/

/-- Taking a trap changes one thread and, at an escalation, the next number; that thread keeps its registers, predicates, flights,
return stack and allotment. -/
theorem State.takeTrap_eq (s : State) (u : Thread) (x : Trap) : ∃ v : Thread, ∃ k : Nat,
    s.takeTrap u x = { s with nextId := k }.setThread v ∧ s.nextId ≤ k ∧ v.id = u.id ∧ v.regs = u.regs ∧ v.preds = u.preds ∧
      v.flights = u.flights ∧ v.stack = u.stack ∧ v.spills = u.spills ∧ v.allot = u.allot ∧ v.poisoned = u.poisoned := by
  unfold State.takeTrap
  split
  · unfold State.enterHandler
    split
    · exact ⟨_, s.nextId + 1, rfl, by omega, rfl, rfl, rfl, rfl, rfl, rfl, rfl, rfl⟩
    · exact ⟨_, s.nextId, rfl, by omega, rfl, rfl, rfl, rfl, rfl, rfl, rfl, rfl⟩
  · exact ⟨_, s.nextId, rfl, by omega, rfl, rfl, rfl, rfl, rfl, rfl, rfl, rfl⟩

/-- Where the slots are clear and no handler runs, the thread enters its handler. -/
theorem State.takeTrap_enters {s : State} {u : Thread} {x : Trap} (h : s.slotsClear u.id = true) (g : u.inHandler = false) :
    s.takeTrap u x = s.setThread { u with
      trap := none, block := none, trapPc := x.pc, trapHead := x.head, trapAddr := x.addr
      trapInfo := infoWord x.cause x.sub x.deferred, inHandler := true
      pc := (s.context u.ctx).trapEntry, head := (s.context u.ctx).trapEntry, entering := true, group := none
      mask := none, readySince := s.readyFrom, yieldIn := none, trapYield := u.yieldIn } := by
  simp [State.takeTrap, h, State.enterHandler, g]

/-- A precise fault whose address the spec does not state is a trap at the word with a free address. -/
theorem State.raiseFree_eq (s : State) (c : Issue) (u : Thread) (k : Nat) :
    s.raiseFree c u k = { s with fresh := s.fresh + 1 }.raise c u k 0 (Config.freeValue s.fresh) := rfl

/-! ## The outcomes of an issue -/

/-- A word that issues ends in one of these: a pending fault is delivered, one of the faults of R70 is taken, the guard fails and the
thread goes on, or the word has its own effect. -/
theorem State.issueThread_cases (s : State) (c : Issue) (u : Thread) (h : Head) (i : Instr) (eff : State → Issue → Thread → State) :
    s.issueThread c u h i eff = s.deliver u ∨ (∃ k, s.issueThread c u h i eff = s.raiseFree c u k) ∨
      s.issueThread c u h i eff = s.setThread (u.advance c h s.now) ∨ s.issueThread c u h i eff = eff s c u := by
  unfold State.issueThread
  split
  · exact .inl rfl
  · split
    · exact .inr (.inl ⟨_, rfl⟩)
    · split
      · split
        · exact .inr (.inl ⟨_, rfl⟩)
        · exact .inr (.inr (.inr rfl))
      · split
        · exact .inr (.inl ⟨_, rfl⟩)
        · exact .inr (.inr (.inl rfl))

/-- What a Lamen instruction's meaning can answer: a next state, which is one of those outcomes at the issue, or the fault of a state
without an issuing thread. -/
theorem issue_cases {s v : State} {i : Instr} {h : Head} {eff : State → Issue → Thread → State} (e : issue i h s eff = .next v) :
    ∃ c t, s.cur = some c ∧ s.thread? c.tid = some t ∧ v = (s.atIssue t h i).issueThread c (t.atIssue s.now) h i eff := by
  unfold issue at e
  split at e
  · cases e
  · split at e
    · cases e
    · refine ⟨_, _, ‹_›, ‹_›, ?_⟩
      unfold State.atIssue Thread.atIssue
      exact (Host.Outcome.next.inj e).symm

/-! ## Operations that go in flight -/

/-- An instruction that goes in flight adds at most one operation, with its destinations leased, and its thread goes on. -/
theorem leasing_eq (h : Head) (dst : List Nat) (g : Stage) (s : State) (c : Issue) (u : Thread) :
    leasing h dst g s c u = s.setThread (u.advance c h s.now) ∨
      ∃ o : Op, o.id = s.nextId ∧ o.tid = u.id ∧ o.dst = dst ∧ o.stage = g ∧ o.issued = s.now ∧
        o.slot = (if h.we then some h.wslot.toNat else none) ∧
        leasing h dst g s c u = { s with nextId := s.nextId + 1, ops := s.ops ++ [o] }.setThread (u.advance c h s.now) := by
  unfold leasing
  split
  · exact .inl rfl
  · exact .inr ⟨_, rfl, rfl, rfl, rfl, rfl, rfl, rfl⟩

end Sys2Proof.Machine
end

