-- ==== Sys2Proof/Laws/PerInstr.lean ====
section
/-! SUPPORT. The common fields of an instruction are those of its word (R60), for each constructor; an event has none. -/

namespace Sys2Proof.Laws

/-- The word that encodes an instruction holds the instruction's common fields. -/
def HeadKept.Statement (i : Instr) : Prop := ∀ w h, encode i = some w → i.head? = some h → headOf w = h

theorem HeadKept.ofWord {x w : DWord} {h k : Head} (q : headOf x = k) (e : some x = some w) (f : some k = some h) : headOf w = h := by
  cases e; cases f; exact q

theorem HeadKept.ofEvent {h : Head} {p : Prop} (f : none = some h) : p := by cases f

theorem HeadKept.add : ∀ a0 a1, HeadKept.Statement (Instr.add a0 a1) := fun _ _ _ _ e f => HeadKept.ofWord (headOf_encRRR _ _ _) e f
theorem HeadKept.sub : ∀ a0 a1, HeadKept.Statement (Instr.sub a0 a1) := fun _ _ _ _ e f => HeadKept.ofWord (headOf_encRRR _ _ _) e f
theorem HeadKept.addc : ∀ a0 a1, HeadKept.Statement (Instr.addc a0 a1) := fun _ _ _ _ e f => HeadKept.ofWord (headOf_encRRR _ _ _) e f
theorem HeadKept.subb : ∀ a0 a1, HeadKept.Statement (Instr.subb a0 a1) := fun _ _ _ _ e f => HeadKept.ofWord (headOf_encRRR _ _ _) e f
theorem HeadKept.mul : ∀ a0 a1, HeadKept.Statement (Instr.mul a0 a1) := fun _ _ _ _ e f => HeadKept.ofWord (headOf_encRRR _ _ _) e f
theorem HeadKept.mulhi : ∀ a0 a1, HeadKept.Statement (Instr.mulhi a0 a1) := fun _ _ _ _ e f => HeadKept.ofWord (headOf_encRRR _ _ _) e f
theorem HeadKept.mulw : ∀ a0 a1, HeadKept.Statement (Instr.mulw a0 a1) := fun _ _ _ _ e f => HeadKept.ofWord (headOf_encRRR _ _ _) e f
theorem HeadKept.mad : ∀ a0 a1, HeadKept.Statement (Instr.mad a0 a1) := fun _ _ _ _ e f => HeadKept.ofWord (headOf_encRRR _ _ _) e f
theorem HeadKept.madw : ∀ a0 a1, HeadKept.Statement (Instr.madw a0 a1) := fun _ _ _ _ e f => HeadKept.ofWord (headOf_encRRR _ _ _) e f
theorem HeadKept.add3 : ∀ a0 a1, HeadKept.Statement (Instr.add3 a0 a1) := fun _ _ _ _ e f => HeadKept.ofWord (headOf_encRRR _ _ _) e f
theorem HeadKept.min : ∀ a0 a1, HeadKept.Statement (Instr.min a0 a1) := fun _ _ _ _ e f => HeadKept.ofWord (headOf_encRRR _ _ _) e f
theorem HeadKept.max : ∀ a0 a1, HeadKept.Statement (Instr.max a0 a1) := fun _ _ _ _ e f => HeadKept.ofWord (headOf_encRRR _ _ _) e f
theorem HeadKept.abs : ∀ a0 a1, HeadKept.Statement (Instr.abs a0 a1) := fun _ _ _ _ e f => HeadKept.ofWord (headOf_encRRR _ _ _) e f
theorem HeadKept.neg : ∀ a0 a1, HeadKept.Statement (Instr.neg a0 a1) := fun _ _ _ _ e f => HeadKept.ofWord (headOf_encRRR _ _ _) e f
theorem HeadKept.and : ∀ a0 a1, HeadKept.Statement (Instr.and a0 a1) := fun _ _ _ _ e f => HeadKept.ofWord (headOf_encRRR _ _ _) e f
theorem HeadKept.or : ∀ a0 a1, HeadKept.Statement (Instr.or a0 a1) := fun _ _ _ _ e f => HeadKept.ofWord (headOf_encRRR _ _ _) e f
theorem HeadKept.xor : ∀ a0 a1, HeadKept.Statement (Instr.xor a0 a1) := fun _ _ _ _ e f => HeadKept.ofWord (headOf_encRRR _ _ _) e f
theorem HeadKept.not : ∀ a0 a1, HeadKept.Statement (Instr.not a0 a1) := fun _ _ _ _ e f => HeadKept.ofWord (headOf_encRRR _ _ _) e f
theorem HeadKept.andn : ∀ a0 a1, HeadKept.Statement (Instr.andn a0 a1) := fun _ _ _ _ e f => HeadKept.ofWord (headOf_encRRR _ _ _) e f
theorem HeadKept.shl : ∀ a0 a1, HeadKept.Statement (Instr.shl a0 a1) := fun _ _ _ _ e f => HeadKept.ofWord (headOf_encRRR _ _ _) e f
theorem HeadKept.shr : ∀ a0 a1, HeadKept.Statement (Instr.shr a0 a1) := fun _ _ _ _ e f => HeadKept.ofWord (headOf_encRRR _ _ _) e f
theorem HeadKept.sar : ∀ a0 a1, HeadKept.Statement (Instr.sar a0 a1) := fun _ _ _ _ e f => HeadKept.ofWord (headOf_encRRR _ _ _) e f
theorem HeadKept.rot : ∀ a0 a1, HeadKept.Statement (Instr.rot a0 a1) := fun _ _ _ _ e f => HeadKept.ofWord (headOf_encRRR _ _ _) e f
theorem HeadKept.bfx : ∀ a0 a1, HeadKept.Statement (Instr.bfx a0 a1) := fun _ _ _ _ e f => HeadKept.ofWord (headOf_encRRR _ _ _) e f
theorem HeadKept.bfi : ∀ a0 a1, HeadKept.Statement (Instr.bfi a0 a1) := fun _ _ _ _ e f => HeadKept.ofWord (headOf_encRRR _ _ _) e f
theorem HeadKept.clz : ∀ a0 a1, HeadKept.Statement (Instr.clz a0 a1) := fun _ _ _ _ e f => HeadKept.ofWord (headOf_encRRR _ _ _) e f
theorem HeadKept.popc : ∀ a0 a1, HeadKept.Statement (Instr.popc a0 a1) := fun _ _ _ _ e f => HeadKept.ofWord (headOf_encRRR _ _ _) e f
theorem HeadKept.brev : ∀ a0 a1, HeadKept.Statement (Instr.brev a0 a1) := fun _ _ _ _ e f => HeadKept.ofWord (headOf_encRRR _ _ _) e f
theorem HeadKept.bpick : ∀ a0 a1, HeadKept.Statement (Instr.bpick a0 a1) := fun _ _ _ _ e f => HeadKept.ofWord (headOf_encRRR _ _ _) e f
theorem HeadKept.lea : ∀ a0 a1, HeadKept.Statement (Instr.lea a0 a1) := fun _ _ _ _ e f => HeadKept.ofWord (headOf_encRRR _ _ _) e f
theorem HeadKept.dp4 : ∀ a0 a1, HeadKept.Statement (Instr.dp4 a0 a1) := fun _ _ _ _ e f => HeadKept.ofWord (headOf_encRRR _ _ _) e f
theorem HeadKept.addi : ∀ a0 a1, HeadKept.Statement (Instr.addi a0 a1) := fun _ _ _ _ e f => HeadKept.ofWord (headOf_encRI _ _ _) e f
theorem HeadKept.muli : ∀ a0 a1, HeadKept.Statement (Instr.muli a0 a1) := fun _ _ _ _ e f => HeadKept.ofWord (headOf_encRI _ _ _) e f
theorem HeadKept.andi : ∀ a0 a1, HeadKept.Statement (Instr.andi a0 a1) := fun _ _ _ _ e f => HeadKept.ofWord (headOf_encRI _ _ _) e f
theorem HeadKept.ori : ∀ a0 a1, HeadKept.Statement (Instr.ori a0 a1) := fun _ _ _ _ e f => HeadKept.ofWord (headOf_encRI _ _ _) e f
theorem HeadKept.xori : ∀ a0 a1, HeadKept.Statement (Instr.xori a0 a1) := fun _ _ _ _ e f => HeadKept.ofWord (headOf_encRI _ _ _) e f
theorem HeadKept.shli : ∀ a0 a1, HeadKept.Statement (Instr.shli a0 a1) := fun _ _ _ _ e f => HeadKept.ofWord (headOf_encRI _ _ _) e f
theorem HeadKept.shri : ∀ a0 a1, HeadKept.Statement (Instr.shri a0 a1) := fun _ _ _ _ e f => HeadKept.ofWord (headOf_encRI _ _ _) e f
theorem HeadKept.sari : ∀ a0 a1, HeadKept.Statement (Instr.sari a0 a1) := fun _ _ _ _ e f => HeadKept.ofWord (headOf_encRI _ _ _) e f
theorem HeadKept.cmpi : ∀ a0 a1, HeadKept.Statement (Instr.cmpi a0 a1) := fun _ _ _ _ e f => HeadKept.ofWord (headOf_encRI _ _ _) e f
theorem HeadKept.fadd : ∀ a0 a1, HeadKept.Statement (Instr.fadd a0 a1) := fun _ _ _ _ e f => HeadKept.ofWord (headOf_encRRR _ _ _) e f
theorem HeadKept.fsub : ∀ a0 a1, HeadKept.Statement (Instr.fsub a0 a1) := fun _ _ _ _ e f => HeadKept.ofWord (headOf_encRRR _ _ _) e f
theorem HeadKept.fmul : ∀ a0 a1, HeadKept.Statement (Instr.fmul a0 a1) := fun _ _ _ _ e f => HeadKept.ofWord (headOf_encRRR _ _ _) e f
theorem HeadKept.ffma : ∀ a0 a1, HeadKept.Statement (Instr.ffma a0 a1) := fun _ _ _ _ e f => HeadKept.ofWord (headOf_encRRR _ _ _) e f
theorem HeadKept.fmin : ∀ a0 a1, HeadKept.Statement (Instr.fmin a0 a1) := fun _ _ _ _ e f => HeadKept.ofWord (headOf_encRRR _ _ _) e f
theorem HeadKept.fmax : ∀ a0 a1, HeadKept.Statement (Instr.fmax a0 a1) := fun _ _ _ _ e f => HeadKept.ofWord (headOf_encRRR _ _ _) e f
theorem HeadKept.fdiv : ∀ a0 a1, HeadKept.Statement (Instr.fdiv a0 a1) := fun _ _ _ _ e f => HeadKept.ofWord (headOf_encRRR _ _ _) e f
theorem HeadKept.fsqrt : ∀ a0 a1, HeadKept.Statement (Instr.fsqrt a0 a1) := fun _ _ _ _ e f => HeadKept.ofWord (headOf_encRRR _ _ _) e f
theorem HeadKept.frcp : ∀ a0 a1, HeadKept.Statement (Instr.frcp a0 a1) := fun _ _ _ _ e f => HeadKept.ofWord (headOf_encRRR _ _ _) e f
theorem HeadKept.frsq : ∀ a0 a1, HeadKept.Statement (Instr.frsq a0 a1) := fun _ _ _ _ e f => HeadKept.ofWord (headOf_encRRR _ _ _) e f
theorem HeadKept.fexp2 : ∀ a0 a1, HeadKept.Statement (Instr.fexp2 a0 a1) := fun _ _ _ _ e f => HeadKept.ofWord (headOf_encRRR _ _ _) e f
theorem HeadKept.flog2 : ∀ a0 a1, HeadKept.Statement (Instr.flog2 a0 a1) := fun _ _ _ _ e f => HeadKept.ofWord (headOf_encRRR _ _ _) e f
theorem HeadKept.fsinpi : ∀ a0 a1, HeadKept.Statement (Instr.fsinpi a0 a1) := fun _ _ _ _ e f => HeadKept.ofWord (headOf_encRRR _ _ _) e f
theorem HeadKept.fcospi : ∀ a0 a1, HeadKept.Statement (Instr.fcospi a0 a1) := fun _ _ _ _ e f => HeadKept.ofWord (headOf_encRRR _ _ _) e f
theorem HeadKept.ftanh : ∀ a0 a1, HeadKept.Statement (Instr.ftanh a0 a1) := fun _ _ _ _ e f => HeadKept.ofWord (headOf_encRRR _ _ _) e f
theorem HeadKept.frnd : ∀ a0 a1, HeadKept.Statement (Instr.frnd a0 a1) := fun _ _ _ _ e f => HeadKept.ofWord (headOf_encRRR _ _ _) e f
theorem HeadKept.fscl : ∀ a0 a1, HeadKept.Statement (Instr.fscl a0 a1) := fun _ _ _ _ e f => HeadKept.ofWord (headOf_encRRR _ _ _) e f
theorem HeadKept.fcmp : ∀ a0 a1, HeadKept.Statement (Instr.fcmp a0 a1) := fun _ _ _ _ e f => HeadKept.ofWord (headOf_encRRR _ _ _) e f
theorem HeadKept.fclass : ∀ a0 a1, HeadKept.Statement (Instr.fclass a0 a1) := fun _ _ _ _ e f => HeadKept.ofWord (headOf_encRRR _ _ _) e f
theorem HeadKept.hadd2 : ∀ a0 a1, HeadKept.Statement (Instr.hadd2 a0 a1) := fun _ _ _ _ e f => HeadKept.ofWord (headOf_encRRR _ _ _) e f
theorem HeadKept.hmul2 : ∀ a0 a1, HeadKept.Statement (Instr.hmul2 a0 a1) := fun _ _ _ _ e f => HeadKept.ofWord (headOf_encRRR _ _ _) e f
theorem HeadKept.hfma2 : ∀ a0 a1, HeadKept.Statement (Instr.hfma2 a0 a1) := fun _ _ _ _ e f => HeadKept.ofWord (headOf_encRRR _ _ _) e f
theorem HeadKept.hmin2 : ∀ a0 a1, HeadKept.Statement (Instr.hmin2 a0 a1) := fun _ _ _ _ e f => HeadKept.ofWord (headOf_encRRR _ _ _) e f
theorem HeadKept.hmax2 : ∀ a0 a1, HeadKept.Statement (Instr.hmax2 a0 a1) := fun _ _ _ _ e f => HeadKept.ofWord (headOf_encRRR _ _ _) e f
theorem HeadKept.fdot2 : ∀ a0 a1, HeadKept.Statement (Instr.fdot2 a0 a1) := fun _ _ _ _ e f => HeadKept.ofWord (headOf_encRRR _ _ _) e f
theorem HeadKept.fcvt : ∀ a0 a1, HeadKept.Statement (Instr.fcvt a0 a1) := fun _ _ _ _ e f => HeadKept.ofWord (headOf_encRRR _ _ _) e f
theorem HeadKept.i2f : ∀ a0 a1, HeadKept.Statement (Instr.i2f a0 a1) := fun _ _ _ _ e f => HeadKept.ofWord (headOf_encRRR _ _ _) e f
theorem HeadKept.f2i : ∀ a0 a1, HeadKept.Statement (Instr.f2i a0 a1) := fun _ _ _ _ e f => HeadKept.ofWord (headOf_encRRR _ _ _) e f
theorem HeadKept.fpk : ∀ a0 a1, HeadKept.Statement (Instr.fpk a0 a1) := fun _ _ _ _ e f => HeadKept.ofWord (headOf_encRRR _ _ _) e f
theorem HeadKept.fupk : ∀ a0 a1, HeadKept.Statement (Instr.fupk a0 a1) := fun _ _ _ _ e f => HeadKept.ofWord (headOf_encRRR _ _ _) e f
theorem HeadKept.faddk : ∀ a0 a1, HeadKept.Statement (Instr.faddk a0 a1) := fun _ _ _ _ e f => HeadKept.ofWord (headOf_encK _ _ _) e f
theorem HeadKept.fmulk : ∀ a0 a1, HeadKept.Statement (Instr.fmulk a0 a1) := fun _ _ _ _ e f => HeadKept.ofWord (headOf_encK _ _ _) e f
theorem HeadKept.mov : ∀ a0 a1, HeadKept.Statement (Instr.mov a0 a1) := fun _ _ _ _ e f => HeadKept.ofWord (headOf_encRRR _ _ _) e f
theorem HeadKept.movk : ∀ a0 a1, HeadKept.Statement (Instr.movk a0 a1) := fun _ _ _ _ e f => HeadKept.ofWord (headOf_encK _ _ _) e f
theorem HeadKept.sel : ∀ a0 a1, HeadKept.Statement (Instr.sel a0 a1) := fun _ _ _ _ e f => HeadKept.ofWord (headOf_encRRR _ _ _) e f
theorem HeadKept.cmp : ∀ a0 a1, HeadKept.Statement (Instr.cmp a0 a1) := fun _ _ _ _ e f => HeadKept.ofWord (headOf_encRRR _ _ _) e f
theorem HeadKept.pand : ∀ a0 a1, HeadKept.Statement (Instr.pand a0 a1) := fun _ _ _ _ e f => HeadKept.ofWord (headOf_encRRR _ _ _) e f
theorem HeadKept.por : ∀ a0 a1, HeadKept.Statement (Instr.por a0 a1) := fun _ _ _ _ e f => HeadKept.ofWord (headOf_encRRR _ _ _) e f
theorem HeadKept.pxor : ∀ a0 a1, HeadKept.Statement (Instr.pxor a0 a1) := fun _ _ _ _ e f => HeadKept.ofWord (headOf_encRRR _ _ _) e f
theorem HeadKept.pnot : ∀ a0 a1, HeadKept.Statement (Instr.pnot a0 a1) := fun _ _ _ _ e f => HeadKept.ofWord (headOf_encRRR _ _ _) e f
theorem HeadKept.prd : ∀ a0 a1, HeadKept.Statement (Instr.prd a0 a1) := fun _ _ _ _ e f => HeadKept.ofWord (headOf_encRRR _ _ _) e f
theorem HeadKept.pwr : ∀ a0 a1, HeadKept.Statement (Instr.pwr a0 a1) := fun _ _ _ _ e f => HeadKept.ofWord (headOf_encRRR _ _ _) e f
theorem HeadKept.rds : ∀ a0 a1, HeadKept.Statement (Instr.rds a0 a1) := fun _ _ _ _ e f => HeadKept.ofWord (headOf_encX _ _ _) e f
theorem HeadKept.wrs : ∀ a0 a1, HeadKept.Statement (Instr.wrs a0 a1) := fun _ _ _ _ e f => HeadKept.ofWord (headOf_encX _ _ _) e f
theorem HeadKept.ddx : ∀ a0 a1, HeadKept.Statement (Instr.ddx a0 a1) := fun _ _ _ _ e f => HeadKept.ofWord (headOf_encRRR _ _ _) e f
theorem HeadKept.ddy : ∀ a0 a1, HeadKept.Statement (Instr.ddy a0 a1) := fun _ _ _ _ e f => HeadKept.ofWord (headOf_encRRR _ _ _) e f
theorem HeadKept.qswz : ∀ a0 a1, HeadKept.Statement (Instr.qswz a0 a1) := fun _ _ _ _ e f => HeadKept.ofWord (headOf_encRRR _ _ _) e f
theorem HeadKept.ld : ∀ a0 a1, HeadKept.Statement (Instr.ld a0 a1) := fun _ _ _ _ e f => HeadKept.ofWord (headOf_encM _ _ _) e f
theorem HeadKept.ldro : ∀ a0 a1, HeadKept.Statement (Instr.ldro a0 a1) := fun _ _ _ _ e f => HeadKept.ofWord (headOf_encM _ _ _) e f
theorem HeadKept.ldw : ∀ a0 a1, HeadKept.Statement (Instr.ldw a0 a1) := fun _ _ _ _ e f => HeadKept.ofWord (headOf_encM _ _ _) e f
theorem HeadKept.st : ∀ a0 a1, HeadKept.Statement (Instr.st a0 a1) := fun _ _ _ _ e f => HeadKept.ofWord (headOf_encM _ _ _) e f
theorem HeadKept.pref : ∀ a0 a1, HeadKept.Statement (Instr.pref a0 a1) := fun _ _ _ _ e f => HeadKept.ofWord (headOf_encM _ _ _) e f
theorem HeadKept.fence : ∀ a0 a1, HeadKept.Statement (Instr.fence a0 a1) := fun _ _ _ _ e f => HeadKept.ofWord (headOf_encM _ _ _) e f
theorem HeadKept.wbr : ∀ a0 a1, HeadKept.Statement (Instr.wbr a0 a1) := fun _ _ _ _ e f => HeadKept.ofWord (headOf_encX _ _ _) e f
theorem HeadKept.invr : ∀ a0 a1, HeadKept.Statement (Instr.invr a0 a1) := fun _ _ _ _ e f => HeadKept.ofWord (headOf_encX _ _ _) e f
theorem HeadKept.atom : ∀ a0 a1, HeadKept.Statement (Instr.atom a0 a1) := fun _ _ _ _ e f => HeadKept.ofWord (headOf_encX _ _ _) e f
theorem HeadKept.cas : ∀ a0 a1, HeadKept.Statement (Instr.cas a0 a1) := fun _ _ _ _ e f => HeadKept.ofWord (headOf_encX _ _ _) e f
theorem HeadKept.red : ∀ a0 a1, HeadKept.Statement (Instr.red a0 a1) := fun _ _ _ _ e f => HeadKept.ofWord (headOf_encX _ _ _) e f
theorem HeadKept.xadd : ∀ a0 a1, HeadKept.Statement (Instr.xadd a0 a1) := fun _ _ _ _ e f => HeadKept.ofWord (headOf_encX _ _ _) e f
theorem HeadKept.xrd : ∀ a0 a1, HeadKept.Statement (Instr.xrd a0 a1) := fun _ _ _ _ e f => HeadKept.ofWord (headOf_encX _ _ _) e f
theorem HeadKept.append : ∀ a0 a1, HeadKept.Statement (Instr.append a0 a1) := fun _ _ _ _ e f => HeadKept.ofWord (headOf_encX _ _ _) e f
theorem HeadKept.seal : ∀ a0 a1, HeadKept.Statement (Instr.seal a0 a1) := fun _ _ _ _ e f => HeadKept.ofWord (headOf_encX _ _ _) e f
theorem HeadKept.inkfree : ∀ a0 a1, HeadKept.Statement (Instr.inkfree a0 a1) := fun _ _ _ _ e f => HeadKept.ofWord (headOf_encX _ _ _) e f
theorem HeadKept.inkstat : ∀ a0 a1, HeadKept.Statement (Instr.inkstat a0 a1) := fun _ _ _ _ e f => HeadKept.ofWord (headOf_encX _ _ _) e f
theorem HeadKept.tcom : ∀ a0 a1, HeadKept.Statement (Instr.tcom a0 a1) := fun _ _ _ _ e f => HeadKept.ofWord (headOf_encX _ _ _) e f
theorem HeadKept.qpush : ∀ a0 a1, HeadKept.Statement (Instr.qpush a0 a1) := fun _ _ _ _ e f => HeadKept.ofWord (headOf_encX _ _ _) e f
theorem HeadKept.qpop : ∀ a0 a1, HeadKept.Statement (Instr.qpop a0 a1) := fun _ _ _ _ e f => HeadKept.ofWord (headOf_encX _ _ _) e f
theorem HeadKept.qtry : ∀ a0 a1, HeadKept.Statement (Instr.qtry a0 a1) := fun _ _ _ _ e f => HeadKept.ofWord (headOf_encX _ _ _) e f
theorem HeadKept.barr : ∀ a0 a1, HeadKept.Statement (Instr.barr a0 a1) := fun _ _ _ _ e f => HeadKept.ofWord (headOf_encX _ _ _) e f
theorem HeadKept.bwait : ∀ a0 a1, HeadKept.Statement (Instr.bwait a0 a1) := fun _ _ _ _ e f => HeadKept.ofWord (headOf_encX _ _ _) e f
theorem HeadKept.barrw : ∀ a0 a1, HeadKept.Statement (Instr.barrw a0 a1) := fun _ _ _ _ e f => HeadKept.ofWord (headOf_encX _ _ _) e f
theorem HeadKept.bcfg : ∀ a0 a1, HeadKept.Statement (Instr.bcfg a0 a1) := fun _ _ _ _ e f => HeadKept.ofWord (headOf_encX _ _ _) e f
theorem HeadKept.mbarr : ∀ a0 a1, HeadKept.Statement (Instr.mbarr a0 a1) := fun _ _ _ _ e f => HeadKept.ofWord (headOf_encX _ _ _) e f
theorem HeadKept.mbwait : ∀ a0 a1, HeadKept.Statement (Instr.mbwait a0 a1) := fun _ _ _ _ e f => HeadKept.ofWord (headOf_encX _ _ _) e f
theorem HeadKept.cvarm : ∀ a0 a1, HeadKept.Statement (Instr.cvarm a0 a1) := fun _ _ _ _ e f => HeadKept.ofWord (headOf_encX _ _ _) e f
theorem HeadKept.sign : ∀ a0 a1, HeadKept.Statement (Instr.sign a0 a1) := fun _ _ _ _ e f => HeadKept.ofWord (headOf_encX _ _ _) e f
theorem HeadKept.spawn : ∀ a0 a1, HeadKept.Statement (Instr.spawn a0 a1) := fun _ _ _ _ e f => HeadKept.ofWord (headOf_encX _ _ _) e f
theorem HeadKept.exit : ∀ a0 a1, HeadKept.Statement (Instr.exit a0 a1) := fun _ _ _ _ e f => HeadKept.ofWord (headOf_encX _ _ _) e f
theorem HeadKept.refill : ∀ a0 a1, HeadKept.Statement (Instr.refill a0 a1) := fun _ _ _ _ e f => HeadKept.ofWord (headOf_encX _ _ _) e f
theorem HeadKept.blkget : ∀ a0 a1, HeadKept.Statement (Instr.blkget a0 a1) := fun _ _ _ _ e f => HeadKept.ofWord (headOf_encX _ _ _) e f
theorem HeadKept.blkput : ∀ a0 a1, HeadKept.Statement (Instr.blkput a0 a1) := fun _ _ _ _ e f => HeadKept.ofWord (headOf_encX _ _ _) e f
theorem HeadKept.yield : ∀ a0 a1, HeadKept.Statement (Instr.yield a0 a1) := fun _ _ _ _ e f => HeadKept.ofWord (headOf_encX _ _ _) e f
theorem HeadKept.nap : ∀ a0 a1, HeadKept.Statement (Instr.nap a0 a1) := fun _ _ _ _ e f => HeadKept.ofWord (headOf_encX _ _ _) e f
theorem HeadKept.sbw : ∀ a0 a1, HeadKept.Statement (Instr.sbw a0 a1) := fun _ _ _ _ e f => HeadKept.ofWord (headOf_encX _ _ _) e f
theorem HeadKept.sfld : ∀ a0 a1, HeadKept.Statement (Instr.sfld a0 a1) := fun _ _ _ _ e f => HeadKept.ofWord (headOf_encX _ _ _) e f
theorem HeadKept.sfst : ∀ a0 a1, HeadKept.Statement (Instr.sfst a0 a1) := fun _ _ _ _ e f => HeadKept.ofWord (headOf_encX _ _ _) e f
theorem HeadKept.sfatom : ∀ a0 a1, HeadKept.Statement (Instr.sfatom a0 a1) := fun _ _ _ _ e f => HeadKept.ofWord (headOf_encX _ _ _) e f
theorem HeadKept.sffence : ∀ a0 a1, HeadKept.Statement (Instr.sffence a0 a1) := fun _ _ _ _ e f => HeadKept.ofWord (headOf_encX _ _ _) e f
theorem HeadKept.tex : ∀ a0 a1, HeadKept.Statement (Instr.tex a0 a1) := fun _ _ _ _ e f => HeadKept.ofWord (headOf_encX _ _ _) e f
theorem HeadKept.texg : ∀ a0 a1, HeadKept.Statement (Instr.texg a0 a1) := fun _ _ _ _ e f => HeadKept.ofWord (headOf_encX _ _ _) e f
theorem HeadKept.texq : ∀ a0 a1, HeadKept.Statement (Instr.texq a0 a1) := fun _ _ _ _ e f => HeadKept.ofWord (headOf_encX _ _ _) e f
theorem HeadKept.pemit : ∀ a0 a1, HeadKept.Statement (Instr.pemit a0 a1) := fun _ _ _ _ e f => HeadKept.ofWord (headOf_encX _ _ _) e f
theorem HeadKept.pxout : ∀ a0 a1, HeadKept.Statement (Instr.pxout a0 a1) := fun _ _ _ _ e f => HeadKept.ofWord (headOf_encX _ _ _) e f
theorem HeadKept.pxkill : ∀ a0 a1, HeadKept.Statement (Instr.pxkill a0 a1) := fun _ _ _ _ e f => HeadKept.ofWord (headOf_encX _ _ _) e f
theorem HeadKept.pxord : ∀ a0 a1, HeadKept.Statement (Instr.pxord a0 a1) := fun _ _ _ _ e f => HeadKept.ofWord (headOf_encX _ _ _) e f
theorem HeadKept.trace : ∀ a0 a1, HeadKept.Statement (Instr.trace a0 a1) := fun _ _ _ _ e f => HeadKept.ofWord (headOf_encX _ _ _) e f
theorem HeadKept.tcont : ∀ a0 a1, HeadKept.Statement (Instr.tcont a0 a1) := fun _ _ _ _ e f => HeadKept.ofWord (headOf_encX _ _ _) e f
theorem HeadKept.neval : ∀ a0 a1, HeadKept.Statement (Instr.neval a0 a1) := fun _ _ _ _ e f => HeadKept.ofWord (headOf_encX _ _ _) e f
theorem HeadKept.nflush : ∀ a0 a1, HeadKept.Statement (Instr.nflush a0 a1) := fun _ _ _ _ e f => HeadKept.ofWord (headOf_encX _ _ _) e f
theorem HeadKept.rstat : ∀ a0 a1, HeadKept.Statement (Instr.rstat a0 a1) := fun _ _ _ _ e f => HeadKept.ofWord (headOf_encX _ _ _) e f
theorem HeadKept.mma : ∀ a0 a1, HeadKept.Statement (Instr.mma a0 a1) := fun _ _ _ _ e f => HeadKept.ofWord (headOf_encX _ _ _) e f
theorem HeadKept.accz : ∀ a0 a1, HeadKept.Statement (Instr.accz a0 a1) := fun _ _ _ _ e f => HeadKept.ofWord (headOf_encX _ _ _) e f
theorem HeadKept.accld : ∀ a0 a1, HeadKept.Statement (Instr.accld a0 a1) := fun _ _ _ _ e f => HeadKept.ofWord (headOf_encX _ _ _) e f
theorem HeadKept.accst : ∀ a0 a1, HeadKept.Statement (Instr.accst a0 a1) := fun _ _ _ _ e f => HeadKept.ofWord (headOf_encX _ _ _) e f
theorem HeadKept.copy : ∀ a0 a1, HeadKept.Statement (Instr.copy a0 a1) := fun _ _ _ _ e f => HeadKept.ofWord (headOf_encX _ _ _) e f
theorem HeadKept.gred : ∀ a0 a1, HeadKept.Statement (Instr.gred a0 a1) := fun _ _ _ _ e f => HeadKept.ofWord (headOf_encX _ _ _) e f
theorem HeadKept.bra : ∀ a0 a1, HeadKept.Statement (Instr.bra a0 a1) := fun _ _ _ _ e f => HeadKept.ofWord (headOf_encB _ _ _) e f
theorem HeadKept.brx : ∀ a0 a1, HeadKept.Statement (Instr.brx a0 a1) := fun _ _ _ _ e f => HeadKept.ofWord (headOf_encB _ _ _) e f
theorem HeadKept.call : ∀ a0 a1, HeadKept.Statement (Instr.call a0 a1) := fun _ _ _ _ e f => HeadKept.ofWord (headOf_encB _ _ _) e f
theorem HeadKept.callx : ∀ a0 a1, HeadKept.Statement (Instr.callx a0 a1) := fun _ _ _ _ e f => HeadKept.ofWord (headOf_encB _ _ _) e f
theorem HeadKept.ret : ∀ a0 a1, HeadKept.Statement (Instr.ret a0 a1) := fun _ _ _ _ e f => HeadKept.ofWord (headOf_encB _ _ _) e f
theorem HeadKept.trap : ∀ a0 a1, HeadKept.Statement (Instr.trap a0 a1) := fun _ _ _ _ e f => HeadKept.ofWord (headOf_encX _ _ _) e f
theorem HeadKept.tret : ∀ a0 a1, HeadKept.Statement (Instr.tret a0 a1) := fun _ _ _ _ e f => HeadKept.ofWord (headOf_encX _ _ _) e f
theorem HeadKept.brk : ∀ a0 a1, HeadKept.Statement (Instr.brk a0 a1) := fun _ _ _ _ e f => HeadKept.ofWord (headOf_encX _ _ _) e f
theorem HeadKept.nop : ∀ a0 a1, HeadKept.Statement (Instr.nop a0 a1) := fun _ _ _ _ e f => HeadKept.ofWord (headOf_encX _ _ _) e f
theorem HeadKept.tinfo : ∀ a0 a1, HeadKept.Statement (Instr.tinfo a0 a1) := fun _ _ _ _ e f => HeadKept.ofWord (headOf_encX _ _ _) e f
theorem HeadKept.rdtime : ∀ a0 a1, HeadKept.Statement (Instr.rdtime a0 a1) := fun _ _ _ _ e f => HeadKept.ofWord (headOf_encX _ _ _) e f
theorem HeadKept.rdctr : ∀ a0 a1, HeadKept.Statement (Instr.rdctr a0 a1) := fun _ _ _ _ e f => HeadKept.ofWord (headOf_encX _ _ _) e f
theorem HeadKept.unlistedOpcodeIssue : ∀ a0, HeadKept.Statement (Instr.unlistedOpcodeIssue a0) := fun _ _ _ _ f => HeadKept.ofEvent f
theorem HeadKept.strokeFormation : ∀ a0 a1 a2, HeadKept.Statement (Instr.strokeFormation a0 a1 a2) := fun _ _ _ _ _ _ f => HeadKept.ofEvent f
theorem HeadKept.destinationWritten : ∀ a0, HeadKept.Statement (Instr.destinationWritten a0) := fun _ _ _ _ f => HeadKept.ofEvent f
theorem HeadKept.blockingInstructionComplete : ∀ a0, HeadKept.Statement (Instr.blockingInstructionComplete a0) := fun _ _ _ _ f => HeadKept.ofEvent f
theorem HeadKept.deferredFaultFound : ∀ a0, HeadKept.Statement (Instr.deferredFaultFound a0) := fun _ _ _ _ f => HeadKept.ofEvent f
theorem HeadKept.deferredFaultDelivery : ∀ a0, HeadKept.Statement (Instr.deferredFaultDelivery a0) := fun _ _ _ _ f => HeadKept.ofEvent f
theorem HeadKept.trapHandlerEntry : ∀ a0, HeadKept.Statement (Instr.trapHandlerEntry a0) := fun _ _ _ _ f => HeadKept.ofEvent f
theorem HeadKept.napExpiry : ∀ a0, HeadKept.Statement (Instr.napExpiry a0) := fun _ _ _ _ f => HeadKept.ofEvent f
theorem HeadKept.blkgetServed : ∀ a0 a1 a2, HeadKept.Statement (Instr.blkgetServed a0 a1 a2) := fun _ _ _ _ _ _ f => HeadKept.ofEvent f
theorem HeadKept.queueWaiterServed : ∀ a0 a1, HeadKept.Statement (Instr.queueWaiterServed a0 a1) := fun _ _ _ _ _ f => HeadKept.ofEvent f
theorem HeadKept.binTimerExpiry : ∀ a0 a1 a2, HeadKept.Statement (Instr.binTimerExpiry a0 a1 a2) := fun _ _ _ _ _ _ f => HeadKept.ofEvent f
theorem HeadKept.teamRetirement : ∀ a0, HeadKept.Statement (Instr.teamRetirement a0) := fun _ _ _ _ f => HeadKept.ofEvent f
theorem HeadKept.mmaCompletion : ∀ a0, HeadKept.Statement (Instr.mmaCompletion a0) := fun _ _ _ _ f => HeadKept.ofEvent f
theorem HeadKept.accldCompletion : ∀ a0, HeadKept.Statement (Instr.accldCompletion a0) := fun _ _ _ _ f => HeadKept.ofEvent f
theorem HeadKept.accstCompletion : ∀ a0, HeadKept.Statement (Instr.accstCompletion a0) := fun _ _ _ _ f => HeadKept.ofEvent f
theorem HeadKept.engineFailure : ∀ a0, HeadKept.Statement (Instr.engineFailure a0) := fun _ _ _ _ f => HeadKept.ofEvent f
theorem HeadKept.matrixEngineHang : ∀ a0 a1, HeadKept.Statement (Instr.matrixEngineHang a0 a1) := fun _ _ _ _ _ f => HeadKept.ofEvent f
theorem HeadKept.gatherWindowExpiry : ∀ a0, HeadKept.Statement (Instr.gatherWindowExpiry a0) := fun _ _ _ _ f => HeadKept.ofEvent f
theorem HeadKept.tileResultScatter : ∀ a0, HeadKept.Statement (Instr.tileResultScatter a0) := fun _ _ _ _ f => HeadKept.ofEvent f
theorem HeadKept.traversalCompletion : ∀ a0 a1, HeadKept.Statement (Instr.traversalCompletion a0 a1) := fun _ _ _ _ _ f => HeadKept.ofEvent f
theorem HeadKept.copyChunkComplete : ∀ a0 a1, HeadKept.Statement (Instr.copyChunkComplete a0 a1) := fun _ _ _ _ _ f => HeadKept.ofEvent f
theorem HeadKept.copyCompletion : ∀ a0, HeadKept.Statement (Instr.copyCompletion a0) := fun _ _ _ _ f => HeadKept.ofEvent f
theorem HeadKept.copyChunkFailure : ∀ a0 a1, HeadKept.Statement (Instr.copyChunkFailure a0 a1) := fun _ _ _ _ _ f => HeadKept.ofEvent f
theorem HeadKept.copyReplay : ∀ a0 a1, HeadKept.Statement (Instr.copyReplay a0 a1) := fun _ _ _ _ _ f => HeadKept.ofEvent f
theorem HeadKept.copyCancel : ∀ a0 a1, HeadKept.Statement (Instr.copyCancel a0 a1) := fun _ _ _ _ _ f => HeadKept.ofEvent f
theorem HeadKept.gredCommandAccept : ∀ a0, HeadKept.Statement (Instr.gredCommandAccept a0) := fun _ _ _ _ f => HeadKept.ofEvent f
theorem HeadKept.reduceSubcommand : ∀ a0 a1, HeadKept.Statement (Instr.reduceSubcommand a0 a1) := fun _ _ _ _ _ f => HeadKept.ofEvent f
theorem HeadKept.reduceSegmentEnd : ∀ a0, HeadKept.Statement (Instr.reduceSegmentEnd a0) := fun _ _ _ _ f => HeadKept.ofEvent f
theorem HeadKept.gredResultWrite : ∀ a0, HeadKept.Statement (Instr.gredResultWrite a0) := fun _ _ _ _ f => HeadKept.ofEvent f
theorem HeadKept.gredCommandFailure : ∀ a0, HeadKept.Statement (Instr.gredCommandFailure a0) := fun _ _ _ _ f => HeadKept.ofEvent f
theorem HeadKept.emptyLineTimeout : ∀ a0, HeadKept.Statement (Instr.emptyLineTimeout a0) := fun _ _ _ _ f => HeadKept.ofEvent f
theorem HeadKept.ldwTimeout : ∀ a0, HeadKept.Statement (Instr.ldwTimeout a0) := fun _ _ _ _ f => HeadKept.ofEvent f
theorem HeadKept.appendRequestAtHome : ∀ a0, HeadKept.Statement (Instr.appendRequestAtHome a0) := fun _ _ _ _ f => HeadKept.ofEvent f
theorem HeadKept.appendDataPerformed : ∀ a0, HeadKept.Statement (Instr.appendDataPerformed a0) := fun _ _ _ _ f => HeadKept.ofEvent f
theorem HeadKept.appendDataLost : ∀ a0, HeadKept.Statement (Instr.appendDataLost a0) := fun _ _ _ _ f => HeadKept.ofEvent f
theorem HeadKept.sealRequestAtHome : ∀ a0, HeadKept.Statement (Instr.sealRequestAtHome a0) := fun _ _ _ _ f => HeadKept.ofEvent f
theorem HeadKept.inkRetirement : ∀ a0 a1, HeadKept.Statement (Instr.inkRetirement a0 a1) := fun _ _ _ _ _ f => HeadKept.ofEvent f
theorem HeadKept.retirementAcknowledgement : ∀ a0 a1 a2, HeadKept.Statement (Instr.retirementAcknowledgement a0 a1 a2) := fun _ _ _ _ _ _ f => HeadKept.ofEvent f
theorem HeadKept.replicaGrantRequest : ∀ a0 a1 a2 a3, HeadKept.Statement (Instr.replicaGrantRequest a0 a1 a2 a3) := fun _ _ _ _ _ _ _ f => HeadKept.ofEvent f
theorem HeadKept.replicaDrop : ∀ a0, HeadKept.Statement (Instr.replicaDrop a0) := fun _ _ _ _ f => HeadKept.ofEvent f
theorem HeadKept.replicaClear : ∀ a0 a1 a2, HeadKept.Statement (Instr.replicaClear a0 a1 a2) := fun _ _ _ _ _ _ f => HeadKept.ofEvent f
theorem HeadKept.inkRegionDestroy : ∀ a0 a1, HeadKept.Statement (Instr.inkRegionDestroy a0 a1) := fun _ _ _ _ _ f => HeadKept.ofEvent f
theorem HeadKept.persistentRequest : ∀ a0 a1 a2, HeadKept.Statement (Instr.persistentRequest a0 a1 a2) := fun _ _ _ _ _ _ f => HeadKept.ofEvent f
theorem HeadKept.recall : ∀ a0, HeadKept.Statement (Instr.recall a0) := fun _ _ _ _ f => HeadKept.ofEvent f
theorem HeadKept.eviction : ∀ a0 a1, HeadKept.Statement (Instr.eviction a0 a1) := fun _ _ _ _ _ f => HeadKept.ofEvent f
theorem HeadKept.pageFaultRecordDelayed : ∀ a0, HeadKept.Statement (Instr.pageFaultRecordDelayed a0) := fun _ _ _ _ f => HeadKept.ofEvent f
theorem HeadKept.tfrespResolved : ∀ a0 a1 a2, HeadKept.Statement (Instr.tfrespResolved a0 a1 a2) := fun _ _ _ _ _ _ f => HeadKept.ofEvent f
theorem HeadKept.tfrespUnresolvable : ∀ a0 a1 a2, HeadKept.Statement (Instr.tfrespUnresolvable a0 a1 a2) := fun _ _ _ _ _ _ f => HeadKept.ofEvent f
theorem HeadKept.tinvctlCommand : ∀ a0, HeadKept.Statement (Instr.tinvctlCommand a0) := fun _ _ _ _ f => HeadKept.ofEvent f
theorem HeadKept.tinvComplete : HeadKept.Statement (Instr.tinvComplete) := fun _ _ _ f => HeadKept.ofEvent f
theorem HeadKept.migrationEpochEnd : ∀ a0 a1, HeadKept.Statement (Instr.migrationEpochEnd a0 a1) := fun _ _ _ _ _ f => HeadKept.ofEvent f
theorem HeadKept.surfaceEntryValid : ∀ a0 a1 a2, HeadKept.Statement (Instr.surfaceEntryValid a0 a1 a2) := fun _ _ _ _ _ _ f => HeadKept.ofEvent f
theorem HeadKept.surfaceEntryInvalidate : ∀ a0 a1, HeadKept.Statement (Instr.surfaceEntryInvalidate a0 a1) := fun _ _ _ _ _ f => HeadKept.ofEvent f
theorem HeadKept.blotterSpill : ∀ a0 a1 a2, HeadKept.Statement (Instr.blotterSpill a0 a1 a2) := fun _ _ _ _ _ _ f => HeadKept.ofEvent f
theorem HeadKept.tileRefill : ∀ a0 a1 a2, HeadKept.Statement (Instr.tileRefill a0 a1 a2) := fun _ _ _ _ _ _ f => HeadKept.ofEvent f
theorem HeadKept.setupAccept : ∀ a0, HeadKept.Statement (Instr.setupAccept a0) := fun _ _ _ _ f => HeadKept.ofEvent f
theorem HeadKept.primitiveForward : ∀ a0 a1, HeadKept.Statement (Instr.primitiveForward a0 a1) := fun _ _ _ _ _ f => HeadKept.ofEvent f
theorem HeadKept.rasterize : ∀ a0 a1, HeadKept.Statement (Instr.rasterize a0 a1) := fun _ _ _ _ _ f => HeadKept.ofEvent f
theorem HeadKept.nibUnitAct : ∀ a0, HeadKept.Statement (Instr.nibUnitAct a0) := fun _ _ _ _ f => HeadKept.ofEvent f
theorem HeadKept.drawCompletion : ∀ a0, HeadKept.Statement (Instr.drawCompletion a0) := fun _ _ _ _ f => HeadKept.ofEvent f
theorem HeadKept.queueEnable : ∀ a0 a1, HeadKept.Statement (Instr.queueEnable a0 a1) := fun _ _ _ _ _ f => HeadKept.ofEvent f
theorem HeadKept.queueDisable : ∀ a0, HeadKept.Statement (Instr.queueDisable a0) := fun _ _ _ _ f => HeadKept.ofEvent f
theorem HeadKept.tailWrite : ∀ a0 a1 a2, HeadKept.Statement (Instr.tailWrite a0 a1 a2) := fun _ _ _ _ _ _ f => HeadKept.ofEvent f
theorem HeadKept.recordExamine : ∀ a0, HeadKept.Statement (Instr.recordExamine a0) := fun _ _ _ _ f => HeadKept.ofEvent f
theorem HeadKept.waitEventMet : ∀ a0 a1, HeadKept.Statement (Instr.waitEventMet a0 a1) := fun _ _ _ _ _ f => HeadKept.ofEvent f
theorem HeadKept.launchDispatch : ∀ a0, HeadKept.Statement (Instr.launchDispatch a0) := fun _ _ _ _ f => HeadKept.ofEvent f
theorem HeadKept.teamPlacement : ∀ a0 a1 a2 a3, HeadKept.Statement (Instr.teamPlacement a0 a1 a2 a3) := fun _ _ _ _ _ _ _ f => HeadKept.ofEvent f
theorem HeadKept.cohortPlacement : ∀ a0, HeadKept.Statement (Instr.cohortPlacement a0) := fun _ _ _ _ f => HeadKept.ofEvent f
theorem HeadKept.preemption : ∀ a0, HeadKept.Statement (Instr.preemption a0) := fun _ _ _ _ f => HeadKept.ofEvent f
theorem HeadKept.weightload : ∀ a0, HeadKept.Statement (Instr.weightload a0) := fun _ _ _ _ f => HeadKept.ofEvent f
theorem HeadKept.launchCompletionSignal : ∀ a0, HeadKept.Statement (Instr.launchCompletionSignal a0) := fun _ _ _ _ f => HeadKept.ofEvent f
theorem HeadKept.contextDestroy : ∀ a0, HeadKept.Statement (Instr.contextDestroy a0) := fun _ _ _ _ f => HeadKept.ofEvent f
theorem HeadKept.hfrespResume : ∀ a0 a1, HeadKept.Statement (Instr.hfrespResume a0 a1) := fun _ _ _ _ _ f => HeadKept.ofEvent f
theorem HeadKept.threadPark : ∀ a0, HeadKept.Statement (Instr.threadPark a0) := fun _ _ _ _ f => HeadKept.ofEvent f
theorem HeadKept.deadlineExpiry : ∀ a0, HeadKept.Statement (Instr.deadlineExpiry a0) := fun _ _ _ _ f => HeadKept.ofEvent f
theorem HeadKept.teamSave : ∀ a0, HeadKept.Statement (Instr.teamSave a0) := fun _ _ _ _ f => HeadKept.ofEvent f
theorem HeadKept.teamRestore : ∀ a0, HeadKept.Statement (Instr.teamRestore a0) := fun _ _ _ _ f => HeadKept.ofEvent f
theorem HeadKept.sliceEnd : HeadKept.Statement (Instr.sliceEnd) := fun _ _ _ f => HeadKept.ofEvent f
theorem HeadKept.ctrCommandDone : HeadKept.Statement (Instr.ctrCommandDone) := fun _ _ _ f => HeadKept.ofEvent f
theorem HeadKept.registerWrite : ∀ a0 a1 a2, HeadKept.Statement (Instr.registerWrite a0 a1 a2) := fun _ _ _ _ _ _ f => HeadKept.ofEvent f
theorem HeadKept.faultRecordPostDelayed : ∀ a0, HeadKept.Statement (Instr.faultRecordPostDelayed a0) := fun _ _ _ _ f => HeadKept.ofEvent f
theorem HeadKept.cxlTimeout : ∀ a0, HeadKept.Statement (Instr.cxlTimeout a0) := fun _ _ _ _ f => HeadKept.ofEvent f
theorem HeadKept.peerTimeout : ∀ a0, HeadKept.Statement (Instr.peerTimeout a0) := fun _ _ _ _ f => HeadKept.ofEvent f
theorem HeadKept.escalationRecordDelayed : ∀ a0, HeadKept.Statement (Instr.escalationRecordDelayed a0) := fun _ _ _ _ f => HeadKept.ofEvent f
theorem HeadKept.peerRoutesDownTimeout : ∀ a0, HeadKept.Statement (Instr.peerRoutesDownTimeout a0) := fun _ _ _ _ f => HeadKept.ofEvent f
theorem HeadKept.hfrespTerminateThread : ∀ a0 a1, HeadKept.Statement (Instr.hfrespTerminateThread a0 a1) := fun _ _ _ _ _ f => HeadKept.ofEvent f
theorem HeadKept.hfrespTerminateLaunch : ∀ a0 a1, HeadKept.Statement (Instr.hfrespTerminateLaunch a0 a1) := fun _ _ _ _ _ f => HeadKept.ofEvent f
theorem HeadKept.ctrcmdLoad : ∀ a0, HeadKept.Statement (Instr.ctrcmdLoad a0) := fun _ _ _ _ f => HeadKept.ofEvent f
theorem HeadKept.ctrcmdStore : ∀ a0, HeadKept.Statement (Instr.ctrcmdStore a0) := fun _ _ _ _ f => HeadKept.ofEvent f
theorem HeadKept.uncorrectableError : ∀ a0, HeadKept.Statement (Instr.uncorrectableError a0) := fun _ _ _ _ f => HeadKept.ofEvent f
theorem HeadKept.patrolScrub : ∀ a0 a1 a2, HeadKept.Statement (Instr.patrolScrub a0 a1 a2) := fun _ _ _ _ _ _ f => HeadKept.ofEvent f
theorem HeadKept.coreControlError : ∀ a0 a1, HeadKept.Statement (Instr.coreControlError a0 a1) := fun _ _ _ _ _ f => HeadKept.ofEvent f
theorem HeadKept.columnControlError : ∀ a0, HeadKept.Statement (Instr.columnControlError a0) := fun _ _ _ _ f => HeadKept.ofEvent f
theorem HeadKept.hostAccess : ∀ a0 a1 a2, HeadKept.Statement (Instr.hostAccess a0 a1 a2) := fun _ _ _ _ _ _ f => HeadKept.ofEvent f
theorem HeadKept.flitCrcFail : ∀ a0, HeadKept.Statement (Instr.flitCrcFail a0) := fun _ _ _ _ f => HeadKept.ofEvent f
theorem HeadKept.peerAccess : ∀ a0 a1 a2, HeadKept.Statement (Instr.peerAccess a0 a1 a2) := fun _ _ _ _ _ _ f => HeadKept.ofEvent f
theorem HeadKept.moduleReset : HeadKept.Statement Instr.moduleReset := fun _ _ _ f => HeadKept.ofEvent f
theorem HeadKept.imageWrite : ∀ a0 a1, HeadKept.Statement (Instr.imageWrite a0 a1) := fun _ _ _ _ _ f => HeadKept.ofEvent f
theorem HeadKept.attestationRequest : ∀ a0, HeadKept.Statement (Instr.attestationRequest a0) := fun _ _ _ _ f => HeadKept.ofEvent f
theorem HeadKept.errorLogRead : ∀ a0, HeadKept.Statement (Instr.errorLogRead a0) := fun _ _ _ _ f => HeadKept.ofEvent f
theorem HeadKept.correctionCountRead : ∀ a0, HeadKept.Statement (Instr.correctionCountRead a0) := fun _ _ _ _ f => HeadKept.ofEvent f
theorem HeadKept.powerCap : ∀ a0, HeadKept.Statement (Instr.powerCap a0) := fun _ _ _ _ f => HeadKept.ofEvent f
theorem HeadKept.powerWindow : ∀ a0, HeadKept.Statement (Instr.powerWindow a0) := fun _ _ _ _ f => HeadKept.ofEvent f
theorem HeadKept.thermalThrottle : ∀ a0 a1, HeadKept.Statement (Instr.thermalThrottle a0 a1) := fun _ _ _ _ _ f => HeadKept.ofEvent f
theorem HeadKept.thermalShutdown : ∀ a0 a1, HeadKept.Statement (Instr.thermalShutdown a0 a1) := fun _ _ _ _ _ f => HeadKept.ofEvent f
theorem HeadKept.powerRemoval : HeadKept.Statement (Instr.powerRemoval) := fun _ _ _ f => HeadKept.ofEvent f
theorem HeadKept.peerRetirementRequest : ∀ a0 a1, HeadKept.Statement (Instr.peerRetirementRequest a0 a1) := fun _ _ _ _ _ f => HeadKept.ofEvent f
theorem HeadKept.inkpoolDisable : ∀ a0 a1, HeadKept.Statement (Instr.inkpoolDisable a0 a1) := fun _ _ _ _ _ f => HeadKept.ofEvent f
theorem HeadKept.inkpoolEnable : ∀ a0 a1, HeadKept.Statement (Instr.inkpoolEnable a0 a1) := fun _ _ _ _ _ f => HeadKept.ofEvent f
theorem HeadKept.matrixSelfTest : ∀ a0 a1 a2 a3, HeadKept.Statement (Instr.matrixSelfTest a0 a1 a2 a3) := fun _ _ _ _ _ _ _ f => HeadKept.ofEvent f
theorem HeadKept.contextCreate : ∀ a0 a1, HeadKept.Statement (Instr.contextCreate a0 a1) := fun _ _ _ _ _ f => HeadKept.ofEvent f
theorem HeadKept.inkRegionCreate : ∀ a0 a1 a2, HeadKept.Statement (Instr.inkRegionCreate a0 a1 a2) := fun _ _ _ _ _ _ f => HeadKept.ofEvent f
theorem HeadKept.contextFieldWrite : ∀ a0 a1, HeadKept.Statement (Instr.contextFieldWrite a0 a1) := fun _ _ _ _ _ f => HeadKept.ofEvent f
theorem HeadKept.surfaceEntryClear : ∀ a0 a1 a2, HeadKept.Statement (Instr.surfaceEntryClear a0 a1 a2) := fun _ _ _ _ _ _ f => HeadKept.ofEvent f

end Sys2Proof.Laws
end

