-- ==== Sys2Proof/Tests/Slice0.lean ====
section
/-! SUPPORT. Tests of the model: what well-formedness refuses, words decoded as the spec encodes them, one step of some instructions,
and for the hypotheses of each statement a state and operands that meet them. Expected values come from the spec. -/

-- The theorems below are compiled one after another: all at once they ask for more threads than the memory limit admits.
set_option Elab.async false

namespace Sys2Proof.Tests

open Sys2Proof.Machine

/-! ## The states of the witnesses -/

/-- Common fields with nothing set and the guard that always passes. -/
def hd : Head := ⟨0, false, false, 0, false, 7⟩
/-- The same with the slot of a variable-latency instruction. -/
def hv : Head := ⟨0, false, true, 3, false, 7⟩

/-- The state in which an instruction, placed, is the next to issue. -/
def placed (i : Instr) : State := State.reset.withFetchWord 64 ((encode i).getD 0).toNat

/-- Its issue. -/
def issueOf (s : State) : Issue := s.cur.getD ⟨0, ⟨0, 0, []⟩, 0, 0, [], [], []⟩

/-- The thread that issues it. -/
def threadOf (s : State) : Thread := s.threads.headD (placedTeam.newThread 0 0 0 0 .compute 0 0)

/-- The conditions of `Issues`, computed. -/
def issuesB (s : State) (c : Issue) (t : Thread) (h : Head) (i : Instr) : Bool :=
  decide (s.cur = some c) && decide (s.thread? c.tid = some t) && !(s.atIssue t h i).deferredDue (t.atIssue s.now) i &&
    ((s.atIssue t h i).decodeFault c (t.atIssue s.now) h i).isNone && (t.atIssue s.now).guard h &&
    ((s.atIssue t h i).sourceFault c (t.atIssue s.now) h i).isNone

theorem issues_of_issuesB {s : State} {c : Issue} {t : Thread} {h : Head} {i : Instr} (e : issuesB s c t h i = true) :
    Issues s c t h i := by
  simp only [issuesB, Bool.and_eq_true, decide_eq_true_eq, Bool.not_eq_true', Option.isNone_iff_eq_none] at e
  obtain ⟨⟨⟨⟨⟨h1, h2⟩, h3⟩, h4⟩, h5⟩, h6⟩ := e
  exact ⟨h1, h2, h3, h4, h5, h6⟩

/-- The instruction issues with its own effect in the state. -/
def ready (s : State) (i : Instr) : Bool :=
  match i.head? with
  | some h => issuesB s (issueOf s) (threadOf s) h i
  | none => false

/-- The instruction issues with its own effect where it is placed. -/
def runs (i : Instr) : Bool := ready (placed i) i

/-- What `runs` says of an instruction with common fields `h`. -/
theorem issues_of_ready {s : State} {i : Instr} {h : Head} (hi : i.head? = some h) (e : ready s i = true) :
    Issues s (issueOf s) (threadOf s) h i := by
  unfold ready at e
  rw [hi] at e
  exact issues_of_issuesB e

/-- Operands of format RRR: d, a and b registers. -/
def r3 (ty : BitVec 4) (mod : BitVec 7) : RRR := ⟨8, 4, 6, 0xF0, ty, mod⟩
/-- The same with c a register. -/
def r4 (ty : BitVec 4) (mod : BitVec 7) : RRR := ⟨8, 4, 6, 10, ty, mod⟩

/-! ## Arithmetic -/

/-- An instruction of format X without operands. -/
def xn (fn : BitVec 11) : XF := ⟨0xF0, 0xF0, 0xF0, 0xF0, fn⟩

theorem witness_IntegerResultsExactOrClamped :
    [Instr.add hd (r3 0 0), Instr.add hd (r3 6 16), Instr.sub hd (r3 3 0), Instr.add3 hd (r4 2 0), Instr.mul hd (r3 1 0),
      Instr.mulhi hd (r3 3 0), Instr.mad hd (r4 0 0), Instr.min hd (r3 5 0), Instr.max hd (r3 0 0),
      Instr.abs hd ⟨8, 4, 0xF0, 0xF0, 0, 16⟩, Instr.neg hd ⟨8, 4, 0xF0, 0xF0, 0, 0⟩].all runs = true := by decide +kernel

theorem witness_WideProductsAndCarriesExact :
    [Instr.mulw hd (r3 0 0), Instr.madw hd (r4 1 0), Instr.addc hd (r3 1 0x7F), Instr.subb hd (r3 1 9)].all runs = true := by
  decide +kernel

theorem witness_BitResultsAsTabled :
    [Instr.and hd (r3 14 0), Instr.or hd (r3 15 0), Instr.xor hd (r3 14 0), Instr.not hd ⟨8, 4, 0xF0, 0xF0, 14, 0⟩, Instr.andn hd (r3 14 0),
      Instr.shl hd (r3 14 0), Instr.shr hd (r3 15 0), Instr.sar hd (r3 14 0), Instr.rot hd (r3 15 0), Instr.bfx hd (r3 14 1),
      Instr.bfi hd (r4 15 0), Instr.brev hd ⟨8, 4, 0xF0, 0xF0, 14, 0⟩, Instr.popc hd ⟨8, 4, 0xF0, 0xF0, 15, 0⟩,
      Instr.clz hd ⟨8, 4, 0xF0, 0xF0, 14, 0⟩].all runs = true := by decide +kernel

theorem witness_PicksImmediatesComparesResults :
    [Instr.bpick hd (r4 14 0), Instr.lea hd ⟨8, 4, 6, 0xF0, 15, 11⟩, Instr.dp4 hd (r4 6 16), Instr.dp4 hd (r4 7 0),
      Instr.addi hd ⟨3, 3, 0x7FFFFFF⟩, Instr.muli hd ⟨3, 4, 5⟩, Instr.andi hd ⟨3, 4, 5⟩, Instr.ori hd ⟨3, 4, 5⟩, Instr.xori hd ⟨3, 4, 5⟩,
      Instr.shli hd ⟨3, 4, 31⟩, Instr.shri hd ⟨3, 4, 0⟩, Instr.sari hd ⟨3, 4, 31⟩, Instr.cmpi hd ⟨2, 4, 0x2FFFFFF⟩, Instr.cmpi hd ⟨7, 4, 0x4000001⟩,
      Instr.cmp hd ⟨1, 4, 6, 7, 0, 2⟩, Instr.cmp hd ⟨0, 4, 6, 3, 3, 0x45⟩].all runs = true := by decide +kernel

theorem witness_FloatResultsRoundedOnce :
    [Instr.fadd hd (r3 8 0x7F), Instr.fsub hd (r3 8 0), Instr.fmul hd (r3 8 16), Instr.ffma hd (r4 8 0x48), Instr.fmin hd (r3 8 0),
      Instr.fmax hd (r3 8 15), Instr.frnd hd ⟨8, 4, 0xF0, 0xF0, 8, 0x60⟩, Instr.fscl hd (r3 8 0), Instr.fdiv hv (r3 8 0x20),
      Instr.fsqrt hv ⟨8, 4, 0xF0, 0xF0, 8, 0⟩, Instr.frcp hv ⟨8, 4, 0xF0, 0xF0, 8, 0⟩, Instr.frsq hv ⟨8, 4, 0xF0, 0xF0, 8, 0⟩,
      Instr.fexp2 hv ⟨8, 4, 0xF0, 0xF0, 8, 0⟩, Instr.flog2 hv ⟨8, 4, 0xF0, 0xF0, 8, 0⟩, Instr.fsinpi hv ⟨8, 4, 0xF0, 0xF0, 8, 0⟩,
      Instr.fcospi hv ⟨8, 4, 0xF0, 0xF0, 8, 0⟩, Instr.ftanh hv ⟨8, 4, 0xF0, 0xF0, 8, 0⟩].all runs = true := by decide +kernel

theorem witness_FloatComparesAndConversions :
    [Instr.fcmp hd ⟨1, 4, 6, 7, 8, 2⟩, Instr.fclass hd ⟨8, 4, 0xF0, 0xF0, 8, 0⟩, Instr.fclass hd ⟨8, 4, 0xF0, 0xF0, 9, 0⟩,
      Instr.fcvt hd ⟨8, 4, 0xF0, 0xF0, 9, 0⟩, Instr.i2f hd ⟨8, 4, 0xF0, 0xF0, 2, 0x20⟩, Instr.f2i hd ⟨8, 4, 0xF0, 0xF0, 3, 0x20⟩,
      Instr.fpk hd ⟨8, 4, 6, 0xF0, 10, 0⟩, Instr.fpk hd ⟨8, 4, 6, 10, 13, 3⟩, Instr.fupk hd ⟨8, 4, 0xF0, 0xF0, 13, 7⟩,
      Instr.faddk hd ⟨8, 5, 0x3F000000⟩, Instr.fmulk hd ⟨8, 0, 0x3F000000⟩].all runs = true := by decide +kernel

theorem witness_PackedHalvesAreScalarPerHalf :
    [Instr.hadd2 hd (r3 9 0), Instr.hmul2 hd (r3 10 0x1F), Instr.hfma2 hd (r4 9 0), Instr.hmin2 hd (r3 10 0), Instr.hmax2 hd (r3 9 0),
      Instr.fdot2 hd (r4 9 0)].all runs = true := by decide +kernel

theorem witness_MovesAndPredicatesWriteTheirValue :
    [Instr.mov hd ⟨8, 0xD6, 0xF0, 0xF0, 15, 0⟩, Instr.movk hd ⟨8, 0, 1⟩, Instr.movk hd ⟨8, 1, 1⟩, Instr.movk hd ⟨8, 2, 1⟩,
      Instr.movk hd ⟨8, 3, 1⟩, Instr.movk hd ⟨0xF0, 3, 1⟩, Instr.sel hd ⟨8, 4, 6, 4, 15, 1⟩, Instr.pand hd ⟨3, 1, 2, 0xF0, 0, 4⟩,
      Instr.por hd ⟨7, 7, 2, 0xF0, 0, 0⟩, Instr.pxor hd ⟨3, 1, 2, 0xF0, 0, 12⟩, Instr.pnot hd ⟨3, 1, 0xF0, 0xF0, 0, 0⟩,
      Instr.prd hd ⟨8, 0xF0, 0xF0, 0xF0, 14, 0⟩, Instr.pwr hd ⟨0xF0, 4, 6, 0xF0, 14, 0⟩, Instr.nop hd (xn 0)].all runs = true := by
  decide +kernel

theorem witness_SpecialRegistersReadAndWrite :
    ((List.range 15).map fun n => Instr.rds hd ⟨8, 0xF0, 0xF0, 0xF0, BitVec.ofNat 11 n⟩).all runs = true ∧
      [Instr.wrs hd ⟨0xF0, 4, 0xF0, 0xF0, 6⟩, Instr.wrs hd ⟨0xF0, 4, 0xF0, 0xF0, 7⟩].all runs = true ∧
      (placed (.rds hd ⟨8, 0xF0, 0xF0, 0xF0, 6⟩)).team? 1 = some placedTeam := by decide +kernel

/-- A state whose threads are changed. -/
def withThread (s : State) (f : Thread → Thread) : State := { s with threads := s.threads.map f }

/-- A state whose teams are changed. -/
def withTeam (s : State) (f : Team → Team) : State := { s with teams := s.teams.map f }

/-- A member of a quad, at a position of it. -/
def quadState (i : Instr) (q : Nat) : State := withThread (placed i) fun t => { t with quad := some q, quadId := 9 }

theorem witness_QuadInstructionsTakeMembersValues :
    runs (.ddx hd ⟨8, 4, 0xF0, 0xF0, 8, 1⟩) = true ∧ runs (.ddy hd ⟨8, 4, 0xF0, 0xF0, 8, 1⟩) = true ∧
      ready (quadState (.ddx hd ⟨8, 4, 0xF0, 0xF0, 8, 1⟩) 2) (.ddx hd ⟨8, 4, 0xF0, 0xF0, 8, 1⟩) = true ∧
      ready (quadState (.ddy hd ⟨8, 4, 0xF0, 0xF0, 8, 1⟩) 1) (.ddy hd ⟨8, 4, 0xF0, 0xF0, 8, 1⟩) = true ∧
      ready (quadState (.qswz hd ⟨8, 4, 0xF0, 0xF0, 14, 0xF⟩) 3) (.qswz hd ⟨8, 4, 0xF0, 0xF0, 14, 0xF⟩) = true := by
  decide +kernel

/-! ## Control flow and traps -/

/-- A state with registers in its threads. -/
def withRegs (s : State) (rs : Cells 32) : State := withThread s fun t => { t with regs := rs }

/-- A leaf of the placed context's page table, for the page of that index. -/
def mapped (s : State) (index leaf : Nat) : State := { s with mem := writeBytes s.mem (0x14000 + 8 * index) (leBytes 8 leaf) }

/-- A transfer whose target holds a clause header: the placed clause itself. -/
def goesTo (s : State) (i : Instr) (x : DWord) : Bool :=
  ready s i && !(issueOf s).badMask hd && decide ((s.atIssue (threadOf s) hd i).target ((threadOf s).atIssue s.now) x = .ok)

theorem witness_TransfersCheckTargetAndStack_targets :
    let s := mapped (mapped (mapped (placed (.nop hd (xn 0))) 3 0x30083) 4 0x10000000040183) 5 0x50187
    let u := threadOf s
    let pa (x : Nat) : Option Leaf := (s.translate u.ctx x).toOption
    canonical (2 ^ 63) = false ∧ (canonical 0x00FFFFFFFFF80000 = true ∧ inWindow 0x00FFFFFFFFF80000 = true) ∧
      (canonical 0x60000 = true ∧ inWindow 0x60000 = false ∧ pa 0x60000 = none) ∧ (pa 0x30000).map Leaf.x = some false ∧
      (pa 0x40000).map (fun l => (l.x, l.share, l.owner)) = some (true, 0, 1) ∧ (pa 0x50004).map (fun l => (l.x, l.share)) = some (true, 1) ∧
      (pa 0x20000).map (fun l => (l.x, s.poisoned l.pa 8, s.peekNat l.pa 8 / 2 ^ 60 % 16)) = some (true, false, 0xA) := by decide +kernel

theorem witness_TransfersCheckTargetAndStack :
    goesTo (placed (.bra hd ⟨0xF0, 0, 0⟩)) (.bra hd ⟨0xF0, 0, 0⟩) 0x20000 = true ∧
      goesTo (withRegs (placed (.brx hd ⟨4, 0, 1⟩)) [(4, 0x1FFF8)]) (.brx hd ⟨4, 0, 1⟩) 0x20000 = true ∧
      goesTo (placed (.call hd ⟨0xF0, 0, 0⟩)) (.call hd ⟨0xF0, 0, 0⟩) 0x20000 = true ∧
      goesTo (withRegs (placed (.callx hd ⟨4, 0, 0⟩)) [(4, 0x20000)]) (.callx hd ⟨4, 0, 0⟩) 0x20000 = true ∧
      goesTo (withThread (placed (.ret hd ⟨0xF0, 0, 0⟩)) fun t => { t with stack := [0x20000] }) (.ret hd ⟨0xF0, 0, 0⟩) 0x20000 = true ∧
      ([] : List DWord).length < 8 := by decide +kernel

theorem witness_TransfersCheckTargetAndStack_limits :
    let full (t : Thread) : Thread := { t with stack := List.replicate 8 0x20000, regs := [(4, 0x20000)] }
    goesTo (withThread (placed (.call hd ⟨0xF0, 0, 0⟩)) full) (.call hd ⟨0xF0, 0, 0⟩) 0x20000 = true ∧
      goesTo (withThread (placed (.callx hd ⟨4, 0, 0⟩)) full) (.callx hd ⟨4, 0, 0⟩) 0x20000 = true ∧
      (threadOf (withThread (placed (.callx hd ⟨4, 0, 0⟩)) full)).spillSize < 8 * (0 + 1) ∧ runs (.ret hd ⟨0xF0, 0, 0⟩) = true := by
  decide +kernel

/-- An operation in flight of the placed thread. -/
def flight (g : Stage) (dst : List Nat) (slot : Option Nat) : Op :=
  { id := 9, tid := 2, team := 1, launch := 0, ctx := 0, col := 0, core := 0, pc := 0x20008, lane := 0, place := 0, item := 0, slot := slot
    dst := dst, issued := 0, stroke := 3, stage := g }

theorem witness_TrapsSaveAndEnterHandler :
    let s := placed (.nop hd (xn 0))
    let inside (t : Thread) : Thread := { t with inHandler := true, trapPc := 0x20010, trapHead := 0x20010, regs := [(4, 0x20000)] }
    let inside' (t : Thread) : Thread := { t with inHandler := true, trapPc := 0x20010, trapHead := 0x20000 }
    (s.slotsClear 2 = true ∧ (threadOf s).inHandler = false) ∧ { s with ops := [flight (.ready [] false) [] (some 3)] }.slotsClear 2 = false ∧
      runs (.trap hd ⟨0xF0, 4, 0xF0, 0xF0, 0⟩) = true ∧ runs (.trap hd (xn 0)) = true ∧ runs (.brk hd (xn 17)) = true ∧
      goesTo (withThread (placed (.tret hd ⟨0xF0, 4, 0xF0, 0xF0, 0⟩)) inside) (.tret hd ⟨0xF0, 4, 0xF0, 0xF0, 0⟩) 0x20000 = true ∧
      ready (withThread (placed (.tret hd (xn 0))) inside') (.tret hd (xn 0)) = true ∧
      ([Instr.trap hd (xn 0), .tret hd (xn 0)].all fun i => !(issueOf (placed i)).badMask hd) = true ∧ runs (.tret hd (xn 0)) = true ∧
      (threadOf (placed (.unlistedOpcodeIssue (0x1FF <<< 55)))).pending = [] ∧
      [Instr.tinfo hd ⟨8, 0xF0, 0xF0, 0xF0, 0⟩, Instr.tinfo hd ⟨8, 0xF0, 0xF0, 0xF0, 1⟩, Instr.tinfo hd ⟨8, 0xF0, 0xF0, 0xF0, 2⟩,
        Instr.rdtime hd ⟨8, 0xF0, 0xF0, 0xF0, 0⟩].all runs = true := by decide +kernel

/-! ## Memory -/

/-- The conditions of `AtScratch`, computed. -/
def atScratchB (s : State) (u : Thread) (x : Access) (align : Nat) (tm : Team) : Bool :=
  decide (s.team? u.team = some tm) && inWindow x.va.toNat && decide (x.va.toNat + x.act.width ≤ windowBase + tm.scratchSize) &&
    decide (align ≠ 0 → x.va.toNat % align = 0) && !s.lockConflict u.team .scratch (x.va.toNat - windowBase) x.act.width x.act.writes &&
    !s.mustFollow u.id x

theorem atScratch_of {s : State} {u : Thread} {x : Access} {align : Nat} {tm : Team} (e : atScratchB s u x align tm = true) :
    AtScratch s u x align tm := by
  simp only [atScratchB, Bool.and_eq_true, decide_eq_true_eq, Bool.not_eq_true'] at e
  obtain ⟨⟨⟨⟨⟨h1, h2⟩, h3⟩, h4⟩, h5⟩, h6⟩ := e
  exact ⟨h1, h2, h3, h4, h5, h6⟩

/-- The conditions of `AtColumn`, computed for a line without scope record or reduction's tag. -/
def atColumnB (s : State) (c : Issue) (u : Thread) (x : Access) (align : Nat) (l : Leaf) : Bool :=
  canonical x.va && !inWindow x.va.toNat && decide (align ≠ 0 → x.va.toNat % align = 0) &&
    !s.lockConflict u.team .memory x.va.toNat x.act.width x.act.writes && decide ((s.pageAt c u.ctx x.va.toNat).toOption = some l) &&
    decide (l.share = 0 ∧ l.owner = u.col ∧ l.cls = 0 ∧ regionOf l.pa = 0) && decide (x.act.writes = true → l.w = true) &&
    (s.scopeRecord u.ctx u.col (l.pa / 128)).isNone && (s.tagAt u.ctx (x.va.toNat / 32)).isNone && !s.mustFollow u.id x &&
    (s.copy? u.col (l.pa / 128)).isNone && (s.owner? (l.pa / 128)).isNone && !s.poisoned l.pa x.act.width

theorem atColumn_of {s : State} {c : Issue} {u : Thread} {x : Access} {align : Nat} {l : Leaf} (e : atColumnB s c u x align l = true) :
    AtColumn s c u x align l := by
  simp only [atColumnB, Bool.and_eq_true, decide_eq_true_eq, Bool.not_eq_true', Option.isNone_iff_eq_none] at e
  obtain ⟨⟨⟨⟨⟨⟨⟨⟨⟨⟨⟨⟨h1, h2⟩, h3⟩, h4⟩, h5⟩, h6⟩, h7⟩, h8⟩, h9⟩, h10⟩, h11⟩, h12⟩, h13⟩ := e
  obtain ⟨a, b, d, f⟩ := h6
  refine ⟨h1, h2, h3, h4, ?_, a, b, d, f, h7, ?_, ?_, h10, h11, h12, h13⟩
  · cases e : s.pageAt c u.ctx x.va.toNat with
    | error x => rw [e] at h5; cases h5
    | ok y => rw [e] at h5; cases h5; rfl
  · intro r hr; rw [h8] at hr; cases hr
  · intro g hg; rw [h9] at hg; cases hg

/-- A team whose scratchpad holds a barrier object that expects one arrival. -/
def barrierTeam (t : Team) : Team := { t with scratch := writeBytes [] 0 (leBytes 8 (2 ^ 24 + 1)) }

/-- The instruction placed with the pair v4 at the scratchpad's base and one in v6. -/
def inScratch (i : Instr) : State := withTeam (withRegs (placed i) [(4, 0xFFF80000), (5, 0x00FFFFFF), (6, 1)]) barrierTeam

/-- The instruction placed with the pair v4 at a page of the thread's own column, which holds a barrier object, and one in v6. -/
def inColumn (i : Instr) : State :=
  let s := mapped (withRegs (placed i) [(4, 0x30000), (6, 1)]) 3 0x30183
  { s with mem := writeBytes s.mem 0x30000 (leBytes 8 (2 ^ 24 + 1)) }

/-- The accesses of the memory instructions under their statements, for the placed thread. -/
def accessOf (s : State) : Instr → Option (Access × Nat)
  | .ld _ o => some (loadAccess (threadOf s) o 0, widBytes o.wid)
  | .ldro _ o => some (loadAccess (threadOf s) o 1, widBytes o.wid)
  | .ldw _ o => some (loadAccess (threadOf s) o 2, widBytes o.wid)
  | .st _ o => some (⟨.store (storeBytes s (threadOf s) o), effAddr (threadOf s) o, o.ord.toNat⟩, widBytes o.wid)
  | .atom _ p => some (⟨.atomic (fnAop p.fn) (fnAty p.fn) (atomSrc s (threadOf s) p p.b) 0 (atomDst p), (threadOf s).pair p.a.toNat, fnOrd p.fn⟩,
      atomAlign p)
  | .cas _ p => some (⟨.atomic 7 (fnAty p.fn) (atomSrc s (threadOf s) p p.c) (atomSrc s (threadOf s) p p.b) (atomDst p),
      (threadOf s).pair p.a.toNat, fnOrd p.fn⟩, atomAlign p)
  | .red _ p => some (⟨.red (fnAop p.fn) (fnAty p.fn) (atomSrc s (threadOf s) p p.b), (threadOf s).pair p.a.toNat, fnOrd p.fn⟩, atomAlign p)
  | .xadd _ p => some (⟨.xadd (srcWord s (threadOf s) p.b), (threadOf s).pair p.a.toNat, fnOrd p.fn⟩, 64)
  | .xrd _ p => some (⟨.xrd (p.fn.extractLsb' 5 2).toNat (p.fn.getLsbD 4) (wordRegs p.d), (threadOf s).pair p.a.toNat, fnOrd p.fn⟩, 64)
  | .mbarr _ p => some (⟨.mbarr (srcWord s (threadOf s) p.b), (threadOf s).pair p.a.toNat, 0⟩, 8)
  | _ => none

/-- The memory instructions of the witnesses, at the address in v4. -/
def accesses : List Instr :=
  [.ld hv ⟨8, 4, 0xF0, 0, 0⟩, .ld hv ⟨8, 4, 0xD4, 4080, 0⟩, .ld hv ⟨8, 4, 0x80, 3, 0⟩, .ldro hv ⟨8, 4, 0xF0, 0, 0⟩, .ldw hv ⟨8, 4, 0xF0, 0, 0⟩,
    .st hd ⟨6, 4, 0xF0, 0, 0⟩, .st hd ⟨6, 4, 0xC8, 8, 0⟩, .atom hv ⟨8, 4, 6, 0xF0, 0x200⟩, .atom hv ⟨8, 4, 6, 0xF0, 0x2C⟩,
    .cas hv ⟨8, 4, 6, 10, 0⟩, .red hd ⟨0xF0, 4, 6, 0xF0, 0⟩, .xadd hd ⟨0xF0, 4, 6, 0xF0, 0⟩, .xrd hv ⟨8, 4, 0xF0, 0xF0, 0x10⟩, .mbarr hd ⟨0xF0, 4, 6, 0xF0, 0⟩]

theorem witness_ScratchpadAccessesPerform :
    accesses.all (fun i =>
      let s := inScratch i
      let tm := barrierTeam placedTeam
      ready s i && !(issueOf s).inGroup && !((threadOf s).atIssue s.now).helper && match accessOf s i with
        | some (x, n) => atScratchB s ((threadOf s).atIssue s.now) x n tm && decide (tm.scratchPoison = []) &&
            !(x.act.apply (readBytes tm.scratch (x.va.toNat - windowBase) x.act.width)).misuse
        | none => false) = true := by decide +kernel

/-- The leaf of that page at the address in v4. -/
def columnLeaf : Leaf :=
  { pa := 0x30000, size := 65536, owner := 0, mig := 0, x := true, w := true, cls := 0, share := 0, entryAt := 0x14018, va := 0x30000 }

theorem witness_ColumnAccessesPerform :
    accesses.all (fun i =>
      let s := inColumn i
      ready s i && !(issueOf s).inGroup && !((threadOf s).atIssue s.now).helper && match accessOf s i with
        | some (x, n) =>
          let l := { columnLeaf with pa := x.va.toNat, va := x.va.toNat }
          atColumnB s (issueOf s) ((threadOf s).atIssue s.now) x n l && !(x.act.apply (readBytes s.mem l.pa x.act.width)).misuse
        | none => false) = true := by decide +kernel

/-! The other cases of those two statements: pages of SHARE PACKAGE and SYSTEM, faults, helper threads. -/

/-- The conditions of `AtShared`, computed for a line without scope record or reduction's tag. -/
def atSharedB (s : State) (c : Issue) (u : Thread) (x : Access) (align : Nat) (l : Leaf) : Bool :=
  canonical x.va && !inWindow x.va.toNat && decide (align ≠ 0 → x.va.toNat % align = 0) &&
    !s.lockConflict u.team .memory x.va.toNat x.act.width x.act.writes && decide ((s.pageAt c u.ctx x.va.toNat).toOption = some l) &&
    decide ((l.share = 1 ∨ l.share = 2) ∧ l.cls = 0 ∧ regionOf l.pa = 0) && decide (x.act.writes = true → l.w = true) &&
    (s.scopeRecord u.ctx u.col (l.pa / 128)).isNone && (s.tagAt u.ctx (x.va.toNat / 32)).isNone && !s.mustFollow u.id x

theorem atShared_of {s : State} {c : Issue} {u : Thread} {x : Access} {align : Nat} {l : Leaf} (e : atSharedB s c u x align l = true) :
    AtShared s c u x align l := by
  simp only [atSharedB, Bool.and_eq_true, decide_eq_true_eq, Bool.not_eq_true', Option.isNone_iff_eq_none] at e
  obtain ⟨⟨⟨⟨⟨⟨⟨⟨⟨h1, h2⟩, h3⟩, h4⟩, h5⟩, h6⟩, h7⟩, h8⟩, h9⟩, h10⟩ := e
  refine ⟨h1, h2, h3, h4, ?_, h6.1, h6.2.1, h6.2.2, h7, ?_, ?_, h10⟩
  · cases e : s.pageAt c u.ctx x.va.toNat with
    | error x => rw [e] at h5; cases h5
    | ok y => rw [e] at h5; cases h5; rfl
  · intro r hr; rw [h8] at hr; cases hr
  · intro g hg; rw [h9] at hg; cases hg

/-- The instruction placed with the pair v4 at a page with that leaf, which holds a barrier object, and one in v6. -/
def onPage (i : Instr) (leaf : Nat) : State :=
  let s := mapped (withRegs (placed i) [(4, 0x30000), (6, 1)]) 3 leaf
  { s with mem := writeBytes s.mem 0x30000 (leBytes 8 (2 ^ 24 + 1)) }

/-- A column's copy of the line at v4. -/
def lineCopy (owned : Bool) : LineCopy :=
  { col := 0, line := 0x600, ctx := 0, bytes := List.replicate 128 0, dirty := 0, owned := owned, managed := false, sealedInk := false
    stamp := 0, poison := 0, since := 0 }

/-- With that copy held, and its owner on record if it is owned. -/
def holdingCopy (s : State) (owned : Bool) : State :=
  { s with caches := { s.caches with copies := [lineCopy owned] } }

/-- The access of an instruction in a state lies on its SHARE PACKAGE or SYSTEM page. -/
def sharedAt (s : State) (i : Instr) (share : Nat) (p : Access → Leaf → Bool) : Bool :=
  ready s i && !(issueOf s).inGroup && !((threadOf s).atIssue s.now).helper && match accessOf s i with
    | some (x, n) =>
      let l := { columnLeaf with pa := x.va.toNat, va := x.va.toNat, share := share }
      atSharedB s (issueOf s) ((threadOf s).atIssue s.now) x n l && !(x.act.apply (readBytes s.mem l.pa x.act.width)).misuse && p x l
    | none => false

theorem witness_ColumnAccessesPerform_shares :
    let away (s : State) (l : Leaf) : Bool := (s.copy? 0 (l.pa / 128)).isNone && (s.owner? (l.pa / 128)).isNone
    (accesses.all fun i => sharedAt (onPage i 0x3018B) i 2 fun x l => away (onPage i 0x3018B) l &&
      !(onPage i 0x3018B).poisoned l.pa x.act.width && (onPage i 0x3018B).caches.copies.isEmpty) = true ∧
      (accesses.all fun i => sharedAt (onPage i 0x30187) i 1 fun _ l => away (onPage i 0x30187) l) = true ∧
      ([Instr.ld hv ⟨8, 4, 0xF0, 0, 0⟩, .ldw hv ⟨8, 4, 0xF0, 0, 0⟩].all fun i =>
        sharedAt (holdingCopy (onPage i 0x3018B) false) i 2 fun x l =>
          decide ((holdingCopy (onPage i 0x3018B) false).copy? 0 (l.pa / 128) = some (lineCopy false)) && x.act.isLoad && !x.acquires &&
            !(lineCopy false).marked (l.pa % 128) x.act.width) = true ∧
      (let i := Instr.st hd ⟨6, 4, 0xF0, 0, 0⟩
       sharedAt (holdingCopy (onPage i 0x30187) true) i 1 fun _ l =>
         decide ((holdingCopy (onPage i 0x30187) true).copy? 0 (l.pa / 128) = some (lineCopy true)) && (lineCopy true).owned) = true := by
  decide +kernel

/-- Those at the address itself. -/
def plain : List Instr := accesses.filter fun i => match accessOf (withRegs (placed i) [(4, 64)]) i with
  | some (x, _) => x.va = 64
  | none => false

/-- A range of the placed team's addresses that a copy of it writes. -/
def locked (s : State) (space : Space) (lo : Nat) : State := { s with locks := [⟨0, 0, 1, 5, space, lo, lo + 64, true⟩] }

theorem witness_ScratchpadAccessesPerform_faults :
    let at_ (lo hi : Word) (f : State → State) (p : State → Access → Nat → Bool) : Bool := plain.all fun i =>
      let s := f (withTeam (withRegs (placed i) [(4, lo), (5, hi), (6, 1)]) barrierTeam)
      ready s i && decide (s.team? 1 = some (barrierTeam placedTeam)) && match accessOf s i with
        | some (x, n) => p s x n
        | none => false
    let size := windowBase + placedTeam.scratchSize
    let inside (x : Access) : Bool := canonical x.va && inWindow x.va.toNat
    at_ 0 0x80000000 id (fun _ x _ => !canonical x.va) = true ∧
      at_ 0xFFF81000 0x00FFFFFF id (fun _ x _ => inside x && decide (size < x.va.toNat + x.act.width)) = true ∧
      at_ 0xFFF80001 0x00FFFFFF id (fun _ x n =>
        inside x && decide (x.va.toNat + x.act.width ≤ size) && (decide (x.va.toNat % n ≠ 0) || decide (n = 1))) = true ∧
      at_ 0xFFF80000 0x00FFFFFF (fun s => locked s .scratch 0) (fun s x n =>
        inside x && decide (x.va.toNat + x.act.width ≤ size) && decide (x.va.toNat % n = 0) &&
          s.lockConflict 1 .scratch (x.va.toNat - windowBase) x.act.width x.act.writes) = true := by decide +kernel

/-- Its thread is a helper (R126). -/
def asHelper (s : State) : State := withThread s fun t => { t with helper := true }

theorem witness_ScratchpadAccessesPerform_helper :
    ([Instr.st hd ⟨6, 4, 0xF0, 0, 0⟩, .red hd ⟨0xF0, 4, 6, 0xF0, 0⟩, .xadd hd ⟨0xF0, 4, 6, 0xF0, 0⟩, .mbarr hd ⟨0xF0, 4, 6, 0xF0, 0⟩,
      .atom hv ⟨8, 4, 6, 0xF0, 0x200⟩, .cas hv ⟨8, 4, 6, 10, 0⟩, .xrd hv ⟨8, 4, 0xF0, 0xF0, 0x10⟩].all fun i =>
        ready (asHelper (inScratch i)) i && ((threadOf (asHelper (inScratch i))).atIssue 0).helper) = true := by decide +kernel

theorem witness_ColumnAccessesPerform_faults :
    let at_ (lo : Word) (leaf : Nat) (f : State → State) (p : State → Access → Nat → Except WalkFail Leaf → Bool) : Bool :=
      plain.all fun i =>
        let s := f (mapped (withRegs (placed i) [(4, lo), (6, 1)]) 3 leaf)
        ready s i && match accessOf s i with
          | some (x, n) => canonical x.va && !inWindow x.va.toNat && p s x n (s.pageAt (issueOf s) 0 x.va.toNat)
          | none => false
    let open_ (s : State) (x : Access) (n : Nat) (page : Except WalkFail Leaf) : Bool := decide (x.va.toNat % n = 0) &&
      !(onDevicePage page && !x.act.deviceOk) && !s.lockConflict 1 .memory x.va.toNat x.act.width x.act.writes
    let leafIs (page : Except WalkFail Leaf) (q : Leaf → Bool) : Bool := page.toOption.any q
    let ours (l : Leaf) : Bool := decide (l.share ≠ 0 ∨ l.owner = 0)
    at_ 0x30001 0x30183 id (fun _ x n _ => decide (x.va.toNat % n ≠ 0) || decide (n = 1)) = true ∧
      at_ 0x30000 0x4000000000B3 id (fun _ x n page =>
        decide (x.va.toNat % n = 0) && onDevicePage page && (decide (x.act.deviceOk = false) || decide (x.act.width ≤ 8))) = true ∧
      at_ 0x30000 0x30183 (fun s => locked s .memory 0x30000) (fun s x n page =>
        decide (x.va.toNat % n = 0) && !onDevicePage page && s.lockConflict 1 .memory x.va.toNat x.act.width x.act.writes) = true ∧
      at_ 0x30000 0 id (fun s x n page => open_ s x n page && page.toOption.isNone && !s.logFull (threadOf s) 0 x.va) = true ∧
      at_ 0x30000 0x30103 id (fun s x n page => open_ s x n page && leafIs page fun l => !l.w && decide (l.cls ≠ 1)) = true ∧
      at_ 0x30000 0x10000000030183 id (fun s x n page => open_ s x n page && leafIs page fun l => l.w && !ours l &&
        !s.reportHeld (threadOf s).actor l x.synchronises) = true ∧
      at_ 0x30000 0x30193 id (fun s x n page => open_ s x n page && leafIs page fun l =>
        ours l && !s.reportHeld (threadOf s).actor l x.synchronises && decide (x.act.writes = true → l.cls = 1)) = true ∧
      at_ 0x30000 0x30187 (fun s => { s with caches := { s.caches with scopes := [⟨0, 0, 0x600, 2⟩] } }) (fun s x n page =>
        open_ s x n page && leafIs page fun l => ours l && decide (l.cls = 0) && !s.reportHeld (threadOf s).actor l x.synchronises &&
          decide (s.scopeRecord 0 0 (l.pa / 128) = some 2 ∧ l.share = 1 ∧ (s.context 0).smrep = false)) = true ∧
      (accesses.any fun i => (accessOf (placed i) i).any fun p => p.1.synchronises) = true := by decide +kernel

/-- A thread with so many entries of its return stack held and spilled, and its spill area of 16 bytes at an address. -/
def stacked (i : Instr) (held spills : Nat) (window : DWord) : State :=
  let s := withThread (onPage i 0x30183) fun t =>
    { t with stack := List.replicate held 0x20000, spills := spills, spillSize := 16, window := window, regs := [(4, 0x20000)] }
  let s := withTeam s fun t => { t with scratch := writeBytes [] 0 (leBytes 8 0x20000) }
  { s with mem := writeBytes s.mem 0x30000 (leBytes 8 0x20000) }

theorem witness_TransfersCheckTargetAndStack_spills :
    let push (s : State) : Access := ⟨.store (leBytes 8 0x20000), (threadOf s).window + BitVec.ofNat 64 (8 * (threadOf s).spills), 0⟩
    let pop (s : State) : Access := ⟨.load 8 false [] 0, (threadOf s).window + BitVec.ofNat 64 (8 * ((threadOf s).spills - 1)), 0⟩
    let inTeam (s : State) (x : Access) : Bool := (s.team? 1).any fun tm => atScratchB s ((threadOf s).atIssue 0) x 8 tm && tm.scratchPoison.isEmpty
    let inOwn (s : State) (x : Access) : Bool :=
      let l := { columnLeaf with pa := x.va.toNat, va := x.va.toNat }
      atColumnB s (issueOf s) ((threadOf s).atIssue 0) x 8 l && decide ((s.translate 0 x.va.toNat).toOption = some l)
    let base : DWord := 0x00FFFFFFFFF80000
    ([Instr.call hd ⟨0xF0, 0, 0⟩, .callx hd ⟨4, 0, 0⟩].all fun i => [0, 1].all fun n => [base, 0x30000].all fun w =>
        let s := stacked i 8 n w
        goesTo s i 0x20000 && decide ((threadOf s).stack.length = 8 ∧ 8 * (n + 1) ≤ (threadOf s).spillSize) &&
          if w = base then inTeam s (push s) else inOwn s (push s)) = true ∧
      ([base, 0x30000].all fun w =>
        let i := Instr.ret hd ⟨0xF0, 0, 0⟩
        let s := stacked i 0 1 w
        goesTo s i 0x20000 && (threadOf s).stack.isEmpty && if w = base then inTeam s (pop s) else inOwn s (pop s)) = true := by decide +kernel

theorem witness_AddressesAndActionsOnBytes :
    ([0xFF] : List Byte).length < 4 ∧ 0 < ([0xFF] : List Byte).length ∧ (List.replicate 16 (0 : Byte)).length = 4 * 4 ∧
      ([1, 2, 3, 4] : List Byte).length = 4 := by decide +kernel

/-- A fence placed with the pair v4 at an address. -/
def fenceAt (b : BitVec 8) (lo hi : Word) : State := withRegs (placed (.fence hd ⟨0xF0, 4, b, 0, 0⟩)) [(4, lo), (5, hi)]

/-- The scope record of the placed page's first line. -/
def withScope (s : State) : State := { s with caches := { s.caches with scopes := [⟨0, 0, 0x400, 1⟩] } }

/-- A managed copy of a line of the page that the next state maps. -/
def managedCopy : LineCopy :=
  { col := 0, line := 0x600, ctx := 0, bytes := List.replicate 128 7, dirty := 3, owned := false, managed := true, sealedInk := false, stamp := 0
    poison := 0, since := 0 }

/-- The instruction placed with the pair v4 at a MANAGED page with one copy, and 128 in v6. -/
def inManaged (i : Instr) : State :=
  let s := mapped (withRegs (placed i) [(4, 0x30000), (6, 128)]) 3 0x301A3
  { s with caches := { s.caches with copies := [managedCopy] } }

theorem witness_FencesAndMaintenanceComplete :
    runs (.pref hd ⟨0xF0, 4, 0xF0, 0, 0⟩) = true ∧
      (let s := fenceAt 0xFC 0xFFF80FFF 0x00FFFFFF
       ready s (.fence hd ⟨0xF0, 4, 0xFC, 0, 0⟩) = true ∧ s.team? 1 = some placedTeam ∧ inWindow 0x00FFFFFFFFF80FFF = true ∧
         0x00FFFFFFFFF80FFF < windowBase + placedTeam.scratchSize ∧ (threadOf s).accessFault = false ∧ s.unperformed 2 = false) ∧
      ([0xF4, 0xF8, 0xFC].all fun b =>
        let s := withScope (fenceAt b 0x20000 0)
        ready s (.fence hd ⟨0xF0, 4, b, 0, 0⟩) && decide ((s.translate 0 0x20000).toOption.map (fun l => (l.cls, l.share, l.pa)) = some (0, 1, 0x20000)) &&
          decide (s.scopeRecord 0 0 0x400 = some 1) && !s.unperformed 2) = true ∧
      ready (withThread (placed (.wbr hd ⟨0xF0, 4, 6, 0xF0, 0⟩)) fun t => { t with helper := true }) (.wbr hd ⟨0xF0, 4, 6, 0xF0, 0⟩) = true ∧
      (runs (.invr hd ⟨0xF0, 4, 0xF0, 0xF0, 0⟩) = true ∧ srcWord (placed (.invr hd ⟨0xF0, 4, 0xF0, 0xF0, 0⟩)) (threadOf (placed (.nop hd (xn 0)))) 0xF0 = 0) ∧
      ([Instr.wbr hd ⟨0xF0, 4, 6, 0xF0, 0⟩, .invr hd ⟨0xF0, 4, 6, 0xF0, 0⟩].all fun i =>
        let s := inManaged i
        ready s i && !s.unperformed 2 && canonical 0x30000 && decide ((s.translate 0 0x30000).toOption.map (fun l => (l.cls, l.pa)) = some (2, 0x30000)) &&
          decide (s.caches.copies = [managedCopy]) && decide (managedCopy.line * 128 = 0x30000 + 0)) = true := by decide +kernel

/-- The state with its clause of class AGRP, with a `tcom` after the word. -/
def grouped (s : State) : State :=
  { s with cur := s.cur.map fun c => { c with clause := { c.clause with
      header := BitVec.ofNat 64 (0xA * 2 ^ 60 + 1 * 2 ^ 56 + 6 * 2 ^ 53), words := c.clause.words.take 1 ++ [encX 0x0E8 hd ⟨0, 0xF0, 0xF0, 0xF0, 0⟩] } } }

/-- A `tcom` placed, with its thread's atomic group. -/
def committing (g : Option Group) (helper : Bool) : State :=
  withThread (mapped (placed (.tcom hd ⟨1, 0xF0, 0xF0, 0xF0, 0⟩)) 3 0x30183) fun t => { t with group := g, helper := helper }

/-- A group with lines of one page, aborted or not. -/
def groupOf (lines : List Nat) (stores : List (DWord × List Byte × Leaf)) (aborted : Bool) : Group :=
  { lines := lines, stores := stores, aborted := aborted, share := 1 }

theorem witness_AtomicGroupsBufferAndCommit_accesses :
    (let i := Instr.st hd ⟨6, 4, 0xF0, 0, 0⟩
     let s (g : Option Group) := withThread (grouped (inColumn i)) fun t => { t with group := g }
     [none, some (groupOf [1, 2, 3, 0x600] [] false), some (groupOf [1, 2, 3, 4] [] false)].all (fun g =>
       ready (s g) i && (issueOf (s g)).inGroup && !((threadOf (s g)).atIssue 0).helper &&
       atColumnB (s g) (issueOf (s g)) ((threadOf (s g)).atIssue 0) ⟨.store (storeBytes (s g) (threadOf (s g)) ⟨6, 4, 0xF0, 0, 0⟩), 0x30000, 0⟩ 4 columnLeaf &&
       decide ((storeBytes (s g) (threadOf (s g)) ⟨6, 4, 0xF0, 0, 0⟩).length = 4) && decide (((issueOf (s g)).next hd).2 = (issueOf (s g)).clause.head)) = true) ∧
      0x30000 / 128 ∈ [1, 2, 3, 0x600] ∧ ¬(0x30000 / 128 ∈ [1, 2, 3, 4] ∨ [1, 2, 3, 4].length < 4) ∧
      (let i := Instr.ld hv ⟨8, 4, 0xF0, 0, 0⟩
       let s := grouped (inColumn i)
       ready s i = true ∧ (issueOf s).inGroup = true ∧
         atColumnB s (issueOf s) ((threadOf s).atIssue 0) (loadAccess (threadOf s) ⟨8, 4, 0xF0, 0, 0⟩ 0) 4 columnLeaf = true) := by decide +kernel

theorem witness_AtomicGroupsBufferAndCommit :
    let i := Instr.tcom hd ⟨1, 0xF0, 0xF0, 0xF0, 0⟩
    let one := groupOf [0x600] [(0x30000, [1, 2, 3, 4], columnLeaf)] false
    ([committing none true, committing none false, committing (some (groupOf [] [] true)) false, committing (some (groupOf [] [] false)) false,
        committing (some one) false].all fun s => ready s i && !s.unperformed 2) = true ∧
      (let s := withThread (committing (some (groupOf [] [] true)) false) fun t => { t with aborts := 255, abortAt := 0x20000 }
       ready s i = true ∧ (issueOf s).clause.head = 0x20000) ∧
      (let s := { committing (some one) false with ops := [flight (.appendRequest 0 []) [] none] }
       ready s i = true ∧ s.unperformed 2 = true) ∧
      (let s := committing (some one) false
       atColumnB s (issueOf s) ((threadOf s).atIssue 0) ⟨.store [1, 2, 3, 4], 0x30000, 0⟩ 0 columnLeaf = true ∧
         (s.translate 0 0x30000).toOption = some columnLeaf) := by decide +kernel

/-! ## Ink -/

/-- A region of one page, in a state of it. -/
def region (rstate : Nat) : InkRegion :=
  { ctx := 0, region := 4, base := 0x60000, limit := 65536, tail := 64, rmask := 0, home := 0, share := 1, rstate := rstate, closing := 0
    acks := [], peers := [], leaving := false, retired := false, reservations := [], lost := [] }

/-- The instruction placed with the pair v4 at a page of that region. -/
def inInk (i : Instr) (r : InkRegion) (share : Nat) : State :=
  { mapped (withRegs (placed i) [(4, 0x60000)]) 6 (0x60193 + 4 * share) with inks := [r] }

/-- The address in v4 lies on an INK page of the region, and no earlier access of the thread comes first. -/
def atInk (s : State) (r : InkRegion) (share : Nat) : Bool :=
  decide ((s.translate 0 0x60000).toOption.map (fun l => (l.cls, l.share, l.owner)) = some (1, share, 0)) && decide (s.inkAt 0 0x60000 = some r) &&
    s.ops.isEmpty

theorem witness_InkInstructionsByRegionState :
    ([Instr.seal hd ⟨0xF0, 4, 0xF0, 0xF0, 0⟩, .inkfree hd ⟨0xF0, 4, 0xF0, 0xF0, 0⟩, .append hv ⟨8, 4, 12, 0xF0, 16⟩].all fun i =>
        ready (withThread (placed i) fun t => { t with helper := true }) i) = true ∧
      ([Instr.append hv ⟨8, 4, 12, 0xF0, 1⟩, .inkstat hv ⟨8, 4, 0xF0, 0xF0, 0⟩].all fun i =>
        ready (inInk i (region 0) 1) i && atInk (inInk i (region 0) 1) (region 0) 1) = true ∧
      ready (withRegs (placed (.inkstat hv ⟨8, 4, 0xF0, 0xF0, 0⟩)) [(4, 0xFFF80000), (5, 0x00FFFFFF)]) (.inkstat hv ⟨8, 4, 0xF0, 0xF0, 0⟩) = true ∧
      ([0, 1, 2].all fun n =>
        let i := Instr.seal hd ⟨0xF0, 4, 0xF0, 0xF0, 0⟩
        let j := Instr.inkfree hd ⟨0xF0, 4, 0xF0, 0xF0, 0⟩
        ready (inInk i (region n) 1) i && atInk (inInk i (region n) 1) (region n) 1 && ready (inInk i (region n) 0) i &&
          atInk (inInk i (region n) 0) (region n) 0 && ready (inInk j (region n) 1) j && atInk (inInk j (region n) 1) (region n) 1 &&
          !(inInk j (region n) 1).requestHeld 2 4) = true ∧
      (let j := Instr.inkfree hd ⟨0xF0, 4, 0xF0, 0xF0, 0⟩
       let k := { inInk j (region 1) 1 with ops := [flight (.behind ⟨.load 4 false [8] 0, 0x30000, 0⟩ none) [8] (some 3)] }
       (ready k j && atInk { k with ops := [] } (region 1) 1 && k.requestHeld 2 4) = true) := by
  decide +kernel

/-- No earlier access of a thread comes first where nothing of it is in flight. -/
theorem witness_InkInstructionsByRegionState_follow :
    ∀ x : Access, x.va = 0x60000 → x.ord = 0 → (inInk (.append hv ⟨8, 4, 12, 0xF0, 1⟩) (region 0) 1).mustFollow 2 x = false := by
  intro x _ _
  rfl

/-- A state with one operation in flight and one region, whose page is mapped. -/
def atHome (g : Stage) (r : InkRegion) (now : Nat) : State :=
  { mapped (placed (.nop hd (xn 0))) 6 0x60197 with ops := [flight g [8] (some 3)], inks := [r], now := now }

theorem witness_InkHomeReservesAndLands :
    ([(0, 0, 65536), (1, 0, 65536), (2, 0, 65536), (0, 1, 65536), (0, 2, 65536), (0, 0, 65)].all fun p =>
        let r := { region p.1 with closing := p.2.1, limit := p.2.2 }
        let s := atHome (.appendRequest 0x60000 [1]) r 0
        decide (s.inkAt 0 0x60000 = some r) && decide (s.ink? 0 4 = some r)) = true ∧
      (let r := { region 0 with tail := 65536, reservations := [⟨9, 65472, 64⟩] }
       let s := atHome (.appendData 4 65472 (List.replicate 16 1)) r 0
       s.ink? 0 4 = some r ∧ s.caches.copies = [] ∧ (s.translate 0 (0x60000 + 65472)).toOption.map Leaf.pa = some (0x60000 + 65472) ∧
         (0x60000 + 65472) % 65536 + 4 * 16 ≤ 65536 ∧ { s with poison := [0x6FFE0 / 32] }.poisoned (0x60000 + 65472) 64 = true) ∧
      (atHome (.watermark ⟨.load 4 false [8] 2, 0x60000, 0⟩ columnLeaf) (region 0) 110000).now = 0 + 110000 ∧
      (Action.load 4 false [8] 0).isLoad = true := by decide +kernel

theorem witness_InkSealFreeReplicaEvents :
    (let b : Block := { wait := .sealing 4 false 0x60000, since := 0, next := 0, nextHead := 0, mask := none }
     let s := { withThread (placed (.nop hd (xn 0))) (fun t => { t with block := some b }) with inks := [region 0] }
     s.ops = [] ∧ s.ink? 0 4 = some (region 0) ∧ (s.thread? 2).map (fun t => (t.block, t.parked, t.ctx)) = some (some b, false, 0)) ∧
      ([{ region 2 with retired := false }, { region 2 with retired := true, acks := [3, 31] }, { region 2 with retired := true, acks := [31] }].all fun r =>
        decide ({ State.reset with inks := [r] }.ink? 0 4 = some r)) = true ∧
      [3, 31].filter (· ≠ 31) ≠ [] ∧
      ([{ region 2 with retired := true, acks := [31], peers := [3] }].all fun r => decide (r.peers ≠ [])) = true ∧
      (let r := { region 1 with readers := [(31, 0)] }
       let s := { State.reset with inks := [r] }
       s.ink? 0 4 = some r ∧ r.share ≠ 0 ∧ r.home ≠ 31 ∧ (31, 0) ∈ r.readers ∧ 0 * 65536 < r.limit ∧ s.replicas = [] ∧ 0 < s.poolPages 31) ∧
      ({ State.reset with inks := [region 1] }.sched.launches = [] ∧ (region 1).watermark = (region 1).tail ∧
        { region 0 with reservations := [⟨9, 0, 64⟩] }.watermark ≠ (region 0).tail) ∧
      ({ State.reset with replicas := [⟨31, 0, 4, 0⟩] }.replicas.find? (fun (x : Replica) => x.col = 31) = some ⟨31, 0, 4, 0⟩) ∧
      (let s := { mapped (placed (.nop hd (xn 0))) 6 0x60197 with inks := [region 0] }
       let d := BitVec.ofNat 256 (0x60000 * 2 ^ 192 + 65536 * 2 ^ 160 + 64 * 2 ^ 128 + 1)
       (s.context 0).desc.getLsbD 0 = true ∧ (region 0).keeps d = true) ∧
      (let s := mapped (placed (.nop hd (xn 0))) 6 0x60197
       let d := BitVec.ofNat 256 (0x60000 * 2 ^ 192 + 65536 * 2 ^ 160 + 65536 * 2 ^ 128 + 3)
       (s.context 0).desc.getLsbD 0 = true ∧ s.ink? 0 65535 = none ∧ s.inkDescOk 0 65535 d = true ∧ (s.inkRange 0 0x60000 65536).isSome = true) ∧
      (let off := { State.reset with inkpools := (List.range 32).map fun _ => 0 }
       (off.inkpool 31).getLsbD 0 = false ∧ off.inkpools.length = 32 ∧ (0 : DWord).getLsbD 0 = false ∧ field (0 : DWord) 1 15 = 0 ∧
         field (State.reset.inkpool 31 &&& ~~~1) 16 48 = field (State.reset.inkpool 31) 16 48 ∧ (State.reset.inkpool 31 &&& ~~~1).getLsbD 0 = false ∧
         field (State.reset.inkpool 31 &&& ~~~1) 1 15 = 0 ∧ field (0 : DWord) 16 48 ≠ field (State.reset.inkpool 31) 16 48 ∧ poolOk 31 (inkpoolDefault 31) = true ∧ (inkpoolDefault 31).getLsbD 0 = true ∧
         field (inkpoolDefault 31) 1 15 = 0 ∧ (State.reset.inkpool 31).getLsbD 0 = true ∧ State.reset.inkpools.length = 32) := by decide +kernel

/-! ## Queues, barriers and convergence registers -/

/-- A ring of the placed team, with so many of its four entries full. -/
def ring (entry count : Nat) : Ring := { slots := 4, entry := entry, offset := 0, head := 0, tail := count % 4, count := count, waiters := [] }

/-- The instruction placed with that ring as q0 and another thread of the team that can run. -/
def inQueue (i : Instr) (r : Ring) (helper : Bool) : State :=
  let s := withTeam (withThread (placed i) fun t => { t with helper := helper }) fun t => { t with queues := t.queues.set 0 (some r) }
  { s with threads := s.threads ++ [{ placedTeam.newThread 0 5 1 0 .compute 7 0x20000 with nextIssue := 100 }] }

/-- The ring of the placed team after the others of its line have been served. -/
def servedRing (s : State) (i : Instr) : Option Ring := (((s.atIssue (threadOf s) hd i).serveRing 1 0).team? 1).bind fun t => t.ring 0

/-- The queue instruction issues, the ring takes its operand, and after the others of the line it is in a state. -/
def queueRuns (s : State) (i : Instr) (code : BitVec 8) (r : Ring) (held : Bool) (p : Ring → Bool) : Bool :=
  ready s i && decide (s.ringFor ((threadOf s).atIssue 0) 0 code = some r) && (s.unperformed 2 == held) && (servedRing s i).any p

/-- Another thread of the team stands in a ring's line. -/
def behindOther (i : Instr) (r : Ring) (w : Wait) : State :=
  let s := inQueue i { r with waiters := [5] } false
  { s with threads := s.threads.map fun (t : Thread) =>
      if t.id = 5 then { t with block := some { wait := w, since := 0, next := 0, nextHead := 0, mask := none } } else t }

/-- The forms that push, with room or without, in any kind of thread. -/
def pushes : List Instr := [.qpush hd ⟨0xF0, 8, 0xF0, 0xF0, 0⟩, .qtry hd ⟨0xF0, 8, 0xF0, 1, 0⟩]
/-- The forms that pop. -/
def pops : List Instr := [.qpop hd ⟨8, 0xF0, 0xF0, 0xF0, 0⟩, .qtry hd ⟨8, 0xF0, 0xF0, 1, 16⟩]

theorem witness_QueueInstructionsMoveEntries :
    (pushes.all fun i => [(8, 3), (16, 0), (8, 4), (16, 4)].all fun p => [false, true].all fun helper =>
        queueRuns (inQueue i (ring p.1 p.2) helper) i 8 (ring p.1 p.2) false fun x => x.count == p.2) = true ∧
      (pops.all fun i => [(8, 1), (16, 4), (8, 0), (16, 0)].all fun p => [false, true].all fun helper =>
        queueRuns (inQueue i (ring p.1 p.2) helper) i 8 (ring p.1 p.2) false fun x => x.count == p.2) = true ∧
      ((inQueue (.nop hd (xn 0)) (ring 8 2) false).team? 1).isSome = true ∧ (inQueue (.nop hd (xn 0)) (ring 8 2) false).nextServed (ring 8 2) = none := by
  decide +kernel

theorem witness_QueueInstructionsMoveEntries_lines :
    (pushes.all fun i => queueRuns (behindOther i (ring 8 2) (.qpush 0 [1, 2])) i 8 { ring 8 2 with waiters := [5] } false fun x => x.count == 3) = true ∧
      (pushes.all fun i => queueRuns (behindOther i (ring 8 3) (.qpush 0 [1, 2])) i 8 { ring 8 3 with waiters := [5] } false fun x => x.count == 4) = true ∧
      (pops.all fun i => queueRuns (behindOther i (ring 8 1) (.qpop 0 [])) i 8 { ring 8 1 with waiters := [5] } false fun x => x.count == 0) = true ∧
      (pushes.all fun i =>
        queueRuns { inQueue i (ring 8 2) false with ops := [flight (.appendRequest 0 []) [] none] } i 8 (ring 8 2) true fun _ => true) = true ∧
      (pops.all fun i => [[0], []].all fun marks =>
        let s := withTeam (inQueue i (ring 16 1) false) fun t => { t with scratchPoison := marks }
        ready s i && ((s.team? 1).map fun t => t.headMarked (ring 16 1)) = some !marks.isEmpty) = true := by decide +kernel

/-- The instruction placed with a barrier as b0, a value in v6 and another thread of the team that can run. -/
def inBarrier (i : Instr) (b : Barrier) (n : Word) : State :=
  let s := withTeam (withRegs (placed i) (if n = 0 then [] else [(6, n)])) fun t => { t with barriers := t.barriers.set 0 b }
  { s with threads := s.threads ++ [{ placedTeam.newThread 0 5 1 0 .compute 7 0x20000 with nextIssue := 100 }] }

theorem witness_BarrierInstructionsArriveAndWait :
    let barr := Instr.barr hd ⟨0xF0, 0xF0, 6, 0xF0, 0⟩
    let bwait := Instr.bwait hd ⟨7, 6, 0xF0, 0xF0, 0⟩
    let barrw := Instr.barrw hd ⟨1, 0xF0, 0xF0, 0xF0, 0⟩
    let bcfg := Instr.bcfg hd ⟨0xF0, 6, 0xF0, 0xF0, 0⟩
    ([(barr, (⟨0, 4, 4, false⟩ : Barrier), (0 : Word)), (barr, ⟨0, 0, 0, false⟩, 1), (barr, ⟨65535, 4, 2, true⟩, 1), (barr, ⟨65535, 4, 2, true⟩, 2),
      (bwait, ⟨0, 0, 0, false⟩, 1), (barrw, ⟨0, 0, 0, false⟩, 1), (bwait, ⟨32767, 4, 4, false⟩, 0), (bwait, ⟨32768, 4, 4, false⟩, 0),
      (barrw, ⟨65535, 4, 1, false⟩, 0), (barrw, ⟨65535, 4, 2, false⟩, 0), (bcfg, ⟨0, 0, 0, false⟩, 0), (bcfg, ⟨0, 0, 0, false⟩, 0x1000000),
      (bcfg, ⟨0, 0, 0, false⟩, 0xFFFFFF)].all fun p =>
        let s := inBarrier p.1 p.2.1 p.2.2
        ready s p.1 && decide ((s.team? 1).map (fun t => (t.barrier 0, t.barriers.length, t.marked)) = some (p.2.1, 16, none)) && !s.unperformed 2 &&
          (s.threads.any fun w => decide (w.team = 1) && decide (w.id ≠ 2) && decide (w.block = none))) = true ∧
      ([(barr, (1 : Word)), (barrw, 0)].all fun p =>
        let s := { inBarrier p.1 ⟨0, 4, 4, false⟩ p.2 with ops := [flight (.appendRequest 0 []) [] none] }
        ready s p.1 && s.unperformed 2) = true := by decide +kernel

theorem witness_ObjectWaitsAndConvergence :
    (let i := Instr.mbwait hd ⟨0xF0, 4, 6, 0xF0, 0⟩
     let s (v n : Nat) : State := withTeam (withRegs (placed i) [(4, 0xFFF80FF8), (5, 0x00FFFFFF), (6, BitVec.ofNat 32 n)]) fun t =>
       { t with scratch := writeBytes [] 4088 (leBytes 8 v) }
     ready (s (2 ^ 24) 1) i = true ∧ ready (s (32767 * 2 ^ 48 + 2 ^ 24) 65536) i = true ∧ ready (s (32768 * 2 ^ 48 + 2 ^ 24) 65536) i = true ∧
       ready (s 0 1) i = true ∧ 0x00FFFFFFFFF80FF8 + 8 ≤ windowBase + 4096 ∧
       (s (2 ^ 24) 1).lockConflict 1 .scratch 4088 8 false = false ∧
       (s (2 ^ 24) 1).mustFollow 2 ⟨.load 8 false [] 0, 0x00FFFFFFFFF80FF8, 1⟩ = false) ∧
      ([0, 7].all fun k => [1, 1024].all fun n =>
        let i := Instr.cvarm hd ⟨0xF0, 4, 6, 0xF0, BitVec.ofNat 11 k⟩
        let s := withRegs (placed i) [(4, 0xFFF80000), (5, 0x00FFFFFF), (6, BitVec.ofNat 32 n)]
        ready s i && !s.mustFollow 2 ⟨.load 64 false [] 0, 0x00FFFFFFFFF80000, 0⟩ && !s.lockConflict 1 .scratch 0 64 false) = true ∧
      (let i := Instr.sign hd ⟨0xF0, 0xF0, 0xF0, 0xF0, 7⟩
       let s := withTeam (placed i) fun t => { t with converge := t.converge.set 7 ⟨2, [], 0⟩ }
       ready s i = true ∧ (s.team? 1).map (fun t => (t.converge.getD 7 ⟨0, [], 0⟩).count) = some 2 ∧ s.unperformed 2 = false ∧ runs i = true) := by
  decide +kernel

/-! ## Threads, teams and strokes -/

/-- A spawn bin of the placed thread's core. -/
def bin (index : Nat) (entry : DWord) (n : Nat) : Bin :=
  { col := 0, core := 0, index := index, ctx := 0, entry := entry, requests := List.replicate n ⟨1, [0, 0, 0, 0]⟩, expires := 256, released := false }

theorem witness_SpawnBinsAndExit :
    let i := Instr.spawn hd ⟨0xF0, 4, 8, 0xF0, 0⟩
    let j := Instr.exit hd (xn 0)
    let s := withRegs (placed i) [(4, 0x20000)]
    ready (withThread s fun t => { t with helper := true }) i = true ∧ ready s i = true ∧ s.unperformed 2 = false ∧
      ({ s with bins := [bin 0 0x20000 30] }.bin? 0 0 0 0x20000 = some (bin 0 0x20000 30)) ∧ (bin 0 0x20000 30).requests.length < 31 ∧
      s.bin? 0 0 0 0x20000 = none ∧
      (let full := { s with bins := (List.range 15).map fun k => bin k 0x40000 1 }
       full.bin? 0 0 0 0x20000 = none ∧ (full.bins.all fun x => decide (x.index ≠ 15)) = true ∧
         ((List.range 15).all fun k => full.bins.any fun x => decide (x.index = k)) = true) ∧
      (let late := { s with ops := [flight (.appendRequest 0 []) [] none] }
       ready late i = true ∧ late.unperformed 2 = true) ∧
      (let full := { s with bins := (List.range 16).map fun k => bin k 0x40000 1 }
       ready full i = true ∧ full.bin? 0 0 0 0x20000 = none ∧ ((List.range 16).all fun k => full.bins.any fun x => decide (x.index = k)) = true) ∧
      runs j = true ∧ (placed j).slotsClear 2 = true ∧ 2 < (placed j).nextId ∧ (placed j).writesWait 2 = false ∧
      (let busy := { placed j with ops := [flight (.ready [] false) [] (some 0)] }
       ready busy j = true ∧ busy.slotsClear 2 = false) ∧
      (let inside := withThread { placed j with ops := [flight (.texel ⟨1, 7, [], 0, [], 0x0A⟩) [] none] } fun t => { t with ordered := true }
       ready inside j = true ∧ inside.writesWait 2 = true ∧ inside.slotsClear 2 = true) := by decide +kernel

/-- A trap and a pending fault. -/
def someTrap : Trap := { cause := 0x12, sub := 3, addr := 5, deferred := false, pc := 0x20008, head := 0x20000 }
/-- A deferred fault that is pending. -/
def somePending : PendingFault := { cause := 0x0D, sub := 0, addr := 5, pc := 0x20008, regs := [8], slot := some 3, order := 9, access := true }

/-- `exit` placed with a mask word after it. -/
def exitMask (m : Nat) : State :=
  let i := Instr.exit { hd with sp := true } (xn 0)
  State.reset.withFetchWord 128 (((encode i).getD 0).toNat + m * 2 ^ 64)

/-- The records that are left, and whether the column holds too many, as the placed thread exits. -/
def reported (s : State) : List PendingFault × Bool :=
  let p := (s.atIssue (threadOf s) hd (.exit hd (xn 0))).reportPending ((threadOf s).atIssue s.now)
  (p.2, p.1.recordsOver 0)

theorem witness_SpawnBinsAndExit_exit :
    let j := Instr.exit hd (xn 0)
    let late := Instr.exit { hd with sp := true } (xn 0)
    let behind (n : Nat) (ps : List PendingFault) : State :=
      { withThread (placed j) (fun t => { t with pending := ps }) with heldRecords := List.replicate n ⟨0, 0, [], 0⟩ }
    ready (exitMask (0xB * 2 ^ 60 + 1)) late = true ∧ ((issueOf (exitMask (0xB * 2 ^ 60 + 1))).badMask { hd with sp := true } = true ∧
        (issueOf (exitMask (0xB * 2 ^ 60))).badMask { hd with sp := true } = false) ∧
      ((issueOf (placed j)).badMask hd = false ∧ reported (placed j) = ([], false)) ∧
      (ready (behind 65 []) j = true ∧ reported (behind 65 []) = ([], true) ∧ (behind 65 []).slotsClear 2 = true) ∧
      ready (behind 64 [somePending]) j = true ∧ ((reported (behind 64 [somePending])).1 = [somePending]) := by decide +kernel

/-- The instruction placed with its thread's allotment and registers. -/
def allotted (i : Instr) (n : Nat) (rs : Cells 32) : State := withThread (placed i) fun t => { t with allot := n, regs := rs }

theorem witness_ThreadControlInstructions :
    (let i := Instr.refill hd ⟨6, 0xF0, 0xF0, 0xF0, 0⟩
     ready (withTeam (placed i) fun t => { t with item := 0xFFFFFFFE, itemEnd := 0xFFFFFFFF }) i = true ∧ runs i = true ∧
       (0xFFFFFFFE : Word) < 0xFFFFFFFF ∧ ¬((0 : Word) < 0)) ∧
      ([(7, 1), (1, 7), (0, 7), (6, 1)].all fun p => ready (allotted (.blkget hd (xn (BitVec.ofNat 11 p.2))) p.1 []) (.blkget hd (xn (BitVec.ofNat 11 p.2)))) = true ∧
      (7 < 7 + 1 ∧ 0 + 7 ≤ 7 ∧ 7 ≤ (allotted (.blkget hd (xn 7)) 0 []).blockRoom 0 0 0 ((allotted (.blkget hd (xn 7)) 0 []).claimsOf 1) ∧ (allotted (.blkget hd (xn 7)) 0 []).blkgets = []) ∧
      ([(0, 1), (6, 7), (7, 7), (1, 1)].all fun p => ready (allotted (.blkput hd (xn (BitVec.ofNat 11 p.2))) p.1 []) (.blkput hd (xn (BitVec.ofNat 11 p.2)))) = true ∧
      (cellWf ([(16, 1), (127, 2)] : Cells 32) = true ∧ ready (allotted (.blkput hd (xn 7)) 7 [(16, 1), (127, 2)]) (.blkput hd (xn 7)) = true ∧
        (placed (.blkput hd (xn 7))).leased 2 ((List.range 112).map (16 + ·)) = false) ∧
      [Instr.yield hd (xn 0), .nap hd ⟨0xF0, 6, 0xF0, 0xF0, 0⟩, .sbw hd (xn 255)].all runs = true ∧
      ready (withRegs (placed (.nap hd ⟨0xF0, 6, 0xF0, 0xF0, 0⟩)) [(6, 1)]) (.nap hd ⟨0xF0, 6, 0xF0, 0xF0, 0⟩) = true ∧
      (let s := { placed (.sbw hd (xn 8)) with ops := [flight (.ready [] false) [] (some 3)] }
       ready s (.sbw hd (xn 8)) = true ∧ s.maskClear 2 8 = false ∧ (threadOf s).maskFault 8 = false ∧ (placed (.sbw hd (xn 255))).maskClear 2 255 = true) := by
  decide +kernel

/-- The placed thread, blocked. -/
def blocked (w : Wait) : State :=
  withThread (placed (.nop hd (xn 0))) fun t => { t with block := some { wait := w, since := 0, next := 0x20010, nextHead := 0x20010, mask := none } }

theorem witness_ThreadEventsBetweenWords :
    let s := placed (.nop hd (xn 0))
    let at_ (f : Thread → Thread) : State := { withThread s f with cur := none, issuing := [] }
    let standing (t : Thread) : Thread := { t with pc := 0x20000, head := 0x20000, pending := [somePending] }
    (s.thread? 2 = some (threadOf s) ∧ cellWf (threadOf s).regs = true ∧ (threadOf s).pending = []) ∧
      ((flight (.ready [(8, 7)] false) [8] (some 3)).tid = 2) ∧
      ((at_ standing).deliveryDue (standing (threadOf s)) = true ∧ (at_ standing).slotsClear 2 = true ∧ (threadOf s).inHandler = false) ∧
      (at_ fun t => { t with trap := some someTrap }).thread? 2 = some { threadOf s with trap := some someTrap } ∧ (threadOf s).parked = false ∧
      (let k : Hold := { token := 4, posted := false, reason := 0, trap := someTrap }
       (at_ fun t => { t with hold := some k }).thread? 2 = some { threadOf s with hold := some k }) ∧
      s.ringRoom (field (s.context 0).desc 512 64) (field (s.context 0).desc 56 4) = true ∧
      (blocked (.nap 0)).now = 0 ∧ (blocked (.sbw 255)).maskClear 2 255 = true ∧ (threadOf s).maskFault 255 = false ∧
      (phaseReached (placedTeam.barrier 3).phase 0 = true ∧ (blocked (.bwait 3 0 6)).team? 1 = some placedTeam) ∧
      ((threadOf (blocked (.fence 0x00FFFFFFFFF80000 2))).accessFault = false ∧ (blocked (.fence 0x00FFFFFFFFF80000 2)).unperformed 2 = false) := by
  decide +kernel

theorem witness_TeamEventsAndStrokeFormation :
    (let r : Ring := { ring 8 3 with waiters := [2] }
     let s := withTeam (blocked (.qpush 0 [1, 2])) fun t => { t with queues := t.queues.set 0 (some r) }
     (s.team? 1).bind (fun t => t.ring 0) = some r ∧ s.nextServed r = some 2) ∧
      (let r : Ring := { ring 8 1 with waiters := [2] }
       let s := withTeam (blocked (.qpop 0 [8, 9])) fun t => { t with queues := t.queues.set 0 (some r) }
       (s.team? 1).bind (fun t => t.ring 0) = some r ∧ s.nextServed r = some 2) ∧
      (let s := { withThread (blocked (.blkget 7)) (fun t => { t with allot := 0 }) with blkgets := [⟨0, 0, 0, 2⟩] }
       7 ≤ s.blockRoom 0 0 0 (s.claimsOf 1) ∧ s.blockRoom 0 0 0 (s.claimsOf 1) < 97 ∧
         (s.thread? 2).map (fun t => (t.allot, t.team, t.flights)) = some (0, 1, [])) ∧
      (let s := { placed (.nop hd (xn 0)) with threads := [], bins := [bin 0 0x20000 1], now := 256 }
       s.team? 1 = some placedTeam ∧ placedTeam.marked = none ∧ 0 < s.slotRoom 0 0 0 (s.binClaims (bin 0 0x20000 1)) ∧ s.lowestSlot 0 0 0 = some 0) ∧
      (let s := { placed (.nop hd (xn 0)) with threads := [] }
       s.team? 1 = some placedTeam ∧ s.teamDone placedTeam = true ∧ s.bins = []) ∧
      ((placed (.nop hd (xn 0))).arrivalDue 1 = false ∧ (threadOf (placed (.nop hd (xn 0)))).block = none ∧
        { placed (.nop hd (xn 0)) with ops := [flight (.arrival 3 1) [] none] }.arrivalDue 1 = true) ∧
      (let s := { withThread (placed (.nop hd (xn 0))) (fun t => { t with pc := 0x20000 }) with issuing := [], cur := none }
       let far (t : Thread) : Thread := { t with pc := 0x90000, head := 0x90000 }
       let paged (t : Thread) : Bool := match s.fetchClause t t.head with | .page _ _ => true | _ => false
       s.power = .on ∧ s.strokes = [] ∧ s.ready (threadOf s) = true ∧ (threadOf s).quad = none ∧ paged (threadOf s) = false ∧
         paged (far (threadOf s)) = true ∧ (withThread s far).ready (far (threadOf s)) = true) := by decide +kernel

/-! ## Surfaces and the raster path -/

/-- A surface of one float or integer channel, 32 texels wide and high, or larger. -/
def surface (fmt width : Nat) : Surface :=
  { ctx := 0, index := 7, entry := BitVec.ofNat 512 (2 ^ 96 + 32 * 2 ^ 64 + width * 2 ^ 32 + 2 ^ 31 + 256 + fmt), texels := [], poison := [], spilled := [], used := [] }

/-- The instruction placed with a surface bound, its handle in v6 and coordinates in v8 on. -/
def onSurface (i : Instr) (f : Surface) (x : Word) : State :=
  let s := withRegs (placed i) ((6, 7) :: if x = 0 then [] else [(8, x)])
  { s with raster := { s.raster with surfaces := [f] } }

/-- The instruction issues with its surface resident and no earlier access to it. -/
def surfaceRuns (i : Instr) (f : Surface) (x : Word) : Bool :=
  let s := onSurface i f x
  ready s i && decide (s.surface? 0 7 = some f) && !s.texelBehind 2 7 && !s.writesWait 2 && s.locks.isEmpty && s.caches.textures.isEmpty &&
    !f.marked x.toNat 0 0 0

theorem witness_SurfaceInstructionsReadAndWrite :
    ([Instr.sfld hv ⟨12, 6, 8, 0xF0, 0⟩, .sfld hv ⟨12, 6, 8, 0xF0, 3⟩, .sfld hv ⟨12, 6, 8, 0xF0, 4⟩, .sfld hv ⟨12, 6, 8, 0xF0, 5⟩,
      .sfst hd ⟨0xF0, 6, 8, 12, 0⟩, .sfst hd ⟨0xF0, 6, 8, 12, 11⟩, .sfst hd ⟨0xF0, 6, 8, 12, 4⟩, .sfatom hv ⟨12, 6, 8, 14, 0⟩,
      .tex hv ⟨12, 6, 8, 0xF0, 0x60⟩, .tex hv ⟨12, 6, 8, 0xF0, 1⟩, .texg hv ⟨12, 6, 8, 0xF0, 0x60⟩, .texq hv ⟨12, 6, 0xF0, 0xF0, 0⟩].all fun i =>
        surfaceRuns i (surface 0x0A 32) 0 && surfaceRuns i (surface 0x0A 32) 31 && surfaceRuns i (surface 0x0A 32) 32) = true ∧
      surfaceRuns (.sfatom hv ⟨12, 6, 8, 14, 0x380⟩) (surface 0x0D 32) 31 = true ∧ surfaceRuns (.tex hv ⟨12, 6, 8, 0xF0, 0⟩) (surface 0x0D 32) 0 = true ∧
      (sfatomOk 0x0A 0 = true ∧ sfatomOk 0x0A 3 = false ∧ isIntFmt 0x0D = true ∧ isIntFmt 0x0A = false ∧ rawCount (surface 0x0A 32).tb = 1) ∧
      ([Instr.sfld hv ⟨12, 6, 8, 0xF0, 0⟩, .tex hv ⟨12, 6, 8, 0xF0, 0⟩, .texg hv ⟨12, 6, 8, 0xF0, 0⟩, .texq hv ⟨12, 6, 0xF0, 0xF0, 0⟩,
        .sfst hd ⟨0xF0, 6, 8, 12, 0⟩, .sfatom hv ⟨12, 6, 8, 14, 0⟩].all fun i => runs i && decide ((placed i).surface? 0 0 = none)) = true ∧
      ([Instr.sfst hd ⟨0xF0, 6, 8, 12, 0⟩, .sfatom hv ⟨12, 6, 8, 14, 0⟩].all fun i => ready (withThread (placed i) fun t => { t with helper := true }) i) = true ∧
      (runs (.sffence hd (xn 0)) = true ∧ (placed (.sffence hd (xn 0))).writesWait 2 = false) ∧
      (let s := { placed (.sffence hd (xn 0)) with ops := [flight (.texel ⟨2, 7, [], 0, [], 0x0A⟩) [] none] }
       ready s (.sffence hd (xn 0)) = true ∧ s.writesWait 2 = true) ∧
      ([0, 0x3F7FFFFF].all fun x => decide (0 ≤ rat32 x ∧ rat32 x < 1)) = true ∧
      ((⟨3, 7, [0x3F000000, 0, 0, 0], 1, [], 0x0A⟩ : TexelAccess).touches (surface 0x0A 32) ++ (⟨4, 7, [0x3F000000, 0, 0, 0], 0, [], 0x0A⟩ : TexelAccess).touches (surface 0x0A 32)).all
        (fun p => !(surface 0x0A 32).marked p.1 p.2.1 p.2.2.1 p.2.2.2) = true := by decide +kernel

/-- A surface of one tile of 32 by 32 texels in each of its layers, which fills every bank alike, with a spill slot or none. -/
def tall (index layers spill : Nat) (spilled : List Nat) : Surface :=
  { ctx := 0, index := index, texels := [], poison := [], spilled := spilled, used := []
    entry := BitVec.ofNat 512 (spill * 2 ^ 192 + layers * 2 ^ 96 + 32 * 2 ^ 64 + 32 * 2 ^ 32 + 2 ^ 31 + 8 * 256 + 0x0C) }

/-- A state with those surfaces in use. -/
def holding (fs : List Surface) : State :=
  let s := placed (.nop hd (xn 0))
  { s with raster := { s.raster with surfaces := fs } }

theorem witness_SurfaceEntriesAndTiles :
    let s := holding []
    let f := surface 0x0A 32
    (s.entryUsable 0 7 f.entry = true ∧ f.entry.getLsbD 30 = false ∧ ((List.range 32).all fun col => s.roomFor (f.cleared false) col) = true) ∧
      (s.entryWritten 0 7 0 = false ∧ s.entryWritten 0 7 (2 ^ 31) = true ∧ surfaceEntryOk (2 ^ 31) = false) ∧
      ((holding [f]).surface? 0 7 = some f ∧ sameShape f.entry f.entry = true) ∧
      ((f.entry ||| 0x40000000).getLsbD 30 = true ∧ (holding [f]).entryUsable 0 7 (f.entry ||| 0x40000000) = true ∧
        sameShape f.entry (f.entry ||| 0x40000000) = true ∧ field (acceptedEntry (f.entry ||| 0x40000000)) 256 128 = 0) ∧
      (let g := { f with spilled := [0] }
       (holding [g]).surface? 0 7 = some g ∧ 0 ∈ g.spilled ∧ (holding [g]).roomFor (g.refilled 0) (g.tileColumn 0) = true ∧ (holding [g]).ops = []) := by
  decide +kernel

/-- A column whose Vellum is full, with nothing that may be spilled. -/
def fullColumn : State := holding [tall 1 2048 0 [], tall 2 2048 0 [], tall 3 2048 0 [], tall 4 2048 0 []]

theorem witness_SurfaceEntriesAndTiles_refused :
    fullColumn.entryUsable 0 7 (tall 7 1 0 []).entry = true ∧ fullColumn.surface? 0 7 = none ∧
      fullColumn.roomFor ((tall 7 1 0 []).cleared false) 0 = false := by decide +kernel

theorem witness_SurfaceEntriesAndTiles_victimless : ∀ col, fullColumn.victim col = none := by
  intro col
  have h : ∀ f ∈ fullColumn.raster.surfaces, f.spill = 0 := by decide +kernel
  have v (b : Bool) : fullColumn.victims col b = [] := by
    unfold State.victims
    exact List.flatMap_eq_nil_iff.mpr fun f hf => by simp [h f hf]
  simp [State.victim, v, leastUsed]

/-- The same full column with one tile that may be spilled, and an access that waits for a spilled one. -/
def shortColumn : State :=
  { holding [tall 1 2048 0 [], tall 2 2048 0 [], tall 3 2048 0 [], tall 4 2047 0 [], tall 7 1 0x30000 [], tall 8 1 0x40000 [0]] with
    ops := [flight (.texel ⟨0, 8, [0, 0, 0, 0], 0, [], 0x0C⟩) [] none] }

theorem witness_SurfaceEntriesAndTiles_spill :
    shortColumn.surface? 0 7 = some (tall 7 1 0x30000 []) ∧ shortColumn.victim 0 = some (tall 7 1 0x30000 [], 0) ∧
      (tall 7 1 0x30000 []).tileColumn 0 = 0 ∧ (tall 8 1 0x40000 [0]) ∈ shortColumn.raster.surfaces ∧
      (tall 8 1 0x40000 [0]).tileColumn 0 = 0 ∧ shortColumn.tileWanted (tall 8 1 0x40000 [0]) 0 = true ∧
      shortColumn.roomFor ((tall 8 1 0x40000 [0]).refilled 0) 0 = false := by decide +kernel

/-- A draw that is running, with surface 7 as its target 0 and no depth surface. -/
def drawing : Launch :=
  { id := 5, q := 0, lrec := 0, ctx := 0
    record := BitVec.ofNat 1024 (2 + 0xFFFFFFFF * 2 ^ 736 + 7 * 2 ^ 768 + (2 ^ 224 - 1) * 2 ^ 800), pipe := 0, plan := 0, params := 0, draw := 0
    order := 0, next := 0, failed := false, terminated := false, done := false, token := none, dead := false, since := none, target := none, reserved := []
    held := [], entries := [(surface 0x0A 32).entry], windows := [] }

/-- A launch of the context runs. -/
theorem witness_InkSealFreeReplicaEvents_launch :
    let s := { placed (.nop hd (xn 0)) with inks := [region 1], sched := { State.reset.sched with launches := [drawing] } }
    s.ops = [] ∧ s.ink? 0 4 = some (region 1) ∧ drawing ∈ s.sched.launches ∧ drawing.ctx = 0 := by decide +kernel

/-- A vertex at a place, with q 1. -/
def vertex (x y : Word) : List Word := [x, y, 0, 0x3F800000]

/-- A primitive of the draw, from (0, 0) over 4 pixels or over none. -/
def prim (seq : Nat) (size : Word) : Primitive :=
  { seq := seq, launch := 5, nattr := 0, verts := [vertex 0x3DCCCCCD 0x3DCCCCCD, vertex size 0x3DCCCCCD, vertex 0x3DCCCCCD size] }

/-- A ticket of the draw. -/
def ticket (id seq : Nat) (state : TicketState) : Ticket :=
  { id := id, launch := 5, queue := 0, col := 0, x := 1, y := 1, seq := seq, cover := 1, depths := [0], outs := [(0, [1, 2, 3, 4])], depth := none
    left := false, state := state }

/-- The pixel instruction placed in a thread of a pixel team with a ticket, and tickets of the pixel. -/
def inPixel (i : Instr) (own : Option Nat) (ordered : Bool) (ts : List Ticket) : State :=
  let s := withThread (withTeam (placed i) fun t => { t with kind := .pixel }) fun t => { t with kind := .pixel, ticket := own, ordered := ordered }
  { s with raster := { s.raster with tickets := ts }, sched := { s.sched with launches := [drawing] } }

/-- `pemit` of the index in v10, placed in a geometry team; the vertices stand from v20 on. -/
def inGeometry (rs : Cells 32) (emitted : List Nat) : State :=
  let s := withRegs (withTeam (placed (.pemit hd ⟨0xF0, 20, 0xF0, 10, 0⟩)) fun t => { t with kind := .geometry, launch := 5, emitted := emitted }) rs
  { s with sched := { s.sched with launches := [drawing] } }

theorem witness_PixelInstructionsOnTickets :
    let pemit := Instr.pemit hd ⟨0xF0, 20, 0xF0, 10, 0⟩
    let pxout := Instr.pxout hd ⟨0xF0, 20, 0xF0, 0xF0, 0⟩
    let pxdepth := Instr.pxout hd ⟨0xF0, 20, 0xF0, 0xF0, 8⟩
    let pxkill := Instr.pxkill hd (xn 0)
    let enter := Instr.pxord hd (xn 0)
    let leave := Instr.pxord hd (xn 1)
    let mine := ticket 9 1 .waiting
    let opens (s : State) : Bool := decide ((threadOf s).ticket = some 9) && decide ((s.raster.tickets.find? fun y => y.id = 9 && y.state = .waiting) = some mine)
    (runs pemit = true ∧ (placed pemit).team? 1 = some placedTeam ∧ placedTeam.kind ≠ .geometry) ∧
      ([pxout, pxdepth, pxkill, enter, leave].all fun i => runs i && decide ((threadOf (placed i)).kind ≠ .pixel)) = true ∧
      ([[], [(10, 255), (20, 0x3DCCCCCD), (21, 0x3DCCCCCD), (23, 0x3F800000), (24, 0x40800000), (25, 0x3DCCCCCD), (27, 0x3F800000),
          (28, 0x3DCCCCCD), (29, 0x40800000), (31, 0x3F800000)]].all fun rs =>
        let s := inGeometry rs [3]
        ready s pemit && (match s.team? 1 with | some t => decide (t.kind = .geometry ∧ t.launch = 5 ∧ t.emitted = [3]) | none => false) &&
          decide ((s.launch? 5).isSome) && !s.unperformed 2) = true ∧
      ((prim 0 0x40800000).discarded 0 = false ∧ ({ prim 0 0 with verts := [[], [], []] } : Primitive).discarded 0 = true) ∧
      ([pxout, enter].all fun i => ready (inPixel i none false [mine]) i && decide ((threadOf (inPixel i none false [mine])).kind = .pixel)) = true ∧
      ([pxout, pxdepth].all fun i => ready (inPixel i (some 9) false [mine]) i && opens (inPixel i (some 9) false [mine])) = true ∧
      (ready (inPixel pxkill (some 9) true [mine]) pxkill = true ∧ (inPixel pxkill (some 9) true [mine]).writesWait 2 = false) ∧
      ([pxkill, leave].all fun i =>
        let s := { inPixel i (some 9) true [mine] with ops := [flight (.texel ⟨1, 7, [], 0, [], 0x0A⟩) [] none] }
        ready s i && s.writesWait 2) = true ∧
      (ready (inPixel enter (some 9) true [mine]) enter = true ∧ ready (inPixel leave (some 9) false [mine]) leave = true) ∧
      (let s := inPixel enter (some 9) false [mine]
       ready s enter = true ∧ opens s = true ∧ s.regionFree 9 = true) ∧
      (let s := inPixel enter (some 9) false [ticket 8 0 .waiting, mine]
       ready s enter = true ∧ opens s = true ∧ s.regionFree 9 = false) ∧
      (let s := inPixel leave (some 9) true [mine]
       ready s leave = true ∧ opens s = true ∧ s.writesWait 2 = false) := by decide +kernel

/-- A state with a running draw of surface 7. -/
def inDraw (r : Raster) : State :=
  let s := withTeam (placed (.nop hd (xn 0))) fun t => { t with kind := .pixel, launch := 5 }
  { s with raster := { r with surfaces := [surface 0x0A 32] }, sched := { s.sched with launches := [drawing] } }

/-- A reorder buffer of the placed team. -/
def buffer (slots : List (Nat × Option Primitive)) : Setup :=
  { team := 1, launch := 5, col := 0, index := 0, next := 0, slots := slots, closed := false }

theorem witness_RasterPathEvents :
    let p := prim 0 0x40800000
    let empty : Raster := { surfaces := [], setups := [], inbound := [], tickets := [] }
    let queued (ps : List Primitive) : Inbound := { col := 0, sender := 0, queue := 0, prims := ps, cursor := 0 }
    (let s := { blocked (.setup 0 p) with raster := { empty with setups := [buffer []] } }
     (s.thread? 2).bind (fun t => t.block.map Block.wait) = some (.setup 0 p) ∧ (threadOf s).team = 1 ∧ s.setupHeld (buffer []) = false) ∧
      (let s := inDraw { empty with setups := [buffer [(0, some p)]] }
       s.launch? 5 = some drawing ∧ drawing.columnsOf p = [0] ∧ s.mayPrecede (some 0) 0 p.seq = false) ∧
      (let s := inDraw { empty with inbound := [queued [prim 0 0x3E4CCCCD, p]] }
       s.mayPrecede none 0 0 = false ∧ s.launch? 5 = some drawing ∧ s.mayRun 0 = true ∧
         { s with contexts := [⟨0, placedDesc ||| 8⟩] }.mayRun 0 = false ∧
         (prim 0 0x3E4CCCCD).turned.nextQuad 0 drawing.samples drawing.area 0 2 = none ∧
         (prim 0 0x3E4CCCCD).quadBox drawing.area = (0, 0, 1, 1)) ∧
      (let s := inDraw { empty with inbound := [queued [p]] }
       s.mayPrecede none 0 0 = false ∧ p.quadBox drawing.area = (0, 0, 3, 3) ∧
         (p.turned.nextQuad 0 drawing.samples drawing.area 0 10).isSome = true ∧
         (s.quadTeam drawing 0).map Team.id = some 1 ∧ (s.team? 1).map Team.kind = some .pixel ∧
         (match s.team? 1 with | some t => s.quadRoom drawing t | none => false) = true) ∧
      ([TicketState.killed, .retired].all fun st =>
        let s := inDraw { empty with tickets := [ticket 9 0 st] }
        decide (s.launch? 5 = some drawing) && !s.recordsFull 0 && (s.threads.all fun v => !v.ordered)) = true ∧
      (isDepthFmt (surface 0x0A 32).fmt = false ∧ (surface 0x0A 32).spilled = [] ∧ (surface 0x0A 32).inside 1 1 drawing.layer 0 = true ∧ drawing.depth = 0xFFFFFFFF ∧ drawing.target_ 0 = 7 ∧
        (∀ j < 8, 0 < j → drawing.target_ j = 0xFFFFFFFF) ∧ drawing.blend 0 0 1 = 0) ∧
      (let s : State := { State.reset with sched := { State.reset.sched with launches := [drawing] } }
       s.launch? 5 = some drawing ∧ drawing.kind = 2 ∧ drawing.next = drawing.total) := by decide +kernel

/-! ## Traversals, networks and engines -/

/-- The first address of the scratchpad window. -/
def wb : Nat := 0x00FFFFFFFFF80000

/-- A traversal record of a ray from (0, 0, 0) along x up to 1.0, of a BVH at 0x60000. -/
def rayRecord (status : Nat) : Nat := 0x3F800000 * 2 ^ 128 + 0x3F800000 * 2 ^ 224 + 0x60000 * 2 ^ 256 + status * 2 ^ 336

/-- The instruction placed with the pair v4 at a place of the scratchpad, which holds bytes there. -/
def withScratch (i : Instr) (off : Nat) (rs : Cells 32) (b : List Byte) : State :=
  withTeam (withRegs (placed i) ([(4, BitVec.ofNat 32 (0xFFF80000 + off)), (5, 0x00FFFFFF)] ++ rs)) fun t =>
    { t with scratch := writeBytes [] off b, accTiles := 4 }

theorem witness_TraversalsStartAndEnd :
    ([Instr.trace hv ⟨8, 4, 0xF0, 0xF0, 0⟩, .trace hv ⟨8, 4, 0xF0, 0xF0, 1⟩, .tcont hv ⟨8, 4, 14, 0xF0, 1⟩].all fun i =>
        ready (withThread (placed i) fun t => { t with helper := true }) i &&
          ([0, 4032, 4].all fun off =>
            let s := withScratch i off [] (leBytes 64 (rayRecord 2))
            ready s i && (s.team? 1).isSome && inWindow (wb + off) && decide (wb + off + 64 ≤ windowBase + 4096) && s.locks.isEmpty && !s.unperformed 2 &&
              decide ((s.locks.filter fun l => l.col = 0 && l.core = 0).length < 64))) = true ∧
      ([(none, 0, 0), (some 0, 2, 0), (some 0, 0, 7), (none, 2, 7)].all fun p =>
        let st : Stage := .traverse { va := BitVec.ofNat 64 wb, tf := false, decision := p.1, candidate := [], token := none }
        let s := inInk (.nop hd (xn 0)) { region 1 with tail := 128 } 1
        let s := { withTeam s (fun t => { t with scratch := writeBytes [] 0 (leBytes 64 (rayRecord p.2.1)) }) with ops := [flight st [8, 9, 10, 11, 12] (some 3)] }
        let r := desc512 (leBytes 64 (rayRecord p.2.1))
        let tr : Tracer := ⟨s.noteRead 0 0 wb 64, (flight st [] none).actor, r, [], []⟩
        decide (s.op? 9 = some (flight st [8, 9, 10, 11, 12] (some 3))) && !s.recordsFull 0 && !recInvalid r &&
          (s.team? 1).any (fun t => desc512 (readBytes t.scratch 0 64) = r && t.scratchPoison.isEmpty) &&
          (if p.2.2 = 7 then decide (¬(recStatus r = 2 ↔ p.1.isSome = true))
           else decide (recStatus r = 2 ↔ p.1.isSome = true) && match (match p.1 with | none => tr.trace 0 none | some k => tr.tcont none k []) with
            | .ok x => decide (x.status = if p.1.isSome then 1 else 0)
            | .error _ => false)) = true ∧
      (let st : Stage := .traverse { va := BitVec.ofNat 64 wb, tf := true, decision := none, candidate := [], token := none }
       let s := withTeam (placed (.nop hd (xn 0))) fun t => { t with scratch := writeBytes [] 0 (leBytes 64 (rayRecord 0)) }
       let r := desc512 (leBytes 64 (rayRecord 0))
       recInvalid r = false ∧ (match (⟨s.noteRead 0 0 wb 64, (flight st [] none).actor, r, [], []⟩ : Tracer).trace 0 none with
         | .ok _ => false
         | .error y => decide (y.stop = .status 6)) = true) := by decide +kernel

/-- A network of one layer with one input and one output: bfloat16 weights and a bias in sealed ink. -/
def netDesc : Nat := 0x60000 + 0x60040 * 2 ^ 64 + 10 * 2 ^ 268 + 2 ^ 273 + 2 ^ 274

/-- `neval` placed with a handle in v6, a network table at address 0 and the network 0 in it. -/
def calling (h : Word) : State :=
  let s := mapped (withRegs (placed (.neval hv ⟨8, 4, 6, 0xF0, 0⟩)) (if h = 0 then [] else [(6, h)])) 0 0x40183
  let s := mapped { s with inks := [region 1] } 6 0x60197
  { s with mem := writeBytes (writeBytes s.mem 0x40000 (leBytes 8 0x41)) 0x40040 (leBytes 64 netDesc) }

/-- A tile of the network with the operation 9. -/
def tileOf (dispatched : Bool) : Tile :=
  { id := 8, col := 0, core := 0, ctx := 0, handle := 0, entry := 0x41, desc := BitVec.ofNat 512 netDesc, opened := 0, window := 512, rows := [9]
    dispatched := dispatched }

theorem witness_NetworkCallsGatherAndEvaluate :
    let i := Instr.neval hv ⟨8, 4, 6, 0xF0, 0⟩
    (ready (calling 4096) i = true ∧ ready (calling 0) i = true ∧ (calling 0).ops = [] ∧ (calling 0).gatherCount 0 0 = 0 ∧ (calling 0).openTiles 0 0 = [] ∧
      (calling 0).caches.copies = [] ∧ ((calling 0).team? 1).bind Team.marked = none ∧ isReg 8 = true) ∧
      (let s := { calling 0 with ops := List.replicate 1024 (flight (.gather 0 [] none none) [40] none) }
       ready s i = true ∧ 1024 ≤ (s.atIssue (threadOf s) hv i).gatherCount 0 0) ∧
      (netEntryOk 0x41 = true ∧ netDescAt 0x41 = 0x40 ∧ netMalformed (desc512 (leBytes 64 netDesc)) = false ∧
        netFailure ((calling 0).netRows ⟨2, 1, 0, 0, 0, 0, none⟩ (desc512 (leBytes 64 netDesc))) = none ∧ nin 0 = netWidth (desc512 (leBytes 64 netDesc)) 0 ∧
        nout 0 = netWidth (desc512 (leBytes 64 netDesc)) (netLayers (desc512 (leBytes 64 netDesc)))) ∧
      runs (.nflush hd (xn 0)) = true ∧
      (let s := { calling 0 with ops := [flight (.gather 0 [0x3F800000] none none) [8] (some 3)] }
       let on (d : Bool) (now : Nat) : State := { s with engines := { s.engines with tiles := [tileOf d] }, now := now }
       (on false 512).engines.tiles.find? (fun (z : Tile) => z.id = 8) = some (tileOf false) ∧ (tileOf false).opened + (tileOf false).window ≤ 512 ∧
         ¬((tileOf false).opened + (tileOf false).window ≤ 511) ∧ (on true 0).allFenced 0 0 = false ∧
         (on true 0).op? 9 = some (flight (.gather 0 [0x3F800000] none none) [8] (some 3)) ∧
         netFailure ((on true 0).netRows ⟨0, 0, 0, 0, 0, 0, none⟩ (tileOf true).desc) = none ∧ ((on true 0).engines.tiles.map Tile.id).Nodup) := by decide +kernel

/-- The table entry and the descriptor read the same for every request of the context in the column. -/
theorem witness_NetworkCallsGatherAndEvaluate_reads :
    ∀ q : Op, q.ctx = 0 → q.col = 0 → (calling 0).tableRead q ((calling 0).netEntryAt 0 0) 8 = .ok (some (leBytes 8 0x41)) ∧
      (calling 0).tableRead q (netDescAt 0x41) 64 = .ok (some (leBytes 64 netDesc)) := by
  intro q hc hl
  have e : ∀ va n, (calling 0).tableRead q va n = (calling 0).tableRead (flight (.ready [] false) [] none) va n := by
    intro va n
    simp only [State.tableRead, State.unreadable, Op.actor, hc, hl]
    rfl
  rw [e, e]
  decide +kernel

/-- A product of one tile of 16 by 16 by 16 bytes of the scratchpad, with its completion barrier when named. -/
def mmaDesc (bar : Option Nat) : Nat :=
  wb + 0x400 + (wb + 0x500) * 2 ^ 64 + 16 * 2 ^ 256 + 16 * 2 ^ 288 + 6 * 2 ^ 392 + 6 * 2 ^ 396 + 3 * 2 ^ 404 +
    match bar with | some b => 2 ^ 409 + b * 2 ^ 410 | none => 0

/-- A copy of 16 words within the scratchpad, or from or to a side of another kind. -/
def copyDesc (source dest : Nat) (bar : Option Nat) : Nat :=
  0x400 + 0x500 * 2 ^ 64 + 15 * 2 ^ 320 + source * 2 ^ 416 + dest * 2 ^ 419 + 2 * 2 ^ 422 +
    match bar with | some b => 2 ^ 437 + b * 2 ^ 438 | none => 0

/-- The instruction issues, with its 64 bytes at the base of the scratchpad readable and no lock in the way. -/
def engineRuns (i : Instr) (rs : Cells 32) (d : Nat) : Bool :=
  let s := withScratch i 0 rs (leBytes 64 d)
  ready s i && !s.unperformed 2 && s.locks.isEmpty && (s.team? 1).any fun t =>
    atScratchB s ((threadOf s).atIssue 0) ⟨.load 64 false [] 0, BitVec.ofNat 64 wb, 0⟩ 64 t && t.scratchPoison.isEmpty && decide (t.accTiles = 4) &&
      decide (desc512 (readBytes t.scratch 0 64) = BitVec.ofNat 512 d)

theorem witness_EngineInstructionsStart :
    let s := placed (.nop hd (xn 0))
    let m (b : Option Nat) : BitVec 512 := BitVec.ofNat 512 (mmaDesc b)
    let c (a b : Nat) : BitVec 512 := BitVec.ofNat 512 (copyDesc a b none)
    ([Instr.mma hd ⟨0xF0, 4, 0xF0, 0xF0, 0⟩, .accz hd ⟨0xF0, 6, 0xF0, 0xF0, 0⟩, .accld hd ⟨0xF0, 4, 6, 0xF0, 0⟩, .accst hd ⟨0xF0, 4, 6, 0xF0, 0⟩,
      .copy hd ⟨0xF0, 4, 0xF0, 0xF0, 0⟩, .gred hd ⟨0xF0, 4, 6, 10, 0⟩].all fun i => ready (withThread (placed i) fun t => { t with helper := true }) i) = true ∧
      ([mmaDesc none, mmaDesc (some 0), 0].all fun d => engineRuns (.mma hd ⟨0xF0, 4, 0xF0, 0xF0, 0⟩) [] d) = true ∧
      (mmaFault (m none) 4 = none ∧ mmaFault 0 4 ≠ none ∧ mmaBar (m (some 0)) = some 0 ∧ (placedTeam.barrier 0).expected = 0 ∧
        mmaBar (m none) = none ∧ s.locksFree (threadOf s) (mmaWants (m none)) = true) ∧
      ([copyDesc 1 1 none, copyDesc 1 4 none, copyDesc 5 1 none].all fun d => engineRuns (.copy hd ⟨0xF0, 4, 0xF0, 0xF0, 0⟩) [] d) = true ∧
      (s.copyFault 0 (c 5 1) ≠ none ∧ s.copyFault 0 (c 1 4) = none ∧ (copyDest (c 1 4)).kind = 4 ∧ s.copyFault 0 (c 1 1) = none ∧
        s.leavesScratch (threadOf s) (c 1 1) (copySource (c 1 1)) = false ∧ s.leavesScratch (threadOf s) (c 1 1) (copyDest (c 1 1)) = false ∧
        copyBar (c 1 1) = none ∧ s.locksFree (threadOf s) (s.copyWants 0 (c 1 1)) = true) ∧
      ([0x100, 0x101, 0x500].all fun n => engineRuns (.accz hd ⟨0xF0, 6, 0xF0, 0xF0, 0⟩) [(6, n)] 0) = true ∧
      (tileRange 0x100 4 = some (0, 1) ∧ tileRange 0x101 4 = some (1, 1) ∧ tileRange 0x500 4 = none ∧ s.accHead 1 = none ∧ cellWf placedTeam.acc = true ∧
        s.engines.ops = []) ∧
      ([0x100, 0x500].all fun n => engineRuns (.accld hd ⟨0xF0, 4, 6, 0xF0, 0⟩) [(6, n)] 0) = true ∧
      (inWindow wb = true ∧ wb % 64 = 0 ∧ wb + 1024 * 1 ≤ windowBase + 4096 ∧ s.locksFree (threadOf s) [wantMem wb 1024 false] = true) ∧
      ([(0x100, 0xF0), (0x100100, 0xF0), (0x100100, 10)].all fun p =>
        engineRuns (.accst hd ⟨0xF0, 4, 6, p.2, 0⟩) [(6, p.1), (10, 0xFFF80800), (11, 0x00FFFFFF)] 0) = true ∧
      ((accstMode 0x100 ⟨0xF0, 4, 6, 0xF0, 0⟩).ok 0x100 false = false ∧
        ([false, true].all fun p => (accstMode 0x100100 ⟨0xF0, 4, 6, 0xF0, 0⟩).ok 0x100100 p) = true ∧ outBytes (accstMode 0x100100 ⟨0xF0, 4, 6, 0xF0, 0⟩).ofmt = 4 ∧
        s.engineAddr ⟨2, 1, 0, 0, 0, 0, none⟩ (BitVec.ofNat 64 wb) 1024 64 = none ∧ s.engineAddr ⟨2, 1, 0, 0, 0, 0, none⟩ (BitVec.ofNat 64 (wb + 0x800)) 128 64 = none ∧
        s.classTrap ⟨2, 1, 0, 0, 0, 0, none⟩ [0, 2] wb 1024 = none ∧
        s.locksFree (threadOf s) [wantMem wb 1024 true, wantMem (wb + 0x800) 128 false] = true) := by decide +kernel

/-- An engine operation of the placed team. -/
def engineOp (e : Engine) (bar : Option Nat) : EngOp :=
  { id := 9, team := 1, launch := 5, ctx := 0, col := 0, core := 0, bar := bar, at_ := BitVec.ofNat 64 wb, engine := e, issued := 0, token := none, dead := none
    lost := false }

/-- A state with that operation, in a draw that runs. -/
def inEngine (e : Engine) (bar : Option Nat) (now : Nat) : State :=
  let s := withTeam (placed (.nop hd (xn 0))) fun t => { t with launch := 5, accTiles := 4, acc := [(3, 7)] }
  { s with engines := { s.engines with ops := [engineOp e bar] }, sched := { s.sched with launches := [drawing] }, now := now }

/-- The conditions that the three completions share. -/
def endsHere (s : State) (e : Engine) : Bool :=
  decide (s.engOp? 9 = some (engineOp e none)) && s.accReady (engineOp e none) && !s.allFenced 0 0 &&
    (s.threads.any fun z => decide (z.team = 1 ∧ z.block = none)) && (s.team? 1).any fun t =>
      t.accPoison.isEmpty && t.scratchPoison.isEmpty && cellWf t.acc && cellWf t.scratch && decide (t.scratchSize = 4096)

theorem witness_EngineResultsAndFailures :
    (let d : BitVec 512 := BitVec.ofNat 512 (mmaDesc none)
     let s := inEngine (.mma d) none 0
     let e := engineOp (.mma d) none
     endsHere s (.mma d) = true ∧ (s.readOperand e (operandA d) (mmaK d)).toOption.isSome = true ∧ (s.readOperand e (operandB d) (mmaK d)).toOption.isSome = true ∧
       (s.readScales e (operandA d) (mmaK d)).toOption.isSome = true ∧ (s.readScales e (operandB d) (mmaK d)).toOption.isSome = true) ∧
      endsHere (inEngine (.accld 0 1 (BitVec.ofNat 64 wb)) none 0) (.accld 0 1 (BitVec.ofNat 64 wb)) = true ∧
      endsHere (inEngine (.accst 0 1 (BitVec.ofNat 64 wb) none 8 0 false false) none 0) (.accst 0 1 (BitVec.ofNat 64 wb) none 8 0 false false) = true ∧
      (wb % 64 = 0 ∧ wb + 256 * 1 * outBytes 8 ≤ windowBase + 4096) ∧
      (let d : BitVec 512 := BitVec.ofNat 512 (mmaDesc (some 3))
       let e : EngOp := { engineOp (.mma d) (some 3) with dead := some false }
       let s := inEngine (.mma d) (some 3) 0
       let s := { s with engines := { s.engines with ops := [e] } }
       s.engOp? 9 = some e ∧ s.engineFailure e = some (some 1) ∧ s.launch? 5 = some drawing ∧ (s.threads.any fun z => decide (z.team = 1 ∧ z.block = none)) = true ∧
         (s.team? 1).map (fun t => (t.barriers.length, cellWf t.acc)) = some (16, true)) ∧
      State.reset.engines.fenced = [] ∧
      (let s : State := { State.reset with engines := { State.reset.engines with fenced := [⟨31, 127, 15⟩] } }
       ⟨31, 127, 15⟩ ∈ s.engines.fenced ∧ s.hangs 0 0 = false) ∧
      (let e : Engine := .accz 0 1
       (inEngine e none 1099999).hangs 0 0 = false ∧ (inEngine e none 1100000).hangs 0 0 = true ∧
         ((inEngine e none 1100000).teams.all fun t => decide (t.id = 1 ∧ t.accTiles ≠ 0 ∧ t.col = 0 ∧ t.core = 0)) = true ∧
         ((inEngine e none 1100000).threads.all fun z => decide (z.team = 1 ∧ z.block = none)) = true) := by decide +kernel

/-- A copy under way. -/
def job (source dest : Nat) (phase : CopyPhase) (written : List Nat) : CopyJob := ⟨BitVec.ofNat 512 (copyDesc source dest (some 3)), 0, written, phase, [], [], none, []⟩

theorem witness_CopyChunksMoveOnce :
    (let j := job 1 1 .running []
     let s := inEngine (.copy j) (some 3) 0
     s.runnable 9 0 = some (engineOp (.copy j) (some 3), j) ∧ s.engOp? 9 = some (engineOp (.copy j) (some 3)) ∧
       (s.readChunk (engineOp (.copy j) (some 3)) j.desc 0).toOption.isSome = true ∧ j.failing = [] ∧ j.inFlight.filter (· ≠ 0) = []) ∧
      (let j := job 4 1 .running []
       let s := inEngine (.copy j) (some 3) 0
       s.runnable 9 0 = some (engineOp (.copy j) (some 3), j) ∧ (s.chunkFailure (engineOp (.copy j) (some 3)) j 0).map Prod.fst = some 6 ∧ j.failing = []) ∧
      ([1, 2].all fun disp =>
        let j := job 4 1 (.failed 6 0x400 (some 0x31040)) []
        let s := inEngine (.copy j) (some 3) 0
        let s := { s with mem := writeBytes s.mem (0x31040 + 33) [BitVec.ofNat 8 disp] }
        decide (s.waitingCopy 0 0x31040 = some (engineOp (.copy j) (some 3), j, 6)) && decide (s.dispOf 0x31040 = disp) && decide (copyLbs j.desc = 0) &&
          decide (field j.desc 438 4 = 3) && decide (s.engOp? 9 = some (engineOp (.copy j) (some 3))) && !s.recordsFull 0 &&
          { s with heldRecords := List.replicate 64 ⟨0, 0, [], 0⟩ }.recordsFull 0) = true ∧
      (let j := job 4 1 (.cancelled 6) []
       let s := inEngine (.copy j) (some 3) 0
       s.recordsFull 0 = false ∧ copyLbs j.desc = 0 ∧ s.engOp? 9 = some (engineOp (.copy j) (some 3)) ∧ s.sched.saved = []) ∧
      (let j := job 1 1 .running [0]
       let s := inEngine (.copy j) (some 3) 0
       j.cursor = chunkCount j.desc ∧ copyLbs j.desc = 0 ∧ (s.threads.any fun z => decide (z.team = 1 ∧ z.block = none)) = true ∧
         (s.team? 1).isSome = true) := by decide +kernel

/-- A gather-reduce command of one row of one element, to the page at 0x50000. -/
def command (accepted split : Bool) (lines : List GredLine) (failRow : Option Nat) : GredCmd :=
  { id := 9, ctx := 0, col := 0, core := 0, tid := 2, issuers := [(2, 9)], issued := 0, stroke := 3, launch := 5, dst := 0x50000, acc := false, bf16 := false, nel := 1
    rows := [(0x30000, 0)], early := [], accepted := accepted, lines := lines, split := split, parts := [], places := [(0x50000, 4)], token := none, waits := none
    failRow := failRow }

/-- A state with that command, the result page and the table's page. -/
def inGred (g : List GredCmd) : State :=
  let s := mapped (mapped (withRegs (placed (.gred hd ⟨0xF0, 4, 0xF0, 10, 0⟩)) [(4, 0x30000), (10, 0x50000)]) 3 0x30183) 5 0x501C3
  { s with engines := { s.engines with greds := g }, sched := { s.sched with launches := [drawing] } }

/-- That `gred`, as the placed thread issues it, and its part. -/
def gred : Instr := .gred hd ⟨0xF0, 4, 0xF0, 10, 0⟩
/-- The part. -/
def part : GredPart := ⟨0x30000, 0, 0x50000, false, false, 1⟩

/-- It issues on rows that are fit, its units full or not. -/
def gredRuns (s : State) (full : Bool) : Bool :=
  let v := s.atIssue (threadOf s) hd gred
  ready s gred && (s.team? 1).isSome && decide ((issueOf s).stroke = 3) && decide (gredPart s ((threadOf s).atIssue 0) ⟨0xF0, 4, 0xF0, 10, 0⟩ = part) &&
    decide (s.gredCheck (issueOf s) ((threadOf s).atIssue 0) 0x30000 0x50000 1 = .ok) &&
    (v.unitFull 3 0x50000 (v.unitsNeeded (issueOf s) ((threadOf s).atIssue 0) hd ⟨0xF0, 4, 0xF0, 10, 0⟩ part) == full)

theorem witness_GatherReduceSumsRows_issue :
    (inGred []).gredCheck (issueOf (inGred [])) ((threadOf (inGred [])).atIssue 0) 0x30020 0x50000 1 = .fault 0x06 0x30020 ∧
      ([[], [command false false [] none]].all fun gs =>
        let s := inGred gs
        gredRuns s false && s.caches.copies.isEmpty && !part.follows s 2 s.ops && (part.writes.all fun x => !s.logsBehind 2 x)) = true ∧
      (command false false [] none).dst = part.dst ∧
      gredRuns (inGred ((List.range 64).map fun k => { command false false [] none with stroke := 4, id := 100 + k })) true = true ∧
      (let s := { inGred [] with ops := [flight (.behind ⟨.load 4 false [8] 0, 0x50000, 0⟩ none) [8] (some 3)] }
       gredRuns s false = true ∧ part.follows s 2 s.ops = true ∧ (part.writes.all fun x => !s.logsBehind 2 x) = true) ∧
      (let logged (k : Nat) : Op := { flight (.logged ⟨.store [1], BitVec.ofNat 64 (0x50000 + 0x10000 * k), 0⟩ k) [] none with stroke := 1, id := 100 + k }
       let s := { inGred [] with ops := (List.range 64).map logged }
       gredRuns s false = true ∧ (part.writes.any fun x => s.logsBehind 2 x && s.logFull ((threadOf s).atIssue 0) 3 x.va) = true) := by decide +kernel

theorem witness_GatherReduceSumsRows :
    (resultPieces 0x50000 1 = [(0x50000, 4)] ∧ (resultPage ((inGred [command false false [] none]).translate 0 0x50000) 0).toOption.map Leaf.pa = some 0x50000) ∧
      ([some (some [0, 0, 0x80, 0x3F]), none].all fun data =>
        let x : GredLine := ⟨0, 0, 0x30000, 0, 0x30000, 4, data⟩
        let g := command true true [x] none
        let s := inGred [g]
        !s.engines.segments.contains x.unit && !s.lineEmpty (x.pa / 128) && (s.pieceBytes g x).isSome) = true ∧
      (inGred [command true true [] none]).ops = [] ∧
      (let s := inGred [command true true [] (some 0)]
       s.recordsFull 0 = false ∧ s.launch? 5 = some drawing ∧ s.ops = []) ∧
      ready (withRegs (placed (.rstat hv ⟨8, 4, 0xF0, 0xF0, 0⟩)) [(5, 0x80000000)]) (.rstat hv ⟨8, 4, 0xF0, 0xF0, 0⟩) = true ∧
      canonical 0x8000000000000000 = false ∧ canonical 0 = true ∧
      [Instr.rstat hv ⟨8, 4, 0xF0, 0xF0, 0⟩, .rdctr hv ⟨8, 0xF0, 0xF0, 0xF0, 0⟩].all runs = true := by decide +kernel

theorem witness_ObjectWaitsAndConvergence_faults :
    (let i := Instr.mbwait hd ⟨0xF0, 4, 6, 0xF0, 0⟩
     let s (low : Nat) (marks : List Nat) : State := withTeam (withRegs (placed i) [(4, BitVec.ofNat 32 low), (5, 0x00FFFFFF), (6, 1)]) fun t =>
       { t with scratchPoison := marks }
     ready (s 0xFFF80FF4 []) i = true ∧ ready (s 0xFFF80FF8 [127]) i = true ∧ inWindow 0x00FFFFFFFFF80FF4 = true ∧
       0x00FFFFFFFFF80FF8 + 8 ≤ windowBase + 4096 ∧ 0x00FFFFFFFFF80FF4 % 8 ≠ 0 ∧ 4088 / 32 = 127 ∧
       (s 0xFFF80FF8 [127]).lockConflict 1 .scratch 4088 8 false = false ∧
       [0x00FFFFFFFFF80FF4, 0x00FFFFFFFFF80FF8].all (fun va => !(s 0xFFF80FF8 [127]).mustFollow 2 ⟨.load 8 false [] 0, va, 1⟩) = true) ∧
      ([0, 1025].all fun n =>
        let i := Instr.cvarm hd ⟨0xF0, 4, 6, 0xF0, 0⟩
        let s := withRegs (placed i) [(4, 0xFFF80000), (5, 0x00FFFFFF), (6, BitVec.ofNat 32 n)]
        ready s i && !s.mustFollow 2 ⟨.load 64 false [] 0, 0x00FFFFFFFFF80000, 0⟩ && !s.lockConflict 1 .scratch 0 64 false) = true ∧
      (let i := Instr.sign hd ⟨0xF0, 0xF0, 0xF0, 0xF0, 0⟩
       let s (d : Nat) : State := withTeam (placed i) fun t =>
         { t with converge := t.converge.set 0 ⟨1, leBytes 64 d, 0x1000⟩, accTiles := 4 }
       [mmaDesc none, mmaDesc (some 0), 0].all (fun d => ready (s d) i && !(s d).unperformed 2 &&
         decide ((s d).team? 1 |>.any fun t => (t.converge.getD 0 ⟨0, [], 0⟩).count = 1 && desc512 (t.converge.getD 0 ⟨0, [], 0⟩).desc = BitVec.ofNat 512 d)) = true ∧
       (s (mmaDesc none)).locksFree (threadOf (s 0)) (mmaWants (BitVec.ofNat 512 (mmaDesc none))) = true) := by
  decide +kernel

/-! ## Caches, pages, queues and launches -/

/-- A state with one cached copy. -/
def withCopy (c : LineCopy) : State := { State.reset with caches := { State.reset.caches with copies := [c] } }

/-- A migration unit that is on, with one frame on ring 0. -/
def unitOn : Migration :=
  { ctl := BitVec.ofNat 64 (2 ^ 63 + 100 * 2 ^ 32), bases := [0x40000, 0x44000, 0x42000], idxs := [0x100000000, 0, 0], heat := [⟨0, 3, 100⟩]
    moving := [] }

/-- A state at the end of an epoch, with a page of the second tier. -/
def atEpoch (m : Migration) : State :=
  let s := mapped (placed (.nop hd (xn 0))) 3 0x100000000687
  { s with mem := writeBytes s.mem 0x40000 (leBytes 8 0x70000), regs := { s.regs with migrations := s.regs.migrations.set 0 m }, now := 1048576 }

theorem witness_CachesTranslationMigrationEvents :
    (managedCopy.bytes.length = 128 ∧ managedCopy.owned = false ∧ ({ managedCopy with owned := true } : LineCopy).bytes.length = 128 ∧ managedCopy.col = 0 ∧ Memory.wf (withCopy managedCopy).mem = true) ∧
      ([([5], 0, 1), ([5], 1, 0), ([5], 0, 0)].all fun p =>
        let s := withThread (placed (.nop hd (xn 0))) fun t => { t with group := some (groupOf p.1 [] false) }
        decide (s.threads.length = 1) && decide (5 ∈ p.1) && decide ((threadOf s).col = 0)) = true ∧
      (State.reset.regs.tinvctl.getLsbD 63 = false ∧ { State.reset.regs with tinvctl := 0x8000000000000000 }.tinvctl.getLsbD 63 = true) ∧
      State.reset.ops = [] ∧ State.reset.engines.greds = [] ∧
      (let s := atEpoch unitOn
       let m := s.migration 0
       let l := (s.heatLeaf 0 ⟨0, 3, 100⟩).getD columnLeaf
       let new := s.peekNat (m.ringAt 0 (m.cons_ 0)) 8
       m = unitOn ∧ m.moving = [] ∧ m.ctl.getLsbD 63 = true ∧ (s.heatLeaf 0 ⟨0, 3, 100⟩).isSome = true ∧ regionOf l.pa = 1 ∧
         field m.ctl 32 16 + field m.ctl 24 8 * 0 ≤ 100 ∧ field m.ctl 0 16 < m.held 0 ∧ s.pageHeld 0 3 = false ∧ m.held 2 < 1024 ∧ new = 0x70000 ∧
         s.frameFits 0 0 new = true ∧ s.caches.copies = [] ∧ s.regs.migrations.length = 32 ∧ m.idxs.length = 3) ∧
      (let w : Move := ⟨0, 3, 0x14018, 0x100000000687, 0x100000000000, 0x70000⟩
       let s := { atEpoch { unitOn with moving := [w] } with now := 5 }
       let m := s.migration 0
       let at2 := m.ringAt 2 (m.prod 2)
       m.moving = [w] ∧ s.pageHeld 0 3 = false ∧ m.held 2 < 1024 ∧ s.caches.copies = [] ∧ Memory.wf s.mem = true ∧ s.regs.migrations.length = 32 ∧
         m.idxs.length = 3 ∧ BitVec.ofNat 64 (s.peekNat w.entryAt 8) = w.entry ∧ (s.context 0).live = true ∧
         (w.entryAt + 8 ≤ w.new ∨ w.new + 65536 ≤ w.entryAt) ∧ (at2 + 8 ≤ w.new ∨ w.new + 65536 ≤ at2) ∧
         (w.entryAt + 8 ≤ at2 ∨ at2 + 8 ≤ w.entryAt) ∧ { w with entry := 3 }.entry ≠ w.entry ∧
         { s with locks := [⟨0, 0, 1, 5, .memory, 0x30000, 0x30040, true⟩] }.pageHeld 0 3 = true) ∧
      (let s := atEpoch { unitOn with heat := [] }
       (s.migration 0).ctl.getLsbD 63 = true ∧ (s.migration 0).heat = [] ∧ s.now % 1048576 = 0) := by decide +kernel

/-- A page-fault record. -/
def pageRecord (posted : Bool) : PageRecord :=
  { token := 5, ctx := 0, col := 0, core := 0, va := 0x50000, kind := 1, level := 0, reason := 2, posted := posted }

/-- A state with that record. -/
def inPage (s : State) (posted : Bool) : State := { s with pageRecords := [pageRecord posted] }

/-- A work queue that is enabled. -/
def queue3 (head tail : Nat) (r : Option (BitVec 1024)) (token : Option Nat) : WorkQueue :=
  { idx := 3, entry := queueEntry 0x30000 head tail 1 0 4 false true, record := r, met1 := r.isNone, met2 := r.isNone, token := token, stopped := false
    failing := none, withdrawing := false }

theorem witness_PageFaultRecordsAndAnswers :
    let s := placed (.nop hd (xn 0))
    let x : Access := ⟨.load 4 false [8] 0, 0x50000, 0⟩
    (∀ p, (inPage s p).pageRecords = [pageRecord p] ∧ (inPage s p).engines.greds = [] ∧ (inPage s p).caches.copies = [] ∧
        Memory.wf (inPage s p).mem = true) ∧
      (inPage s false).ringRoom 0x32000 4 = true ∧ field (s.context 0).desc 448 64 = 0x32000 ∧ field (s.context 0).desc 52 4 = 4 ∧
      { s with mem := writeBytes s.mem 0x32000 [16] }.ringRoom 0x32000 4 = false ∧
      ([true, false].all fun at_ =>
        let t := withThread (blocked (.page 5 0x50000 0)) fun t => { t with pc := if at_ then 0x20000 else 0x20008, head := 0x20000 }
        decide (t.threads.length = 1) && decide (((threadOf t).block.map Block.wait) = some (.page 5 0x50000 0)) && (threadOf t).atBoundary == at_ &&
          t.ops.isEmpty && (threadOf t).pending.isEmpty) = true ∧
      ((queue3 0 1 none (some 5)).token = some 5 ∧ (queue3 0 1 none (some 5)).record = none ∧ (queue3 0 1 none (some 5)).failing = none ∧
        (queue3 0 1 none (some 5)).withdrawing = false) ∧
      (({ va := 0, tf := false, decision := none, candidate := [], token := some 5 } : Traversal).token = some 5 ∧ (flight (.logged x 5) [8] (some 3)).stage = .logged x 5 ∧
        (threadOf s).block = none) := by decide +kernel

/-- A launch record that does nothing, with a wait for the counter at 0x40000 and a completion counter there when asked. -/
def nopRecord (waits : Nat) (ce : Bool) : BitVec 1024 :=
  BitVec.ofNat 1024 (4 + waits * 2 ^ 8 + (if ce then 2 ^ 10 else 0) + 0x40000 * 2 ^ 64 + 5 * 2 ^ 128 + 0x40000 * 2 ^ 192 + 5 * 2 ^ 256 +
    (if ce then 0x40000 * 2 ^ 320 else 0))

/-- A state with a work queue, a ring at 0x30000 and a counter at 0x40000. -/
def inWork (w : WorkQueue) (counter : Nat) : State :=
  let s := mapped (mapped (placed (.nop hd (xn 0))) 3 0x30183) 4 0x40187
  { s with queues := [w], mem := writeBytes s.mem 0x40000 (leBytes 8 counter) }

theorem witness_WorkQueueEvents :
    let e : BitVec 256 := queueEntry 0x30000 0 0 0 0 4 false true
    (field e 14 90 = 0 ∧ field e 2 2 = 0 ∧ e.getLsbD 0 = true ∧ field e 4 4 ≠ 0 ∧ (State.reset.queue 3).en = false ∧ (State.reset.queue 3).withdrawing = false) ∧
      (let w := queue3 0 1 none none
       (inWork w 0).queue 3 = w ∧ w.en = true ∧ w.stopped = false ∧ (inWork w 0).mayRun w.ctx = true ∧ w.head ≠ w.tail ∧
         w.failing = none ∧ w.withdrawing = false ∧ (inWork w 0).recordsFull 0 = false ∧ (inWork w 0).caches.copies = [] ∧ (0 + 1) % 2 ^ 32 = w.tail ∧
         ((inWork w 0).deviceRead w.ctx (w.slot w.head).toNat 48).toOption.any (fun b => !recordCe (BitVec.ofNat 1024 (leNat b))) = true ∧
         ((inWork w 0).deviceRead w.ctx (w.slot w.head).toNat 128).toOption.isSome = true ∧ (inWork w 0).reachesQueue (.func 0) w = true ∧
         (inWork w 0).reachesQueue (.program 1) w = false ∧ (queue3 2 2 none none).head = (queue3 2 2 none none).tail) ∧
      ([(0, 1, 16), (0, 16, 16), (4294967295, 0, 0)].all fun p =>
        let ahead (t : Nat) : Nat := (t + 2 ^ 32 - p.1) % 2 ^ 32
        decide (ahead p.2.1 ≤ ahead p.2.2) && decide (ahead p.2.2 ≤ 2 ^ (queue3 0 1 none none).logn)) = true ∧
      ((0 + 2 ^ 32 - 1) % 2 ^ 32 > 2 ^ 4) ∧
      ([4, 5, 2 ^ 63].all fun v =>
        let w := queue3 0 1 (some (nopRecord 3 false)) none
        let s := inWork w v
        decide (s.queue 3 = w) && s.mayRun w.ctx && !w.met1 && !w.met2 && ([0, 1].all fun i =>
          decide (recordWait (nopRecord 3 false) i = (0x40000, 5)) &&
            decide ((s.counterLeaf w.ctx (recordWait (nopRecord 3 false) i).1 false).toOption.map Leaf.pa = some 0x40000)) &&
          decide (s.peekNat 0x40000 8 = v) && decide (regionOf 0x40000 ≠ 4) && !recordCe (nopRecord 3 false) && !s.recordsFull 0 && s.caches.copies.isEmpty) = true ∧
      State.reset.nextQueue = none ∧
      ([0, nopRecord 0 false, nopRecord 0 true].all fun r =>
        let w := { queue3 0 1 (some r) none with met1 := true, met2 := true }
        let s := inWork w 0
        decide (s.nextQueue = some w) && (if r = 0 then !recordOk r else recordOk r && (s.counterLeaf w.ctx (recordCaddr r) true).toOption.isSome == recordCe r &&
          decide (s.readLaunch w.ctx r = .ok (0, 0, 0)) && s.launchOk (w.launch s.nextId r 0 0 0))) = true := by decide +kernel

/-- A kernel of teams of 32 threads, with so many teams in its grid and its cohorts, of a priority. -/
def kernel (id total cohort prio : Nat) : Launch :=
  { drawing with
    id := id
    record := BitVec.ofNat 1024 (1 + prio * 2 ^ 4 + 2 ^ 26 + (cohort - 1) * 2 ^ 29 + 2 ^ 45 + 0x20000 * 2 ^ 384 + total * 2 ^ 576 + 2 ^ 608 + 2 ^ 640 +
      31 * 2 ^ 672) }

/-- A state with launches. -/
def inLaunch (ls : List Launch) : State :=
  let s := mapped (mapped (placed (.nop hd (xn 0))) 3 0x30183) 4 0x40187
  { s with sched := { s.sched with launches := ls } }

/-- A WEIGHTLOAD of 64 bytes at 0x30000 to column 0. -/
def weights : Launch := { drawing with record := BitVec.ofNat 1024 (3 + 0x30000 * 2 ^ 384 + 64 * 2 ^ 480 + 2 ^ 512) }

/-- A state in which the saved team of a launch of PRIO 1 needs the scratchpad that the placed team of a launch of PRIO 0 holds. -/
def crowded : State :=
  let s := withTeam (inLaunch [kernel 5 2 1 1, kernel 6 1 1 0]) fun t => { t with launch := 6 }
  let v : SavedTeam := ⟨{ placedTeam with id := 11, launch := 5, scratchSize := 524288 }, [], 0x1000000, 1310720, []⟩
  { s with
    contexts := [⟨0, placedDesc ||| BitVec.ofNat 1024 (0x1000000 * 2 ^ 640 + 100 * 2 ^ 608)⟩]
    sched := { s.sched with saved := [v] } }

theorem witness_LaunchAndPlacementEvents :
    (let l := kernel 5 2 1 0
     let s := inLaunch [l]
     s.launch? 5 = some l ∧ s.waiting l = true ∧ l.kind = 1 ∧ l.cohort = 1 ∧ s.placeOpen l ⟨0, 0, 15⟩ = true ∧ s.placeOpen l ⟨31, 127, 1⟩ = true ∧
       s.waiting { l with next := 2 } = false ∧ s.nextFits { l with next := 2 } = true) ∧
      (let l := kernel 5 4 2 0
       let s := inLaunch [l]
       s.launch? 5 = some l ∧ s.waiting l = true ∧ l.cohort = 2 ∧ (s.reserveMore (s.aim l)).length = 2 ∧
         ((s.reserveMore (s.aim l)).all fun x => x.full (s.aim l)) = true) ∧
      (let l := { kernel 5 4 2 0 with record := (kernel 5 4 2 0).record ||| 0x80#1024 }
       let s := withTeam (inLaunch [l]) fun t => { t with launch := 5, marked := some 0 }
       s.launch? 5 = some l ∧ s.heldBack l 1 = true ∧ s.heldBack l 0 = false) ∧
      (let l := kernel 7 4 2 0
       let s := inLaunch []
       let t := { s with sched := { s.sched with launches := [{ l with target := some (0, 0), held := [⟨⟨0, 0, 15⟩, false, 0, 0, [], []⟩, ⟨⟨0, 1, 15⟩, false, 0, 0, [], []⟩] },
         weights] } }
       let k := (t.launch? 7).getD l
       t.waiting k = true ∧ (t.reserveMore (t.aim k)).length = 2 ∧ ((t.reserveMore (t.aim k)).all fun x => x.full (t.aim k)) = false) ∧
      (let s := crowded
       let l := kernel 5 2 1 1
       let tm := { placedTeam with launch := 6 }
       s.launch? 5 = some l ∧ s.waiting l = true ∧ ((s.wants l).any fun fit => !fit s && !fit (s.without fun t => t.marked.isSome) && fit (s.without (s.below l))) = true ∧ s.victimTeam l = some tm ∧ s.cohortOf tm = [tm] ∧ s.team? 1 = some tm ∧ s.bins = [] ∧
         s.engines.tiles = []) ∧
      (let s := inLaunch [weights]
       s.launch? 5 = some weights ∧ weights.kind = 3 ∧ (s.weightSource weights).toOption.isSome = true ∧ s.weightEmpty weights = none ∧ s.caches.copies = [] ∧ weights.done = false ∧ weights.cmask.testBit 0 = true ∧
         s.regs.weights = []) ∧
      (let l := { kernel 5 2 1 0 with next := 2 }
       let m := { l with record := l.record ||| BitVec.ofNat 1024 (2 ^ 10 + 0x40000 * 2 ^ 320) }
       (inLaunch [l]).launchOver l = true ∧ l.ce = false ∧ l.windows = [] ∧ (l.failed = false ∧ l.terminated = false) ∧ (inLaunch [kernel 5 2 1 0]).launchOver (kernel 5 2 1 0) = false ∧
         (inLaunch [m]).launchOver m = true ∧ m.ce = true ∧ ((inLaunch [m]).context 0).desc.getLsbD 3 = false ∧
         ((inLaunch [m]).counterLeaf 0 (recordCaddr m.record) true).toOption.map Leaf.pa = some 0x40000 ∧ (inLaunch [m]).caches.copies = [] ∧
         Memory.wf (inLaunch [m]).mem = true) := by decide +kernel

theorem witness_ContextDescriptorEvents :
    let s := placed (.nop hd (xn 0))
    let d := placedDesc
    let dying (b : Bool) : State :=
      { s with contexts := [⟨0, d ||| 8#1024⟩], threads := if b then [] else s.threads, teams := if b then [] else s.teams }
    ((s.context 63).desc.getLsbD 0 = false ∧ (s.context 63).desc.getLsbD 3 = false ∧ d.getLsbD 0 = true ∧ descOk (d &&& ~~~8#1024) = true) ∧
      ((1#1024).getLsbD 0 = true ∧ descOk (1#1024 &&& ~~~8#1024) = false) ∧
      ((s.context 0).desc = d ∧ d.getLsbD 3 = false) ∧ (0#1024).getLsbD 0 = false ∧
      (((dying true).context 0).desc.getLsbD 3 = true ∧ ((dying true).context 0).desc.getLsbD 0 = true ∧ (dying true).quiet 0 = true ∧
        (dying false).quiet 0 = false) := by decide +kernel

/-! ## Escalations, saves, counters, errors and the platform -/

/-- A thread held for the answer to token 5. -/
def heldBy (t : Thread) : Thread := { t with hold := some ⟨5, true, 0, someTrap⟩ }

/-- The placed context with a save area, of a virtual function. -/
def savingContext (func : Nat) : Context :=
  ⟨0, placedDesc ||| BitVec.ofNat 1024 (0x1000000 * 2 ^ 640 + 100 * 2 ^ 608 + func * 2 ^ 8)⟩

/-- A state whose team is marked from cycle 0. -/
def markedTeam (f : Thread → Thread) (now : Nat) : State :=
  let s := withTeam (withThread (placed (.nop hd (xn 0))) f) fun t => { t with marked := some 0 }
  { s with contexts := [savingContext 0], now := now }

/-- A saved team of one thread, whose image is memory as it stands. -/
def savedTeam (m : Memory) : SavedTeam :=
  ⟨{ placedTeam with id := 11 }, [{ placedTeam.newThread 0 12 1 0 .compute 7 0x20000 with parked := true, team := 11 }], 0x1000000, 786432, m⟩

/-- A state with that saved team. -/
def withSaved (ls : List SavedTeam) : State :=
  let s := placed (.nop hd (xn 0))
  { s with sched := { s.sched with saved := ls } }

theorem witness_EscalationSaveAndRestore :
    (let s := withThread (placed (.nop hd (xn 0))) heldBy
     let t := withTeam { s with sched := { s.sched with launches := [drawing] } } fun t => { t with launch := 5 }
     heldThread 0 4 s.threads = none ∧ s.savedHeld 0 4 = none ∧ (heldThread 0 5 t.threads).map (fun p => (p.1.id, p.2.token)) = some (2, 5) ∧
       (t.thread? 2).isSome = true ∧ (t.team? 1).map Team.launch = some 5 ∧ t.launch? 5 = some drawing ∧ (threadOf t).ticket = none ∧
       t.slotsClear 2 = true ∧ t.bins = [] ∧ (threadOf t).pending = [] ∧ t.heldRecords = []) ∧
      (let s := placed (.nop hd (xn 0))
       s.parkDue (threadOf s) = false ∧ s.saveDue placedTeam = false ∧ s.team? 1 = some placedTeam) ∧
      (let s := markedTeam (fun t => { t with mask := some 0 }) 0
       s.parkDue (threadOf s) = true ∧ s.thread? 2 = some (threadOf s)) ∧
      (let s := markedTeam (fun t => { t with block := some { wait := .page 5 0x30000 3, since := 0, next := 0x20008, nextHead := 0x20000, mask := none } }) 0
       s.parkDue (threadOf s) = true ∧ (Wait.page 5 0x30000 3).inGroup = true ∧ (Wait.page 5 0x30000 1).inGroup = false) ∧
      (let s := markedTeam (fun t => { t with pc := 0x20000, head := 0x20000 }) 22000
       s.threads.length = 1 ∧ (s.team? 1).any (fun tm => s.deadlineDue tm (threadOf s)) = true ∧
         ((markedTeam (fun t => { t with pc := 0x20000, head := 0x20000 }) 21999).team? 1).any (fun tm =>
           (markedTeam (fun t => { t with pc := 0x20000, head := 0x20000 }) 21999).deadlineDue tm (threadOf s)) = false) ∧
      (let s := markedTeam (fun t => { t with parked := true }) 0
       s.bins = [] ∧ (s.team? 1).any (fun tm => s.saveDue tm && decide (placeImage (s.context 0).saveArea (s.images 0) tm.imageSize = some 0x1000000)) = true) ∧
      (let v := savedTeam (placed (.nop hd (xn 0))).mem
       let s := withSaved [v]
       s.restorable v = true ∧ s.cohortOut v = true ∧ s.savedCohort v = [v] ∧ s.placeFree v = true ∧ s.mayReturn v = true ∧ s.launch? v.team.launch = none) ∧
      (let s := placed (.nop hd (xn 0))
       let t : State := { s with contexts := [savingContext 1] }
       let on (h now : Nat) : State := { t with sched := { t.sched with holder := h }, now := now }
       s.sched.saved = [] ∧ s.sched.switching = false ∧ (on 1 0).sliceOver = false ∧ t.sched.holder = 0 ∧ t.nextFunction = some 1 ∧
         (on 1 1099999).sliceOver = false ∧ (on 1 1100000).sliceOver = true) ∧
      (let q := { queue3 0 1 none none with entry := queueEntry 0x30000 0 1 1 0 4 false true }
       let t : State := { State.reset with contexts := [savingContext 1], queues := [q] }
       let s : State := { t with sched := { t.sched with holder := 2 } }
       s.teams = [] ∧ s.sliceOver = true ∧ s.nextFunction = some 1 ∧
         (let r : State := { t with sched := { t.sched with holder := 1 }, now := 1100000 }
          r.sched.switching = false ∧ r.sliceOver = true ∧ r.nextFunction = none ∧ r.hasWork 1 = true)) := by decide +kernel

theorem readBytes_eq_map (m : Memory) (n : Nat) : ∀ a, (List.range n).map (fun i => cellRead (w := 8) (a + i) m) = readBytes m a n := by
  induction n with
  | zero => intro a; rfl
  | succ n ih =>
    intro a
    rw [List.range_succ_eq_map, List.map_cons, List.map_map]
    show _ :: _ = cellRead a m :: readBytes m (a + 1) n
    rw [← ih (a + 1)]
    simp [Function.comp_def, Nat.add_assoc, Nat.add_comm 1]

/-- Nothing is marked where no copy is held and no sector is on the list. -/
theorem unmarked (s : State) (hc : s.caches.copies = []) (hp : s.poison = []) (a n : Nat) : s.poisoned a n = false := by
  simp [State.poisoned, State.owner?, hc, hp]

/-- The image of that saved team is as it was written. -/
theorem witness_EscalationSaveAndRestore_intact :
    (withSaved [savedTeam (placed (.nop hd (xn 0))).mem]).intact (savedTeam (placed (.nop hd (xn 0))).mem) = true := by
  unfold State.intact
  rw [Bool.and_eq_true, decide_eq_true_eq]
  exact ⟨readBytes_eq_map _ _ _, by rw [unmarked _ rfl rfl]; rfl⟩

theorem witness_CountersAndRegisterWrites :
    (State.reset.regs.ctrcmd.getLsbD 63 = false ∧ { State.reset.regs with ctrcmd := 0x8000000000000000 }.ctrcmd.getLsbD 63 = true) ∧
      (State.reset.caches.copies = [] ∧ Memory.wf State.reset.mem = true) ∧
      (field (0x2000000080000001 : DWord) 61 2 = 1 ∧ field (0x2000000080000001 : DWord) 32 5 = 0 ∧ State.reset.functionLive 0 = true ∧ State.reset.functionLive 31 = false ∧
        (field (0x2000000080000001 : DWord) 0 32).testBit 31 = true ∧ (field (0x2000000080000001 : DWord) 0 32).testBit 0 = true ∧ field (0x2000001F00000001 : DWord) 32 5 = 31) ∧
      (field (0x4000000080000001 : DWord) 61 2 = 2 ∧ field (0x4000001F00000001 : DWord) 61 2 = 2) ∧ field (1 : DWord) 0 32 ≠ 0 ∧ ¬(0x100000 ≤ 0x010 ∧ 0x010 < 0x140000) ∧
      (field State.reset.regs.ctrcmd 61 2 ≠ 1 ∧ (1 : DWord).getLsbD 0 = true ∧ (0 : DWord).getLsbD 0 = false ∧ vectorControl ≠ 0x010) := by
  decide +kernel

/-- A held record of 64 bytes. -/
def heldRecord : HeldRecord := ⟨0, 0, List.replicate 64 1, 0⟩

theorem witness_ErrorEventsAct :
    (State.reset.sitePlace (.register 9 0) = none ∧ State.reset.sitePlace (.memory (hbmSize / 32)) = none ∧ State.reset.sitePlace (.parity 32) = none) ∧
      (let s (d : Nat) : State := { State.reset with caches := { State.reset.caches with copies := [{ managedCopy with owned := true, dirty := d }] } }
       (s 1).copy? 0 (0x1800 / 4) = some { managedCopy with owned := true, dirty := 1 } ∧ ({ managedCopy with dirty := 1 } : LineCopy).dirtyOf 0 ≠ 0 ∧
         ({ managedCopy with dirty := 0 } : LineCopy).dirtyOf 0 = 0 ∧ (s 1).teams = [] ∧ (s 1).ops = [] ∧ managedCopy.col = 0) ∧
      (State.reset.sitePlace (.level1 0 127 0) = some (0, 2) ∧ State.reset.owner? 0 = none) ∧
      ((placed (.nop hd (xn 0))).team? 1 = some placedTeam ∧ 127 * 32 < placedTeam.scratchSize) ∧
      (regionOf (0 * 32) = 0 ∧ 0 * 32 % 2 ^ 37 < hbmSize) ∧
      State.reset.sitePlace (.memory 0) = some (0, 7) ∧ State.reset.sitePlace (.weights 31 0) = some (31, 5) ∧
      ([(4, true), (16, false)].all fun p =>
        let s := placed (.nop hd (xn 0))
        let s := { s with heldRecords := [heldRecord], mem := writeBytes s.mem 0x31000 [BitVec.ofNat 8 p.1] }
        s.ringRoom (field (s.context 0).desc 384 64) (field (s.context 0).desc 60 4) == p.2 && s.caches.copies.isEmpty && s.engines.ops.isEmpty &&
          Memory.wf s.mem) = true ∧
      heldRecord.bytes.length = 64 ∧ State.reset.power = .on := by decide +kernel

/-- A request to memory that is not the package's own, under way since cycle 0. -/
def remote (pa : Nat) (now : Nat) (down : List (Nat × Nat)) : State :=
  { placed (.nop hd (xn 0)) with ops := [flight (.remote ⟨.load 4 false [8] 0, 0x30000, 0⟩ { columnLeaf with pa := pa } 0) [8] (some 3)], now := now, peersDown := down }

/-- Settings with one aperture, number 0, of package 7, and a route to it. -/
def fabric (s : State) : State :=
  { s with platform := { s.platform with settings := { defaultSettings with apertures := [(0, 7, 0)], routes := [(7, 3)] } } }

theorem witness_HostAccessAndLinkEvents :
    (let s := State.reset
     regionOf 0x200000 = 0 ∧ s.tableAt 0x200000 = none ∧ s.entryAt 0x200000 = none ∧ memoryAt 0x200000 8 = true ∧ s.caches.copies = [] ∧
        s.servedRange 0x200000 8 = true ∧ s.freshFrames 0x200000 8 = s ∧ s.poisoned 0x200000 8 = false ∧ 0x200000 % 8 = 0 ∧
        s.closedTo 7 0x200000 8 = false ∧
        { s with platform := { s.platform with refused := [(7, 0x20)] } }.closedTo 7 0x200000 8 = true) ∧
      (regionOf (3 * 2 ^ 44) = 3 ∧ (fabric State.reset).peerOf (3 * 2 ^ 44) = some 7 ∧ (Action.load 4 false [8] 0).isStore = false) ∧
      ((Action.load 4 false [8] 0).dst ≠ [] ∧ regionOf (2 ^ 44) = 1 ∧ (remote (2 ^ 44) 1100000 []).ops.length = 1) ∧
      ((fabric (remote (3 * 2 ^ 44) 0 [])).served (3 * 2 ^ 44) = true ∧ (fabric (remote (3 * 2 ^ 44) 0 [(7, 0)])).served (3 * 2 ^ 44) = false) ∧
      (let down (n : Nat) (b : Bool) : State := { State.reset with platform := { State.reset.platform with links := [⟨23, n, b⟩] } }
       (down 16 true).platform.links.find? (fun (k : LinkPort) => k.port = 23) = some ⟨23, 16, true⟩ ∧
         ((down 15 false).platform.links.find? (fun (k : LinkPort) => k.port = 23)).map LinkPort.fails = some 15 ∧ State.reset.platform.links = []) ∧
      (let s : State := { State.reset with peersDown := [(7, 0)], inks := [{ region 2 with peers := [7], acks := [3] }], now := 1100000 }
       (s.peersDown.any fun k => decide (k.1 = 7 ∧ k.2 + 1100000 ≤ s.now)) = true ∧ (s.inks.all fun r => decide (7 ∈ r.peers ∧ r.acks ≠ [])) = true) := by
  decide +kernel

theorem witness_PlatformEventsAct :
    chooseSlot State.reset.platform.rollback State.reset.platform.slots = none ∧ State.reset.power = .on ∧ State.reset.platform.chosen = 0 ∧
      ([] : List Byte).length ≤ 16777216 ∧ (List.replicate 32 (0 : Byte)).length = 32 ∧ State.reset.platform.leaf < 2 ^ 20 ∧
      2 ^ 20 ≤ { State.reset.platform with leaf := 2 ^ 20 }.leaf ∧ State.reset.platform.floor ≤ 7500000 ∧
      State.reset.platform.windowFrom + 1100000 ≤ 1100000 ∧ State.reset.platform.writing = none ∧ State.reset.powered = true ∧
      { State.reset.platform with writing := some 1 }.slotsLeft = [[], []] ∧ { State.reset with power := .recovery }.power = .recovery := by decide +kernel

/-- Boot chooses the slot of a valid image beside an empty one. Which images are valid rests on the key in the boot ROM, which the spec
does not give. -/
theorem witness_PlatformEventsAct_image (b : List Byte) (cfg : Config.Settings) (hk : imageOk 0 b = true)
    (hb : Config.bodySettings (imageBody b) = some cfg) :
    chooseSlot 0 [b, []] = some 0 ∧ Config.bodySettings (imageBody (([b, []] : List (List Byte)).getD 0 [])) = some cfg ∧
      { State.reset.platform with slots := [b, []] }.slotsLeft = [b, []] := by
  have n : imageOk 0 ([] : List Byte) = false := by decide +kernel
  refine ⟨?_, hb, rfl⟩
  unfold chooseSlot
  show (if (imageOk 0 b && (!imageOk 0 [] || _)) = true then some 0 else _) = some 0
  rw [hk, n]
  rfl

/-- What a signature of LMS rests on: the digits of a hash end with those of their checksum (RFC 8554, section 4.4). -/
theorem test_otsDigits :
    otsDigits (List.replicate 32 0xFF) = List.replicate 64 15 ++ [0, 0, 0] ∧ otsDigits (List.replicate 32 0) = List.replicate 64 0 ++ [3, 12, 0] := by
  decide +kernel

/-! ## Issue, frames and whole steps -/

theorem witness_DecodeInvertsEncode :
    (Instr.madw hd ⟨10, 4, 5, 10, 1, 0⟩).head?.isSome = true ∧ (Instr.madw hd ⟨10, 4, 5, 10, 1, 0⟩).illegal = none ∧
      (∃ i, decode 0x0400385020285080 = .ok i ∧ i.head?.isSome = true) :=
  ⟨by decide +kernel, by decide +kernel, Instr.madw hd ⟨10, 4, 5, 10, 1, 0⟩, by decide +kernel, by decide +kernel⟩

theorem witness_StepRunsDecodedInstruction :
    let s := placed (.nop hd (xn 0))
    s.power = .on ∧ s.agenda = [] ∧ s.issuing = [(3, 2)] ∧ s.cur.isSome = true ∧ s.thread? 2 = some (threadOf s) ∧ (threadOf s).issues s.now = true ∧
      (issueOf s).clause.words[(issueOf s).idx]? = some 0xE8003F8787878000 ∧ decode 0xE8003F8787878000 = .ok (.nop hd (xn 0)) := by decide +kernel

/-- The conditions that the statement about the order of faults shares. -/
def issuesAt (s : State) (i : Instr) : Bool :=
  decide (s.cur = some (issueOf s)) && decide (s.thread? (issueOf s).tid = some (threadOf s)) &&
    !(s.atIssue (threadOf s) hd i).deferredDue ((threadOf s).atIssue s.now) i

/-- No fault of items 1 to 3. -/
def decodesAt (s : State) (h : Head) (i : Instr) : Bool :=
  issuesAt s i && ((s.atIssue (threadOf s) h i).decodeFault (issueOf s) ((threadOf s).atIssue s.now) h i).isNone

/-- The registers that the instruction names. -/
def namedAt (s : State) (i : Instr) : List Nat :=
  let k := (s.atIssue (threadOf s) hd i).usesOf ((threadOf s).atIssue s.now) i
  k.src ++ k.dst

/-- A state whose context checks the scoreboard, with a result of the thread that is not ready. -/
def checking (f : Dest) : State :=
  let s := withThread (placed (.nop hd (xn 0))) fun t => { t with flights := [⟨10, f⟩] }
  { s with contexts := [⟨0, placedDesc ||| 2#1024⟩] }

theorem witness_IssueFaultsInOrder :
    let s := placed (.nop hd (xn 0))
    let add := Instr.add hd (r3 0 0)
    let h0 : Head := { hd with gp := 0 }
    (issuesAt s (.nop hd (xn 1)) = true ∧ (issueOf s).illegal hd (.nop hd (xn 1)) = some .instruction ∧ s.slotsClear 2 = true ∧
        (threadOf s).inHandler = false) ∧
      (issuesAt s (.nop hd ⟨8, 0xF0, 0xF0, 0xF0, 0⟩) = true ∧ (issueOf s).illegal hd (.nop hd ⟨8, 0xF0, 0xF0, 0xF0, 0⟩) = some .operand) ∧
      (let t := allotted add 1 []
       let i := Instr.add hd ⟨40, 4, 6, 0xF0, 0, 0⟩
       issuesAt t i = true ∧ (issueOf t).illegal hd i = none ∧ 40 ∈ namedAt t i ∧ 16 + 16 * 1 ≤ 40 ∧ 16 + 16 * (2 - 1) ≤ 40) ∧
      (let i := Instr.inkstat hv ⟨40, 4, 0xF0, 0xF0, 0⟩
       let t := allotted i 1 []
       decide (t.cur = some (issueOf t)) && decide (t.thread? (issueOf t).tid = some (threadOf t)) &&
         !(t.atIssue (threadOf t) hv i).deferredDue ((threadOf t).atIssue 0) i && decide ((issueOf t).illegal hv i = none) &&
         offAllotment ((threadOf t).atIssue 0) i && !offAllotment ((threadOf t).atIssue 0) (.inkstat hv ⟨28, 4, 0xF0, 0xF0, 0⟩)) = true ∧
      (let i := Instr.qswz hd ⟨8, 4, 0xF0, 0xF0, 14, 0xF⟩
       let t := quadState i 0
       let other (f : Thread → Thread) : State := { t with threads := t.threads ++ [f { threadOf t with id := 12, lane := 3, quad := some 3 }] }
       let a : State := other fun (x : Thread) => { x with poisoned := [4] }
       let b : State := { other id with ops := [{ flight (.ready [] false) [4] (some 3) with tid := 12 }] }
       quadSource i = some 4 ∧ decodesAt a hd i = true ∧ decodesAt b hd i = true ∧
         (a.atIssue (threadOf a) hd i).quadLease (issueOf a) ((threadOf a).atIssue 0) 4 = false ∧
         (a.atIssue (threadOf a) hd i).quadPoison (issueOf a) ((threadOf a).atIssue 0) hd i 4 = true ∧
         ({ b with cur := b.cur.map fun (c : Issue) => { c with members := [2, 12] } } : State).quadLease { issueOf b with members := [2, 12] } ((threadOf b).atIssue 0) 4 = true) ∧
      (let t := checking (.pred 0 true)
       decodesAt t h0 (.add h0 (r3 0 0)) = true ∧ (t.context 0).chksb = true ∧ underrun ((threadOf t).atIssue 0) h0 {} = true) ∧
      (let h1 : Head := { hd with gn := true }
       decodesAt s h1 (.add h1 (r3 0 0)) = true ∧ s.guardUnderrun (threadOf s) h1 = false ∧ ((threadOf s).atIssue 0).guard h1 = false) ∧
      (let t := { placed add with ops := [flight (.ready [] false) [4] (some 3)] }
       decodesAt t hd add = true ∧ t.guardUnderrun (threadOf t) hd = false ∧ (threadOf t).guard hd = true ∧ t.leased 2 (namedAt t add) = true) ∧
      (let t := checking (.reg 4 7)
       decodesAt t hd add = true ∧ t.guardUnderrun (threadOf t) hd = false ∧ t.leased 2 (namedAt t add) = false ∧
         underrun ((threadOf t).atIssue 0) hd ((t.atIssue (threadOf t) hd add).usesOf ((threadOf t).atIssue 0) add) = true) ∧
      (let t := withThread (placed add) fun t => { t with poisoned := [4] }
       decodesAt t hd add = true ∧ t.guardUnderrun (threadOf t) hd = false ∧ t.leased 2 (namedAt t add) = false ∧ (t.context 0).chksb = false ∧
         4 ∈ ((t.atIssue (threadOf t) hd add).usesOf ((threadOf t).atIssue 0) add).src ∧ 4 ∈ ((threadOf t).atIssue 0).poisoned) := by decide +kernel

theorem witness_FixedResultsLandAtLatency :
    cellWf (threadOf (placed (.nop hd (xn 0)))).regs = true ∧ (threadOf (placed (.nop hd (xn 0)))).flights = [] ∧ 3 < 0 + 4 ∧ 0 + 4 ≤ 4 ∧
      ([⟨3, .reg 8 1⟩, ⟨4, .pred 6 true⟩] : List Flight).Pairwise (fun f g => f.ready ≤ g.ready) ∧ 6 < 7 ∧ 4 ≠ 8 := by decide +kernel

theorem witness_NopChangesNothing :
    runs (.nop hd (xn 0)) = true ∧ (Instr.nop hd (xn 0)).illegal = none ∧ (threadOf (placed (.nop hd (xn 1)))).pending = [] ∧
      (xn 1).fn ≠ 0 ∧ (placed (.nop hd (xn 1))).cur = some (issueOf (placed (.nop hd (xn 1)))) := by decide +kernel

theorem witness_MinimumAndMaximumExact :
    ([[], [(4, 0x7F800001)], [(6, 0xFFFFFFFF)], [(4, 0x7FC00000), (6, 0x7FC00001)], [(4, 0x80000000)], [(6, 0x3F800000)]].all fun rs =>
      ready (withRegs (placed (.fmin hd (r3 8 0))) rs) (.fmin hd (r3 8 0)) && ready (withRegs (placed (.fmax hd (r3 8 0x1F))) rs) (.fmax hd (r3 8 0x1F))) = true := by
  decide +kernel

theorem witness_RegisterInstructionFrame :
    ([Instr.add hd (r3 0 0), .cmpi hd ⟨2, 4, 100⟩, .movk hd ⟨8, 3, 1⟩, .pand hd ⟨3, 1, 2, 0xF0, 0, 4⟩, .rds hd ⟨8, 0xF0, 0xF0, 0xF0, 2⟩, .nop hd (xn 0),
      .mulw hd (r3 0 0)].all fun i => runs i && (match i.timing with | .fixed _ => true | _ => decide (i = .nop hd (xn 0))) &&
        cellWf (threadOf (placed i)).regs && decide (i.head? = some hd)) = true := by decide +kernel

theorem witness_MemoryAccessFrame :
    accesses.all (fun i => ready (inScratch i) i && ready (inColumn i) i && !(issueOf (inScratch i)).inGroup && !(threadOf (inScratch i)).helper &&
      match accessOf (inScratch i) i, accessOf (inColumn i) i with
      | some (x, n), some (y, k) =>
        atScratchB (inScratch i) ((threadOf (inScratch i)).atIssue 0) x n (barrierTeam placedTeam) && cellWf (barrierTeam placedTeam).scratch &&
          decide ((barrierTeam placedTeam).scratchPoison = []) &&
          !(x.act.apply (readBytes (barrierTeam placedTeam).scratch (x.va.toNat - windowBase) x.act.width)).misuse &&
          atColumnB (inColumn i) (issueOf (inColumn i)) ((threadOf (inColumn i)).atIssue 0) y k { columnLeaf with pa := y.va.toNat, va := y.va.toNat } &&
          !(y.act.apply (readBytes (inColumn i).mem y.va.toNat y.act.width)).misuse
      | _, _ => false) = true := by decide +kernel

/-- A word of one thread executes beside another thread. -/
theorem witness_OtherThreadsKept :
    let s := inBarrier (.barr hd ⟨0xF0, 0xF0, 6, 0xF0, 0⟩) ⟨0, 4, 4, false⟩ 1
    (Instr.barr hd ⟨0xF0, 0xF0, 6, 0xF0, 0⟩).head? = some hd ∧ s.cur = some (issueOf s) ∧ (s.threads.map Thread.id) = [2, 5] ∧
      (match exec (.barr hd ⟨0xF0, 0xF0, 6, 0xF0, 0⟩) s with | .next v => decide (v.threads.map Thread.id = [2, 5]) | _ => false) = true := by decide +kernel

theorem witness_MemoryKeepsItsForm :
    Memory.wf (inColumn (.st hd ⟨4, 4, 0xF0, 0, 0⟩)).mem = true ∧
      (match step (inColumn (.st hd ⟨4, 4, 0xF0, 0, 0⟩)) with | .next t => decide (t.mem ≠ (inColumn (.st hd ⟨4, 4, 0xF0, 0, 0⟩)).mem) | _ => false) = true := by
  decide +kernel

theorem witness_StepAlwaysHasNextState :
    State.reset.agenda = [] ∧ (∃ s : State, ∃ i, i ∈ s.agenda ∧ i.head? = none ∧ ∀ w, i ≠ .unlistedOpcodeIssue w) :=
  ⟨rfl, { State.reset with agenda := [.sliceEnd] }, .sliceEnd, List.mem_singleton.2 rfl, rfl, fun _ h => Instr.noConfusion h⟩

/-! ## What well-formedness refuses (R26, R60 to R65, R70, R79) -/

/-- The instructions of format RRR with operands that are well formed. -/
def rrrForms : List ((Head → RRR → Instr) × RRR) :=
  [(Instr.add, r3 0 0), (Instr.sub, r3 2 16), (Instr.addc, r3 1 0x7F), (Instr.subb, r3 1 0), (Instr.mul, r3 7 0), (Instr.mulhi, r3 3 0), (Instr.mulw, r3 1 0), (Instr.mad, r4 0 0),
    (Instr.madw, r4 1 0), (Instr.add3, r4 2 0), (Instr.min, r3 5 0), (Instr.max, r3 0 0), (Instr.abs, ⟨8, 4, 0xF0, 0xF0, 0, 16⟩), (Instr.neg, ⟨8, 4, 0xF0, 0xF0, 0, 0⟩),
    (Instr.and, r3 14 0), (Instr.or, r3 15 0), (Instr.xor, r3 14 0), (Instr.not, ⟨8, 4, 0xF0, 0xF0, 14, 0⟩), (Instr.andn, r3 14 0), (Instr.shl, r3 14 0), (Instr.shr, r3 15 0),
    (Instr.sar, r3 14 0), (Instr.rot, r3 15 0), (Instr.bfx, r3 14 1), (Instr.bfi, r4 15 0), (Instr.brev, ⟨8, 4, 0xF0, 0xF0, 14, 0⟩), (Instr.popc, ⟨8, 4, 0xF0, 0xF0, 15, 0⟩),
    (Instr.clz, ⟨8, 4, 0xF0, 0xF0, 14, 0⟩), (Instr.bpick, r4 14 0), (Instr.lea, r3 15 11), (Instr.dp4, r4 6 16)] ++
  [(Instr.fadd, r3 8 0x7F), (Instr.fsub, r3 8 0), (Instr.fmul, r3 8 16), (Instr.ffma, r4 8 0x48), (Instr.fmin, r3 8 0), (Instr.fmax, r3 8 15),
    (Instr.frnd, ⟨8, 4, 0xF0, 0xF0, 8, 0x60⟩), (Instr.fscl, r3 8 0), (Instr.fcmp, ⟨1, 4, 6, 7, 8, 2⟩), (Instr.fclass, ⟨8, 4, 0xF0, 0xF0, 8, 0⟩), (Instr.hadd2, r3 9 0),
    (Instr.hmul2, r3 10 0x1F), (Instr.hfma2, r4 9 0), (Instr.hmin2, r3 10 0), (Instr.hmax2, r3 9 0), (Instr.fdot2, r4 9 0), (Instr.fcvt, ⟨8, 4, 0xF0, 0xF0, 9, 0⟩),
    (Instr.fpk, ⟨8, 4, 6, 10, 13, 3⟩), (Instr.fupk, ⟨8, 4, 0xF0, 0xF0, 13, 7⟩), (Instr.i2f, ⟨8, 4, 0xF0, 0xF0, 2, 0x20⟩), (Instr.f2i, ⟨8, 4, 0xF0, 0xF0, 3, 0x20⟩)] ++
  [(Instr.mov, ⟨8, 0xD6, 0xF0, 0xF0, 15, 0⟩), (Instr.sel, ⟨8, 4, 6, 4, 15, 1⟩), (Instr.cmp, ⟨1, 4, 6, 7, 0, 2⟩), (Instr.pand, ⟨3, 1, 2, 0xF0, 0, 4⟩),
    (Instr.por, ⟨7, 7, 2, 0xF0, 0, 0⟩), (Instr.pxor, ⟨3, 1, 2, 0xF0, 0, 12⟩), (Instr.pnot, ⟨3, 1, 0xF0, 0xF0, 0, 0⟩), (Instr.prd, ⟨8, 0xF0, 0xF0, 0xF0, 14, 0⟩),
    (Instr.pwr, ⟨0xF0, 4, 6, 0xF0, 14, 0⟩), (Instr.ddx, ⟨8, 4, 0xF0, 0xF0, 8, 1⟩), (Instr.ddy, ⟨8, 4, 0xF0, 0xF0, 8, 1⟩), (Instr.qswz, ⟨8, 4, 0xF0, 0xF0, 14, 0xF⟩)]

/-- R65, R81: a type that the instruction does not take is no instruction; R26, R79: a reserved operand code is no operand. -/
theorem test_rrr_ill_formed :
    rrrForms.all (fun p => decide ((p.1 hd p.2).illegal = none) &&
      ([{ p.2 with d := 0xD8 }, { p.2 with a := 0xD8 }, { p.2 with b := 0xD8 }, { p.2 with c := 0xD8 }] : List RRR).all
        fun o => !(p.1 hd o).operandsOk) = true ∧
      ((rrrForms.take 31).all fun p => !(p.1 hd { p.2 with ty := 8 }).fieldsOk) = true ∧
      (((rrrForms.drop 31).take 19).all fun p => !(p.1 hd { p.2 with ty := 7 }).fieldsOk) = true ∧
      ((rrrForms.drop 50).all fun p => !(p.1 hd { p.2 with ty := 11 }).fieldsOk) = true := by decide +kernel

/-- R81: modifier bits that the instruction does not have. -/
theorem test_rrr_modifiers :
    (rrrForms.filter fun p => (p.1 hd { p.2 with mod := 0x7F }).fieldsOk).map (fun p => (p.1 hd p.2).timing) =
      [.fixed 4, .fixed 4, .fixed 5, .fixed 5, .fixed 5, .fixed 5, .fixed 5, .fixed 5, .fixed 5, .fixed 5, .fixed 5] := by decide +kernel

/-- R61, R101, R107: the other formats of a fixed latency: a shift count, a condition, a constant's form, a special register. -/
theorem test_immediates_ill_formed :
    ([Instr.shli hd ⟨3, 4, 32⟩, .shri hd ⟨3, 4, 32⟩, .sari hd ⟨3, 4, 32⟩, .cmpi hd ⟨2, 4, 0x3000000⟩, .movk hd ⟨8, 4, 0⟩,
      .rds hd ⟨8, 0xF0, 0xF0, 0xF0, 15⟩, .wrs hd ⟨0xF0, 4, 0xF0, 0xF0, 5⟩, .bra hd ⟨0xF0, 1, 0⟩, .brx hd ⟨4, 4, 0⟩, .call hd ⟨0xF0, 1, 0⟩,
      .callx hd ⟨4, 1, 0⟩, .ret hd ⟨0xF0, 0, 8⟩].all fun i => decide (i.illegal = some .instruction)) = true ∧
      ([Instr.addi hd ⟨0x80, 4, 0⟩, .muli hd ⟨3, 0xD8, 0⟩, .andi hd ⟨0x80, 4, 0⟩, .ori hd ⟨0x80, 4, 0⟩, .xori hd ⟨0x80, 4, 0⟩, .shli hd ⟨0x80, 4, 0⟩,
        .shri hd ⟨0x80, 4, 0⟩, .sari hd ⟨0x80, 4, 0⟩, .cmpi hd ⟨8, 4, 0⟩, .faddk hd ⟨0xF0, 0, 0⟩, .fmulk hd ⟨0x80, 0, 0⟩, .movk hd ⟨3, 1, 0⟩,
        .rds hd ⟨0x80, 0xF0, 0xF0, 0xF0, 0⟩, .wrs hd ⟨8, 4, 0xF0, 0xF0, 6⟩, .bra hd ⟨4, 0, 0⟩, .brx hd ⟨5, 0, 0⟩, .call hd ⟨4, 0, 0⟩, .callx hd ⟨0xF0, 0, 0⟩,
        .ret hd ⟨4, 0, 0⟩].all fun i => decide (i.illegal = some .operand)) = true := by decide +kernel

/-- R62, R63: the memory formats. -/
theorem test_memory_ill_formed :
    (([Instr.ld hv, .ldro hv, .ldw hv, .st hd] : List (MF → Instr)).all fun f =>
        decide ((f ⟨8, 4, 0xF0, 0, 0⟩).illegal = none) && decide ((f ⟨8, 4, 0xE0, 0, 0⟩).illegal = some .instruction) &&
          decide ((f ⟨8, 4, 0xF0, 0, 4⟩).illegal = some .instruction) && decide ((f ⟨8, 4, 0xF1, 0, 0⟩).illegal = some .instruction) &&
          decide ((f ⟨8, 4, 6, 0x80F0, 0⟩).illegal = some .instruction) && decide ((f ⟨8, 5, 0xF0, 0, 0⟩).illegal = some .operand) &&
          decide ((f ⟨0x80, 4, 0xF0, 0, 0⟩).illegal = some .operand) && decide ((f ⟨10, 4, 0xD0, 0, 0⟩).illegal = some .operand) &&
          decide ((f ⟨9, 4, 0xC0, 0, 0⟩).illegal = some .operand)) = true ∧
      ([Instr.ldro hv ⟨8, 4, 0xF4, 0, 0⟩, .ldw hv ⟨8, 4, 0x80, 0, 0⟩, .ld hv ⟨8, 4, 0xF8, 0, 0⟩, .st hd ⟨8, 4, 0xF4, 0, 0⟩, .pref hd ⟨0xF0, 4, 0xC0, 0, 0⟩,
        .fence hd ⟨0xF0, 4, 0xF0, 0, 0⟩, .fence hd ⟨0xF0, 4, 0xF8, 0, 1⟩].all fun i => decide (i.illegal = some .instruction)) = true ∧
      ([Instr.pref hd ⟨8, 4, 0xF0, 0, 0⟩, .fence hd ⟨8, 4, 0xF8, 0, 0⟩].all fun i => decide (i.illegal = some .operand)) = true := by decide +kernel

/-- The instructions of format X that have no register of their own result in flight, with operands that are well formed. -/
def xForms : List ((XF → Instr) × XF) :=
  [(Instr.wbr hd, ⟨0xF0, 4, 6, 0xF0, 0⟩), (Instr.invr hd, ⟨0xF0, 4, 6, 0xF0, 0⟩), (Instr.atom hv, ⟨8, 4, 6, 0xF0, 0x200⟩), (Instr.cas hv, ⟨8, 4, 6, 10, 0⟩),
    (Instr.red hd, ⟨0xF0, 4, 6, 0xF0, 0⟩), (Instr.xadd hd, ⟨0xF0, 4, 6, 0xF0, 0⟩), (Instr.xrd hv, ⟨8, 4, 0xF0, 0xF0, 0x10⟩), (Instr.append hv, ⟨8, 4, 12, 0xF0, 1⟩),
    (Instr.seal hd, ⟨0xF0, 4, 0xF0, 0xF0, 0⟩), (Instr.inkfree hd, ⟨0xF0, 4, 0xF0, 0xF0, 0⟩), (Instr.inkstat hv, ⟨8, 4, 0xF0, 0xF0, 0⟩),
    (Instr.tcom hd, ⟨1, 0xF0, 0xF0, 0xF0, 0⟩), (Instr.qpush hd, ⟨0xF0, 8, 0xF0, 0xF0, 0⟩), (Instr.qpop hd, ⟨8, 0xF0, 0xF0, 0xF0, 0⟩), (Instr.qtry hd, ⟨0xF0, 8, 0xF0, 1, 0⟩),
    (Instr.barr hd, ⟨0xF0, 0xF0, 6, 0xF0, 0⟩), (Instr.bwait hd, ⟨7, 6, 0xF0, 0xF0, 0⟩), (Instr.barrw hd, ⟨1, 0xF0, 0xF0, 0xF0, 0⟩), (Instr.bcfg hd, ⟨0xF0, 6, 0xF0, 0xF0, 0⟩),
    (Instr.mbarr hd, ⟨0xF0, 4, 6, 0xF0, 0⟩), (Instr.mbwait hd, ⟨0xF0, 4, 6, 0xF0, 0⟩), (Instr.cvarm hd, ⟨0xF0, 4, 6, 0xF0, 0⟩), (Instr.sign hd, xn 0),
    (Instr.spawn hd, ⟨0xF0, 4, 8, 0xF0, 0⟩), (Instr.exit hd, xn 0), (Instr.refill hd, ⟨6, 0xF0, 0xF0, 0xF0, 0⟩), (Instr.blkget hd, xn 1), (Instr.blkput hd, xn 1), (Instr.yield hd, xn 0),
    (Instr.nap hd, ⟨0xF0, 6, 0xF0, 0xF0, 0⟩), (Instr.sbw hd, xn 255)] ++
  [(Instr.sfld hv, ⟨12, 6, 8, 0xF0, 0⟩), (Instr.sfst hd, ⟨0xF0, 6, 8, 12, 0⟩), (Instr.sfatom hv, ⟨12, 6, 8, 14, 0⟩), (Instr.sffence hd, xn 0), (Instr.tex hv, ⟨12, 6, 8, 0xF0, 0x60⟩),
    (Instr.texg hv, ⟨12, 6, 8, 0xF0, 0x60⟩), (Instr.texq hv, ⟨12, 6, 0xF0, 0xF0, 0⟩), (Instr.pemit hd, ⟨0xF0, 20, 0xF0, 10, 0⟩), (Instr.pxout hd, ⟨0xF0, 20, 0xF0, 0xF0, 0⟩),
    (Instr.pxkill hd, xn 0), (Instr.pxord hd, xn 0), (Instr.trace hv, ⟨8, 4, 0xF0, 0xF0, 0⟩), (Instr.tcont hv, ⟨8, 4, 14, 0xF0, 1⟩), (Instr.neval hv, ⟨8, 4, 6, 0xF0, 0⟩),
    (Instr.nflush hd, xn 0), (Instr.rstat hv, ⟨8, 4, 0xF0, 0xF0, 0⟩), (Instr.mma hd, ⟨0xF0, 4, 0xF0, 0xF0, 0⟩), (Instr.accz hd, ⟨0xF0, 6, 0xF0, 0xF0, 0⟩),
    (Instr.accld hd, ⟨0xF0, 4, 6, 0xF0, 0⟩), (Instr.accst hd, ⟨0xF0, 4, 6, 0xF0, 0⟩), (Instr.copy hd, ⟨0xF0, 4, 0xF0, 0xF0, 0⟩), (Instr.trap hd, xn 0), (Instr.tret hd, xn 0),
    (Instr.nop hd, xn 0), (Instr.tinfo hd, ⟨8, 0xF0, 0xF0, 0xF0, 0⟩), (Instr.rdtime hd, ⟨8, 0xF0, 0xF0, 0xF0, 0⟩), (Instr.rdctr hv, ⟨8, 0xF0, 0xF0, 0xF0, 0⟩),
    (Instr.gred hd, ⟨0xF0, 4, 6, 10, 0⟩), (Instr.brk hd, xn 0)]

/-- R61, R79: format X: a reserved operand code in each place, and a function field that is not defined (every one is of `gred` and
`brk`). -/
theorem test_x_ill_formed :
    xForms.all (fun p => decide ((p.1 p.2).illegal = none) &&
      ([{ p.2 with d := 0xD8 }, { p.2 with a := 0xD8 }, { p.2 with b := 0xD8 }, { p.2 with c := 0xD8 }] : List XF).all
        fun o => !(p.1 o).operandsOk) = true ∧
      ((xForms.take 58).all fun p => !(p.1 { p.2 with fn := 0x7FF }).fieldsOk) = true ∧ xForms.length = 60 := by decide +kernel

/-- R60, R68: a slot without WE, WE on an instruction of a fixed latency, and none on a variable one. -/
theorem test_head_ill_formed :
    ([Instr.add { hd with wslot := 3 } (r3 0 0), .add hv (r3 0 0), .ld hd ⟨8, 4, 0xF0, 0, 0⟩, .frcp hd ⟨8, 4, 0xF0, 0xF0, 8, 0⟩,
      .frcp { hv with we := false } ⟨8, 4, 0xF0, 0xF0, 8, 0⟩].all fun i => decide (i.illegal = some .instruction)) = true ∧
      (Instr.frcp hv ⟨8, 4, 0xF0, 0xF0, 8, 0⟩).illegal = none ∧ (Instr.frcp hv ⟨8, 4, 0xF0, 0xF0, 7, 0⟩).illegal = some .instruction := by decide +kernel

/-! ## Words of the spec's encodings -/

/-- R60, R61: words of format RRR. -/
theorem test_decode_rrr :
    decode 0x0C003860671F8780 = .ok (.shl hd ⟨12, 12, 0xE3, 0xF0, 15, 0⟩) ∧ decode 0x2880381020283C02 = .ok (.fcmp hd ⟨2, 4, 5, 7, 8, 2⟩) ∧
      decode 0x31803850202F8500 = .ok (.fpk hd ⟨10, 4, 5, 0xF0, 10, 0⟩) ∧ decode 0x4C0038481F878401 = .ok (.ddx hd ⟨9, 3, 0xF0, 0xF0, 8, 1⟩) := by
  decide +kernel

/-- R60, R61: words of formats RI, K and X. -/
theorem test_decode_ri_k_x :
    decode 0x1800380819000064 = .ok (.cmpi hd ⟨1, 3, 0x1000064⟩) ∧ decode 0x340038293F000000 = .ok (.faddk hd ⟨5, 1, 0x3F000000⟩) ∧
      decode 0x4800381787878002 = .ok (.rds hd ⟨2, 0xF0, 0xF0, 0xF0, 2⟩) := by decide +kernel

/-! ## Results of one instruction, by hand from the rules -/

/-- A register of the issuing thread once the instruction's result has landed. -/
def lands (i : Instr) (rs : Cells 32) (n : Nat) : Option Word :=
  match exec i (withRegs (placed i) rs) with
  | .next v => v.threads.head?.map fun t => (t.settle 100).reg n
  | _ => none

/-- A predicate of the issuing thread once the instruction's result has landed. -/
def landsPred (i : Instr) (rs : Cells 32) (n : Nat) : Option Bool :=
  match exec i (withRegs (placed i) rs) with
  | .next v => v.threads.head?.map fun t => (t.settle 100).pred n
  | _ => none

/-- R82: addition wraps, and clamps with SAT; of unsigned types subtraction clamps at 0; the high half of a product. -/
theorem test_integer_corners :
    lands (.add hd (r3 0 0)) [(4, 0x7FFFFFFF), (6, 1)] 8 = some 0x80000000 ∧ lands (.add hd (r3 0 16)) [(4, 0x7FFFFFFF), (6, 1)] 8 = some 0x7FFFFFFF ∧
      lands (.sub hd (r3 1 16)) [(6, 1)] 8 = some 0 ∧ lands (.mulhi hd (r3 1 0)) [(4, 0xFFFFFFFF), (6, 0xFFFFFFFF)] 8 = some 0xFFFFFFFE ∧
      lands (.mulhi hd (r3 0 0)) [(4, 0xFFFFFFFF), (6, 0xFFFFFFFF)] 8 = some 0 := by decide +kernel

/-- R83, R84: a product of 64 bits fills a pair, low word first, and the carry goes to a predicate. -/
theorem test_pairs_and_carries :
    lands (.mulw hd (r3 1 0)) [(4, 0x80000000), (6, 6)] 8 = some 0 ∧ lands (.mulw hd (r3 1 0)) [(4, 0x80000000), (6, 6)] 9 = some 3 ∧
      lands (.lea hd (r3 15 3)) [(4, 0xFFFFFFF8), (6, 0xFFFFFFFF)] 8 = some 0xFFFFFFF0 := by decide +kernel

/-- R86 to R89: a shift by the width gives 0, of `sar` the sign; a rotation takes the count modulo the width; counting bits. -/
theorem test_bits :
    lands (.shl hd (r3 14 0)) [(4, 1), (6, 32)] 8 = some 0 ∧ lands (.sar hd (r3 14 0)) [(4, 0x80000000), (6, 40)] 8 = some 0xFFFFFFFF ∧
      lands (.rot hd (r3 14 0)) [(4, 0x80000001), (6, 33)] 8 = some 3 ∧ lands (.bfx hd (r3 14 1)) [(4, 0x00000F00), (6, 0x408)] 8 = some 0xFFFFFFFF ∧
      lands (.popc hd ⟨8, 4, 0xF0, 0xF0, 14, 0⟩) [(4, 0xF0F0F0F1)] 8 = some 17 ∧ lands (.clz hd ⟨8, 4, 0xF0, 0xF0, 14, 0⟩) [(4, 1)] 8 = some 31 ∧
      lands (.brev hd ⟨8, 4, 0xF0, 0xF0, 14, 0⟩) [(4, 1)] 8 = some 0x80000000 := by decide +kernel

/-- R34, R95, R98: one rounding, ties to even; the fused form keeps what the product would lose; compares with a NaN. -/
theorem test_float_rounding :
    lands (.fadd hd (r3 8 0)) [(4, 0x3F800000), (6, 0x33800000)] 8 = some 0x3F800000 ∧
      lands (.fadd hd (r3 8 0)) [(4, 0x3F800001), (6, 0x33800000)] 8 = some 0x3F800002 ∧
      lands (.ffma hd (r4 8 0)) [(4, 0x3F800001), (6, 0x3F7FFFFF), (10, 0xBF800000)] 8 = some 0x337FFFFE ∧
      lands (.fmul hd (r3 8 0)) [(4, 0x7F800000)] 8 = some 0x7FC00000 ∧ lands (.fmin hd (r3 8 0)) [(4, 0x7FC00001), (6, 0x3F800000)] 8 = some 0x3F800000 ∧
      landsPred (.fcmp hd ⟨1, 4, 6, 7, 8, 0⟩) [(4, 0x7FC00000), (6, 0x7FC00000)] 1 = some false ∧
      landsPred (.fcmp hd ⟨1, 4, 6, 7, 8, 0⟩) [(6, 0x80000000)] 1 = some true := by decide +kernel

/-- R104, R106: a conversion to binary16 rounds 65,520 to infinity and 65,519 to the greatest number. -/
theorem test_narrowing :
    lands (.fcvt hd ⟨8, 4, 0xF0, 0xF0, 9, 0⟩) [(4, 0x477FEF00)] 8 = some 0x7BFF ∧
      lands (.fpk hd ⟨8, 4, 6, 0xF0, 9, 0⟩) [(4, 0x477FF000), (6, 0x477FEF00)] 8 = some 0x7BFF7C00 := by decide +kernel

/-- R107 to R110: forms of `movk`, predicates, and a compare of signed words. -/
theorem test_moves :
    lands (.movk hd ⟨8, 0, 0x12345678⟩) [] 8 = some 0x12345678 ∧ lands (.addi hd ⟨8, 4, 0x7FFFFFF⟩) [(4, 5)] 8 = some 4 ∧
      landsPred (.pand hd ⟨3, 7, 7, 0xF0, 0, 4⟩) [] 3 = some false ∧ landsPred (.cmp hd ⟨1, 4, 6, 7, 0, 2⟩) [(4, 0xFFFFFFFF), (6, 1)] 1 = some true ∧
      landsPred (.cmp hd ⟨1, 4, 6, 7, 1, 2⟩) [(4, 0xFFFFFFFF), (6, 1)] 1 = some false := by decide +kernel

/-- R1, R128, R163, R164: a store puts the low byte first; a trap saves the address after its clause and enters at TRAPENT with its cause. -/
theorem test_store_and_trap :
    (let i := Instr.st hd ⟨6, 4, 0xF0, 0, 0⟩
     let s := withRegs (inColumn i) [(4, 0x30000), (6, 0x11223344)]
     match exec i s with | .next v => decide (v.peek 0x30000 5 = [0x44, 0x33, 0x22, 0x11, 0]) | _ => false) = true ∧
      (let i := Instr.trap hd ⟨0xF0, 4, 0xF0, 0xF0, 0⟩
       match exec i (withRegs (placed i) [(4, 9)]) with
       | .next v => (v.threads.all fun t => decide (t.trapPc = 0x20010 ∧ t.trapInfo = 0x18 ∧ t.trapAddr = 9 ∧ t.inHandler = true ∧ t.pc = 0)) | _ => false) = true := by decide +kernel

end Sys2Proof.Tests
end

section
/-! PROOF. The faults that a word meets before its own effect (R17, R21, R24, R67, R70, R116, R145, R406): each is precise at the word,
and the first that holds, in the order of R70, is the one taken. -/

namespace Sys2Proof.Machine

/-! ## A Lamen instruction is the issue of its word -/

/-- Every instruction with common fields is an effect of its own, given to the one shared issue. -/
theorem exec_eq_issue {i : Instr} {h : Head} (hh : i.head? = some h) (s : State) : ∃ eff, exec i s = issue i h s eff := by
  cases i <;> cases hh <;> exact ⟨_, rfl⟩

/-- Where a thread issues the word, the instruction is the issue of the word for that thread, on the state at the issue. -/
theorem exec_eq_issueThread {i : Instr} {h : Head} {s : State} {c : Issue} {t : Thread} (hh : i.head? = some h)
    (hc : s.cur = some c) (ht : s.thread? c.tid = some t) :
    ∃ eff, exec i s = .next ((s.atIssue t h i).issueThread c (t.atIssue s.now) h i eff) := by
  obtain ⟨eff, he⟩ := exec_eq_issue hh s
  obtain ⟨v, hv⟩ := issue_total hc ht i h eff
  obtain ⟨c', t', hc', ht', rfl⟩ := issue_cases hv
  obtain rfl : c = c' := Option.some.inj (hc.symm.trans hc')
  obtain rfl : t = t' := Option.some.inj (ht.symm.trans ht')
  exact ⟨eff, he.trans hv⟩

/-! ## The state at the issue -/

@[simp] theorem Thread.atIssue_id (t : Thread) (n : Nat) : (t.atIssue n).id = t.id := by
  have hk := (t.settle_keeps n).identity
  simp only [Prod.mk.injEq] at hk
  exact hk.1

@[simp] theorem State.atIssue_ops (s : State) (t : Thread) (h : Head) (i : Instr) : (s.atIssue t h i).ops = s.ops := by
  obtain ⟨r, hr⟩ := s.atIssue_eq t h i; rw [hr]; rfl

@[simp] theorem State.atIssue_leased (s : State) (t : Thread) (h : Head) (i : Instr) (n : Nat) (rs : List Nat) :
    (s.atIssue t h i).leased n rs = s.leased n rs := by simp [State.leased]

@[simp] theorem State.atIssue_slotsClear (s : State) (t : Thread) (h : Head) (i : Instr) (n : Nat) :
    (s.atIssue t h i).slotsClear n = s.slotsClear n := by simp [State.slotsClear]

/-- The issuing thread is found in the state at the issue as its word finds it. -/
theorem State.atIssue_thread? {s : State} {n : Nat} {t : Thread} (ht : s.thread? n = some t) (h : Head) (i : Instr) :
    (s.atIssue t h i).thread? (t.atIssue s.now).id = some (t.atIssue s.now) := by
  obtain ⟨r, hr⟩ := s.atIssue_eq t h i
  have hid : (t.atIssue s.now).id = n := (t.atIssue_id s.now).trans (State.thread?_id ht)
  rw [hr]
  exact State.thread?_setThread (s := { s with regs := r }) (t := t) (hid ▸ ht)

/-- A thread of another number was there before one was replaced. -/
theorem State.mem_of_mem_setThread {s : State} {u x : Thread} (hx : x ∈ (s.setThread u).threads) (hne : x.id ≠ u.id) :
    x ∈ s.threads := by
  obtain rfl | ⟨hold, -⟩ := State.mem_setThread hx
  · exact absurd rfl hne
  · exact hold

/-! ## A precise fault -/

/-- The information word of a precise fault without a subcode is its cause (R205). -/
theorem infoWord_of_cause {k : Nat} (hk : k < 256) : infoWord k 0 false = BitVec.ofNat 32 k := by
  simp [infoWord, Nat.mod_eq_of_lt hk]

/-- A precise fault with a free address changes one thread and the model's own numbers. That thread keeps its registers, and enters its
handler with the word's address where its slots are clear and no handler runs. -/
theorem State.raiseFree_frame {s : State} {c : Issue} {u : Thread} {k : Nat} (hu : s.thread? u.id = some u) (hk : k < 256) :
    ∃ w : Thread, ∃ n : Nat, s.raiseFree c u k = { s with fresh := s.fresh + 1, nextId := n }.setThread w ∧ w.id = u.id ∧
      w.regs = u.regs ∧ w.preds = u.preds ∧ w.stack = u.stack ∧ w.allot = u.allot ∧ w.flights = u.flights ∧
      (s.slotsClear u.id = true → u.inHandler = false →
        w.trapPc = c.pc ∧ w.trapInfo = BitVec.ofNat 32 k ∧ w.inHandler = true ∧ w.pc = (s.context u.ctx).trapEntry) := by
  rw [State.raiseFree_eq, State.raise]
  set a : State := { s with fresh := s.fresh + 1 }
  set x : Trap := ⟨k, 0, Config.freeValue s.fresh, false, c.pc, c.clause.head⟩
  obtain ⟨w, n, hw, -, hid, hregs, hpreds, hflights, hstack, -, hallot, -⟩ := a.takeTrap_eq u x
  refine ⟨w, n, hw, hid, hregs, hpreds, hstack, hallot, hflights, fun hclear hout => ?_⟩
  have hfound : (a.takeTrap u x).thread? u.id = some w := by
    rw [hw, ← hid]
    exact State.thread?_setThread (s := { a with nextId := n }) (hid ▸ hu)
  rw [State.takeTrap_enters (s := a) hclear hout] at hfound
  obtain rfl := Option.some.inj (hfound.symm.trans (State.thread?_setThread (s := a) (t := u) hu))
  exact ⟨rfl, infoWord_of_cause hk, rfl, rfl⟩

/-- The instruction ends in a precise fault of cause `k` and has no effect: of the state, the threads' records, the counters, and the
model's own numbers may differ, and of the threads the one that issues, which keeps its registers; it enters its handler with the word's
address where its slots are clear and no handler runs. -/
def State.FaultsAt (s : State) (c : Issue) (u : Thread) (i : Instr) (k : Nat) : Prop :=
  ∃ v : State, ∃ w : Thread, exec i s = .next v ∧ v.thread? c.tid = some w ∧
    { v with threads := s.threads, regs := s.regs, fresh := s.fresh, nextId := s.nextId } = s ∧
    (∀ x ∈ v.threads, x.id ≠ c.tid → x ∈ s.threads) ∧ w.regs = u.regs ∧ w.preds = u.preds ∧ w.stack = u.stack ∧ w.allot = u.allot ∧
    w.flights = u.flights ∧ (s.slotsClear c.tid = true → u.inHandler = false →
      w.trapPc = c.pc ∧ w.trapInfo = BitVec.ofNat 32 k ∧ w.inHandler = true ∧ w.pc = (s.context u.ctx).trapEntry)

/-- An instruction that ends in a fault raised at the issue has that fault, precise at the word. -/
theorem State.faultsAt_of_raiseFree {s : State} {c : Issue} {t : Thread} {h : Head} {i : Instr} {k : Nat}
    (ht : s.thread? c.tid = some t) (hk : k < 256)
    (he : exec i s = .next ((s.atIssue t h i).raiseFree c (t.atIssue s.now) k)) : s.FaultsAt c (t.atIssue s.now) i k := by
  have hid : (t.atIssue s.now).id = c.tid := (t.atIssue_id s.now).trans (State.thread?_id ht)
  have hu := State.atIssue_thread? ht h i
  obtain ⟨w, n, hv, hwid, hregs, hpreds, hstack, hallot, hflights, henters⟩ := State.raiseFree_frame (c := c) hu hk
  rw [hid, State.atIssue_slotsClear, State.atIssue_context] at henters
  obtain ⟨r, hr⟩ := s.atIssue_eq t h i
  rw [hv] at he
  refine ⟨_, w, he, ?_, by rw [hr]; rfl, fun y hy hne => ?_, hregs, hpreds, hstack, hallot, hflights, henters⟩
  · rw [← hid, ← hwid]
    exact State.thread?_setThread (s := { s.atIssue t h i with fresh := _, nextId := n }) (hwid ▸ hu)
  · have hat : y ∈ (s.atIssue t h i).threads := State.mem_of_mem_setThread hy (fun e => hne (e.trans (hwid.trans hid)))
    rw [hr] at hat
    exact State.mem_of_mem_setThread (s := { s with regs := r }) hat (fun e => hne (e.trans hid))

/-! ## The first fault that holds is taken (R70) -/

section
variable {s : State} {c : Issue} {u : Thread} {h : Head} {i : Instr}

/-- Items 1 to 3 of R70 fault guard or no guard. -/
theorem State.issueThread_of_decodeFault {k : Nat} (hdue : s.deferredDue u i = false) (hd : s.decodeFault c u h i = some k)
    (eff : State → Issue → Thread → State) : s.issueThread c u h i eff = s.raiseFree c u k := by
  simp [State.issueThread, hdue, hd]

/-- A word whose guard passes takes the first fault of its sources. -/
theorem State.issueThread_of_sourceFault {k : Nat} (hdue : s.deferredDue u i = false) (hd : s.decodeFault c u h i = none)
    (hg : u.guard h = true) (hf : s.sourceFault c u h i = some k) (eff : State → Issue → Thread → State) :
    s.issueThread c u h i eff = s.raiseFree c u k := by
  simp [State.issueThread, hdue, hd, hg, hf]

/-- A word whose guard fails faults only where the guard's predicate is read before it is ready (notes/assumptions/55.md). -/
theorem State.issueThread_of_guard_fails (hdue : s.deferredDue u i = false) (hd : s.decodeFault c u h i = none)
    (hg : u.guard h = false) (eff : State → Issue → Thread → State) :
    s.issueThread c u h i eff = if s.guardUnderrun u h then s.raiseFree c u 0x05 else s.setThread (u.advance c h s.now) := by
  simp [State.issueThread, hdue, hd, hg]

/-- A word that breaks a rule of its clause or its encoding as an instruction. -/
theorem State.decodeFault_of_instruction (hl : c.illegal h i = some .instruction) : s.decodeFault c u h i = some 0x01 := by
  simp [State.decodeFault, hl]

/-- A word with an illegal operand. -/
theorem State.decodeFault_of_operand (hl : c.illegal h i = some .operand) : s.decodeFault c u h i = some 0x02 := by
  simp [State.decodeFault, hl]

/-- A well-formed `inkstat` whose destination leaves the allotment (R145). -/
theorem State.decodeFault_of_offAllotment (hl : c.illegal h i = none) (ho : offAllotment u i = true) :
    s.decodeFault c u h i = some 0x02 := by
  simp [State.decodeFault, hl, ho]

/-- Another well-formed word that names a register above the allotment (R17). -/
theorem State.decodeFault_of_rangeFault (hl : c.illegal h i = none) (ho : offAllotment u i = false)
    (hr : rangeFault u (s.usesOf u i) (c.maskWord h) = true) : s.decodeFault c u h i = some 0x03 := by
  simp [State.decodeFault, hl, ho, hr]

/-- A register at or above the end of the allotment is a range fault, whatever mask word follows (R17). -/
theorem rangeFault_of_named {us : Uses} {m : Option DWord} (hn : ∃ n ∈ us.src ++ us.dst, 16 + 16 * u.allot ≤ n) :
    rangeFault u us m = true := by
  have hany : (us.src ++ us.dst).any (fun n => decide (16 + 16 * u.allot ≤ n)) = true := by
    simpa only [List.any_eq_true, decide_eq_true_eq] using hn
  unfold rangeFault
  rw [hany, Bool.true_or]

/-- The registers that the word needs and that are under lease: its own, and source A of a quad instruction in every member (R24,
R116). -/
def State.NamesLeased (s : State) (c : Issue) (u : Thread) (i : Instr) : Prop :=
  s.leased u.id ((s.usesOf u i).src ++ (s.usesOf u i).dst) = true ∨ ∃ a, quadSource i = some a ∧ s.quadLease c u a = true

/-- The word reads a marked register: a source of its own, or source A of a quad instruction that another member supplies (R116,
R406). -/
def State.ReadsPoison (s : State) (c : Issue) (u : Thread) (h : Head) (i : Instr) : Prop :=
  (∃ n ∈ (s.usesOf u i).src, n ∈ u.poisoned) ∨ ∃ a, quadSource i = some a ∧ s.quadPoison c u h i a = true

theorem State.namesLeased_iff : s.NamesLeased c u i ↔
    (s.leased u.id ((s.usesOf u i).src ++ (s.usesOf u i).dst) || (quadSource i).any (s.quadLease c u)) = true := by
  simp only [State.NamesLeased, Bool.or_eq_true, Option.any_eq_true]

theorem State.readsPoison_iff : s.ReadsPoison c u h i ↔
    ((s.usesOf u i).src.any u.poisoned.contains || (quadSource i).any (s.quadPoison c u h i)) = true := by
  simp only [State.ReadsPoison, Bool.or_eq_true, Option.any_eq_true, List.any_eq_true, List.contains_iff_mem]

/-- A lease comes first among the faults of the sources. -/
theorem State.sourceFault_of_leased (hl : s.NamesLeased c u i) : s.sourceFault c u h i = some 0x04 := by
  rw [State.namesLeased_iff] at hl
  simp only [State.sourceFault, hl, if_true]

/-- With no lease, a result that is not ready comes next, under the checking scoreboard. -/
theorem State.sourceFault_of_underrun (hl : ¬s.NamesLeased c u i) (hs : (s.context u.ctx).chksb = true)
    (hu : underrun u h (s.usesOf u i) = true) : s.sourceFault c u h i = some 0x05 := by
  rw [State.namesLeased_iff, Bool.not_eq_true] at hl
  simp only [State.sourceFault, hl, hs, hu, Bool.false_eq_true, if_false, Bool.and_self, if_true]

/-- With neither, a marked source is the fault. -/
theorem State.sourceFault_of_poison (hl : ¬s.NamesLeased c u i)
    (hu : (s.context u.ctx).chksb = false ∨ underrun u h (s.usesOf u i) = false) (hp : s.ReadsPoison c u h i) :
    s.sourceFault c u h i = some 0x0F := by
  rw [State.namesLeased_iff, Bool.not_eq_true] at hl
  rw [← Bool.and_eq_false_iff] at hu
  rw [State.readsPoison_iff] at hp
  simp only [State.sourceFault, hl, hu, hp, Bool.false_eq_true, if_false, if_true]

end

/-! ## The obligation -/

/-- Settles O51: the instruction is the issue of its word, and each clause is one branch of the issue. -/
theorem issueFaultsInOrder : Obligations.IssueFaultsInOrder := by
  unfold Obligations.IssueFaultsInOrder
  intro i h s c t hh hc ht u s' named leased faults hdue
  obtain ⟨eff, he⟩ := exec_eq_issueThread hh hc ht
  have hid : u.id = c.tid := (t.atIssue_id s.now).trans (State.thread?_id ht)
  have hcontext : s'.context u.ctx = s.context u.ctx := State.atIssue_context ..
  have hleased : leased ↔ s'.NamesLeased c u i := by
    unfold State.NamesLeased
    rw [State.atIssue_leased, hid]
  have raises {k : Nat} (hk : k < 256) (hr : s'.issueThread c u h i eff = s'.raiseFree c u k) : faults k :=
    State.faultsAt_of_raiseFree ht hk (he.trans (congrArg _ hr))
  have early {k : Nat} (hk : k < 256) (hd : s'.decodeFault c u h i = some k) : faults k :=
    raises hk (State.issueThread_of_decodeFault hdue hd eff)
  refine ⟨fun hl => early (by decide) (State.decodeFault_of_instruction hl),
    fun hl => early (by decide) (State.decodeFault_of_operand hl),
    fun hl ho => early (by decide) (State.decodeFault_of_offAllotment hl ho),
    fun hl ho hn => early (by decide) (State.decodeFault_of_rangeFault hl ho (rangeFault_of_named hn)),
    fun k _ hn => rangeFault_of_named hn, fun hd => ⟨fun hg => ?guardFails, fun hg => ?guardPasses⟩⟩
  case guardFails =>
    have hout := State.issueThread_of_guard_fails hdue hd hg eff
    rw [State.guardUnderrun, hcontext] at hout
    constructor
    · intro hs hu
      exact raises (by decide) (by simpa [hs, hu] using hout)
    · intro hu
      rw [he, hout, Bool.and_eq_false_iff.mpr hu, State.atIssue_now]
      rfl
  case guardPasses =>
    have late {k : Nat} (hk : k < 256) (hf : s'.sourceFault c u h i = some k) : faults k :=
      raises hk (State.issueThread_of_sourceFault hdue hd hg hf eff)
    rw [hleased, ← hcontext]
    exact ⟨fun hl => late (by decide) (State.sourceFault_of_leased hl), fun hl =>
      ⟨fun hs hu => late (by decide) (State.sourceFault_of_underrun hl hs hu),
        fun hu hp => late (by decide) (State.sourceFault_of_poison hl hu hp)⟩⟩

end Sys2Proof.Machine
end

section
/-! PROOF. `fmin` and `fmax` (R96): the result is one of the two modified inputs, chosen by which of them is a NaN and, of two numbers, by
their order with −0 below +0; SAT applies to what was chosen. -/

namespace Sys2Proof.Machine

/-! ## NaNs and the order of codes in binary32 -/

/-- A binary32 code is a NaN where its magnitude lies above that of an infinity (R34). -/
theorem unpack_f32_isNan_iff (x : Nat) : (unpack .f32 x).isNan = true ↔ 0x7F800000 < x % 2 ^ 31 := by
  have hmag : x % 2 ^ 32 % 2 ^ 31 = x % 2 ^ 31 := Nat.mod_mod_of_dvd x ⟨2, rfl⟩
  simp only [unpack, Fmt.bits, Fmt.signBit, Fmt.maxCode, Fmt.infCode?, Option.some.injEq, Nat.add_one_sub_one, hmag]
  split
  · split <;> simp only [Val.isNan, Bool.false_eq_true, false_iff, true_iff] <;> omega
  · split <;> simp only [Val.isNan, Bool.false_eq_true, false_iff] <;> omega

/-- The order of R96 in binary32: a magnitude with its sign, where each negative code comes below +0. -/
theorem orderKey_f32 (x : Nat) : orderKey .f32 x = if x < 2 ^ 31 then (x : Int) else 2 ^ 31 - 1 - x := by
  simp only [orderKey, Fmt.signBit, Fmt.bits]
  split <;> omega

/-! ## The choice between two codes -/

/-- The first code is the one that the operation returns of two numbers that differ: the lesser for `fmin` (`hi` false), the greater for
`fmax`. -/
def Preferred (f : Fmt) : (hi : Bool) → (a b : Nat) → Prop
  | false, a, b => orderKey f a < orderKey f b
  | true, a, b => orderKey f b < orderKey f a

section
variable {f : Fmt} {hi : Bool} {a b : Nat}

theorem minMax_of_both_nan (ha : (unpack f a).isNan = true) (hb : (unpack f b).isNan = true) : minMax f hi a b = f.nanCode := by
  simp only [minMax, ha, hb]

theorem minMax_of_first_nan (ha : (unpack f a).isNan = true) (hb : ¬(unpack f b).isNan = true) : minMax f hi a b = b := by
  simp only [minMax, ha, Bool.eq_false_of_not_eq_true hb]

theorem minMax_of_second_nan (ha : ¬(unpack f a).isNan = true) (hb : (unpack f b).isNan = true) : minMax f hi a b = a := by
  simp only [minMax, Bool.eq_false_of_not_eq_true ha, hb]

theorem minMax_of_numbers (ha : ¬(unpack f a).isNan = true) (hb : ¬(unpack f b).isNan = true) :
    minMax f hi a b = if decide (orderKey f a < orderKey f b) != hi then a else b := by
  simp only [minMax, Bool.eq_false_of_not_eq_true ha, Bool.eq_false_of_not_eq_true hb]

/-- Of two numbers one is returned, and the preferred one where they differ. -/
theorem minMax_of_numbers_selects (ha : ¬(unpack f a).isNan = true) (hb : ¬(unpack f b).isNan = true) :
    (minMax f hi a b = a ∨ minMax f hi a b = b) ∧ (Preferred f hi a b → minMax f hi a b = a) ∧
      (Preferred f hi b a → minMax f hi a b = b) := by
  rw [minMax_of_numbers ha hb]
  cases hi with
  | false =>
    exact ⟨ite_eq_or_eq .., fun hp => if_pos (by simpa [Preferred] using hp), fun hp => if_neg (by simpa using Int.le_of_lt hp)⟩
  | true =>
    exact ⟨ite_eq_or_eq .., fun hp => if_pos (by simpa using Int.le_of_lt hp), fun hp => if_neg (by simpa [Preferred] using hp)⟩

end

/-! ## The instructions -/

/-- A binary32 instruction of two modified sources completes with its function's code, clamped under SAT, 5 cycles later. -/
theorem issue_floatOp2 {s : State} {c : Issue} {t : Thread} {h : Head} {i : Instr} (H : Issues s c t h i) (o : RRR)
    (g : Nat → Nat → Nat) : issue i h s (floatFixed h o.d (floatOp2 o g)) =
      .next (s.afterFixed c t h i 5 (dstWord o.d (BitVec.ofNat 32 (finish .f32 o
        (g (modA .f32 o (srcWord s (t.atIssue s.now) o.a).toNat) (modB .f32 o (srcWord s (t.atIssue s.now) o.b).toNat)))))) := by
  unfold floatFixed
  rw [issue_fixed H]
  simp only [floatOp2, srcWord_atIssue]

/-- Settles O54: each clause is one case of the choice, which the instruction makes on its modified sources. -/
theorem minimumAndMaximumExact : Obligations.MinimumAndMaximumExact := by
  unfold Obligations.MinimumAndMaximumExact
  intro h o s c t u a b nan rank returns
  have hnan (x : Nat) : nan x ↔ (unpack .f32 x).isNan = true := (unpack_f32_isNan_iff x).symm
  have hrank : rank = orderKey .f32 := funext fun x => (orderKey_f32 x).symm
  have chosen (i : Instr) (hi : Bool) (hexec : exec i s = issue i h s (floatFixed h o.d (floatOp2 o (minMax .f32 hi)))) :
      returns i (Preferred .f32 hi a b) (Preferred .f32 hi b a) := fun H => by
    refine ⟨minMax .f32 hi a b, hexec.trans (issue_floatOp2 H o _), ?_⟩
    simp only [hnan]
    exact ⟨minMax_of_both_nan, minMax_of_first_nan, minMax_of_second_nan, minMax_of_numbers_selects⟩
  rw [hrank]
  exact ⟨chosen (.fmin h o) false rfl, chosen (.fmax h o) true rfl⟩

end Sys2Proof.Machine
end

section
/-! PROOF. `nop` (R112): its word, its faults and its place in the thread. -/

namespace Sys2Proof.Machine

/-! ## Fixed-latency words: what stays beside the issuing thread -/

/-- A word whose whole effect is on its thread changes that thread's record and the counters of events only. -/
theorem State.becomes_frame {s : State} {n : Nat} {t v : Thread} (ht : s.thread? n = some t) (hv : v.id = t.id) (h : Head) (i : Instr) :
    { s.becomes t h i v with threads := s.threads, regs := s.regs } = s ∧ (s.becomes t h i v).thread? n = some v ∧
      ∀ x ∈ (s.becomes t h i v).threads, x.id ≠ n → x ∈ s.threads := by
  obtain rfl : t.id = n := State.thread?_id ht
  have hu : (s.atIssue t h i).thread? v.id = some (t.atIssue s.now) := by
    simpa [hv] using State.atIssue_thread? ht h i
  obtain ⟨r, hr⟩ := s.atIssue_eq t h i
  refine ⟨by rw [State.becomes, hr]; rfl, hv ▸ State.thread?_setThread hu, fun x hx hne => ?_⟩
  have hat : x ∈ (s.atIssue t h i).threads := State.mem_of_mem_setThread hx (hv ▸ hne)
  rw [hr] at hat
  exact State.mem_of_mem_setThread hat (by simpa using hne)

/-- With no result to write, nothing goes in flight. -/
@[simp] theorem Thread.launch_nil (t : Thread) (n lat : Nat) : t.launch n lat [] = t := rfl

/-- The results that land at an issue are the thread's own: what is pending stays. -/
@[simp] theorem Thread.atIssue_pending (t : Thread) (n : Nat) : (t.atIssue n).pending = t.pending := by
  have hk := (t.settle_keeps n).traps
  simp only [Prod.mk.injEq] at hk
  obtain ⟨-, -, -, -, -, -, hpending, -⟩ := hk
  exact hpending

/-- With no fault pending, none falls due. -/
theorem State.deferredDue_of_no_pending {s : State} {u : Thread} (hp : u.pending = []) (i : Instr) : s.deferredDue u i = false := by
  simp [State.deferredDue, hp]

/-! ## `nop` -/

theorem decodeFields_encX_nop (h : Head) (o : XF) : decodeFields (encX 0x1D0 h o) = .nop h o := by
  simp [decodeFields]

/-- A word is well-formed where each of its three checks holds. -/
theorem wellFormed_iff {i : Instr} : i.WellFormed ↔ i.headOk = true ∧ i.fieldsOk = true ∧ i.operandsOk = true := by
  unfold Instr.WellFormed Instr.illegal
  cases i.headOk <;> cases i.fieldsOk <;> cases i.operandsOk <;> simp

/-- A `nop` with another FN is an illegal instruction (R112). -/
theorem nop_illegal_of_fn {h : Head} {o : XF} (hf : o.fn ≠ 0) : (Instr.nop h o).illegal = some .instruction := by
  have hfields : (Instr.nop h o).fieldsOk = false := decide_eq_false hf
  simp [Instr.illegal, hfields]

/-- So is the word in a clause, whatever the clause. -/
theorem Issue.illegal_of_nop_fn {c : Issue} {h : Head} {o : XF} (hf : o.fn ≠ 0) : c.illegal h (.nop h o) = some .instruction := by
  unfold Issue.illegal
  dsimp only
  split
  · rfl
  · exact nop_illegal_of_fn hf

/-- A well-formed `nop` has no operand and FN 0 (R112). -/
theorem operands_of_wellFormed_nop {h : Head} {o : XF} (hw : (Instr.nop h o).WellFormed) : o = ⟨0xF0, 0xF0, 0xF0, 0xF0, 0⟩ := by
  obtain ⟨d, a, b, c, fn⟩ := o
  obtain ⟨-, hfields, hoperands⟩ := wellFormed_iff.mp hw
  simp only [Instr.fieldsOk, Instr.operandsOk, unused, Bool.and_eq_true, decide_eq_true_eq] at hfields hoperands
  obtain ⟨⟨⟨rfl, rfl⟩, rfl⟩, rfl⟩ := hoperands
  rw [hfields]

/-- A `nop` that issues sends its thread to the next word, and does nothing else. -/
theorem exec_nop {s : State} {c : Issue} {t : Thread} {h : Head} {o : XF} (H : Issues s c t h (.nop h o)) :
    exec (.nop h o) s = .next (s.becomes t h (.nop h o) ((t.atIssue s.now).advance c h s.now)) :=
  issue_fixed H 4 fun _ _ _ => []

/-- Settles O53: another FN is the first fault of the word's issue, and a `nop` that issues only advances its thread. -/
theorem nopChangesNothing : Obligations.NopChangesNothing := by
  unfold Obligations.NopChangesNothing
  intro h o s c t u
  refine ⟨decodeFields_encX_nop h o, operands_of_wellFormed_nop, fun hc ht hp hf => ?illegal, fun H => ?issues⟩
  case illegal =>
    obtain ⟨eff, he⟩ := exec_eq_issueThread (i := .nop h o) rfl hc ht
    have hdue : (s.atIssue t h (.nop h o)).deferredDue u (.nop h o) = false :=
      State.deferredDue_of_no_pending ((t.atIssue_pending s.now).trans hp) _
    have hd : (s.atIssue t h (.nop h o)).decodeFault c u h (.nop h o) = some 0x01 :=
      State.decodeFault_of_instruction (Issue.illegal_of_nop_fn hf)
    rw [he, State.issueThread_of_decodeFault hdue hd]
  case issues =>
    have hid : (u.advance c h s.now).id = t.id := t.atIssue_id s.now
    obtain ⟨hrest, hown, hothers⟩ := State.becomes_frame H.thread hid h (.nop h o)
    exact ⟨_, exec_nop H, hrest, hown, hothers, rfl, rfl, rfl, rfl⟩

end Sys2Proof.Machine
end
